-- ==== Sys2Proof/Word.lean ====
section
/-! DEFINITION. The word types of the block: 32-bit command and register words (R7), bytes, and the 64-bit
counters (R7, R40). -/

namespace Sys2Proof

/-- A command word or register word (R7: "Command words and register-port words are 32 bits"). -/
abbrev Word := BitVec 32

/-- A payload, dictionary or output byte. -/
abbrev Byte := BitVec 8

/-- A size or counter held in a LO/HI register pair (R7, R40). -/
abbrev Count := BitVec 64

end Sys2Proof
end

