-- ==== Sys2Proof/Syntax.lean ====
section
/-! DEFINITION. The commands of the LHDB command set v1: one constructor for each row of spec/opcode_table.json,
with the fields of its format (R111). A field keeps the width the format gives it, so that every word with a
listed opcode and zero reserved bits is one `Instr`; the legal ranges of R125 are a check on `Instr`. -/

namespace Sys2Proof

/-- The table select `t` (R113): 0 is the C table, 1 is the PT table. -/
inductive Table where
  | c
  | pt
  deriving DecidableEq, Repr

/-- The tree side `d` (R113): 0 is left (the 0-child), 1 is right (the 1-child). -/
inductive Side where
  | left
  | right
  deriving DecidableEq, Repr

/-- The ready-made table number `m` of format FRM (R113, R240): 0 is lh1's, 1 is lh3's. -/
inductive ReadyTable where
  | lh1
  | lh3
  deriving DecidableEq, Repr

/-- The field selector `f` of DYN_READ (R283). -/
inductive DynField where
  | freq
  | child
  | parent
  | sNode
  | totalP
  | mostP
  | nextCount
  | nInfo
  deriving DecidableEq, Repr

/-- A command (R14, R110–R120). -/
inductive Instr where
  -- control, 46_control.md
  | nop
  | softReset
  | entryStart
  | run
  | step
  | finish
  | decC
  | decP
  | blkStart
  -- bit reader, 40_bit_reader.md
  | brInit
  | brPeek (n : BitVec 5)
  | brSkip (n : BitVec 5)
  | brGet (n : BitVec 5)
  -- checksums, 41_checksum.md
  | crc16Byte (b : BitVec 8)
  | crc32Byte (b : BitVec 8)
  | sumByte (b : BitVec 8)
  | ckClear (m : BitVec 3)
  -- table builder, 42_table_builder.md
  | lenClear (t : Table)
  | lenWrite (t : Table) (i : BitVec 9) (l : BitVec 5)
  | lenRead (t : Table) (i : BitVec 9) (l : BitVec 5)
  | htBuild (t : Table) (c : BitVec 9) (s : BitVec 9)
  | htFill (t : Table) (c : BitVec 9) (s : BitVec 9)
  | htDecode (t : Table)
  | tblRead (t : Table) (i : BitVec 12)
  | treeRead (t : Table) (d : Side) (i : BitVec 10)
  -- static and new-static readers, 43_static_decoders.md
  | htReadyMade (m : ReadyTable) (c : BitVec 8)
  | nsReadPt (c : BitVec 9) (w : BitVec 4) (s : BitVec 4)
  | nsReadC
  | st0ReadC
  | st0ReadP
  -- adaptive decoder, 44_adaptive_decoder.md
  | dynStartC (k : BitVec 5)
  | dynStartP (k : BitVec 5)
  | dynDecodeC
  | dynDecodeP
  | dynUpdateC (s : BitVec 9)
  | dynUpdateP (s : BitVec 7)
  | dynReconst (k : BitVec 5)
  | dynNewNode (s : BitVec 7)
  | dynRead (f : DynField) (i : BitVec 10)
  -- window, 45_window.md
  | winInit (k : BitVec 5)
  | winLiteral (b : BitVec 8)
  | winMatch (s : BitVec 9)
  | winFlush
  | winRead (i : BitVec 16)
  deriving DecidableEq, Repr

end Sys2Proof
end

