-- ==== Sys2Proof/Decode.lean ====
section
/-! DEFINITION. Decoding a command word (R110–R125) and encoding a command.

The three checks of R404's steps 1 to 3 stand here: a reserved opcode (`DecodeError.badOpcode`), a reserved-zero bit
that is 1 (`DecodeError.badOperand`), and a field outside its legal range (`operandsLegal`). `decode` makes the
first two; `verdict` is the spec's whole three-way verdict (R123). -/

namespace Sys2Proof

/-- Why a word is no command: the two decode failures of R123. -/
inductive DecodeError where
  /-- The opcode is reserved (R121). -/
  | badOpcode
  /-- A reserved-zero bit is 1, or a field is out of its range (R122). -/
  | badOperand
  deriving DecidableEq, Repr

/-- The opcode field OP, bits 31:24 (R110). -/
def opField (w : Word) : BitVec 8 := w.extractLsb' 24 8

/-- `t` = bit 23: 0 is C, 1 is PT (R113). -/
def tField (w : Word) : Table := if w.extractLsb' 23 1 = 0#1 then .c else .pt

/-- `d` = bit 22: 0 is left, 1 is right (R113). -/
def dField (w : Word) : Side := if w.extractLsb' 22 1 = 0#1 then .left else .right

/-- `m` of format FRM = bit 16 (R111). -/
def readyField (w : Word) : ReadyTable := if w.extractLsb' 16 1 = 0#1 then .lh1 else .lh3

/-- `f` = bits 23:21 (R111), read by the table of R283. -/
def dynFieldOf (f : BitVec 3) : DynField :=
  match f.toNat with
  | 0 => .freq
  | 1 => .child
  | 2 => .parent
  | 3 => .sNode
  | 4 => .totalP
  | 5 => .mostP
  | 6 => .nextCount
  | _ => .nInfo

/-- A command whose reserved-zero bits are those of `rest`: it decodes when they are all 0 (R122). -/
def whenZero {n : Nat} (rest : BitVec n) (i : Instr) : Except DecodeError Instr :=
  if rest = 0#n then .ok i else .error .badOperand

/-- The opcode map (R114–R120) and the formats (R111). -/
def decode (w : Word) : Except DecodeError Instr :=
  match (opField w).toNat with
  | 0x00 => whenZero (w.extractLsb' 0 24) .nop
  | 0x01 => whenZero (w.extractLsb' 0 24) .softReset
  | 0x02 => whenZero (w.extractLsb' 0 24) .entryStart
  | 0x03 => whenZero (w.extractLsb' 0 24) .run
  | 0x04 => whenZero (w.extractLsb' 0 24) .step
  | 0x05 => whenZero (w.extractLsb' 0 24) .finish
  | 0x06 => whenZero (w.extractLsb' 0 24) .decC
  | 0x07 => whenZero (w.extractLsb' 0 24) .decP
  | 0x08 => whenZero (w.extractLsb' 0 24) .blkStart
  | 0x10 => whenZero (w.extractLsb' 0 24) .brInit
  | 0x11 => whenZero (w.extractLsb' 5 19) (.brPeek (w.extractLsb' 0 5))
  | 0x12 => whenZero (w.extractLsb' 5 19) (.brSkip (w.extractLsb' 0 5))
  | 0x13 => whenZero (w.extractLsb' 5 19) (.brGet (w.extractLsb' 0 5))
  | 0x18 => whenZero (w.extractLsb' 8 16) (.crc16Byte (w.extractLsb' 0 8))
  | 0x19 => whenZero (w.extractLsb' 8 16) (.crc32Byte (w.extractLsb' 0 8))
  | 0x1A => whenZero (w.extractLsb' 8 16) (.sumByte (w.extractLsb' 0 8))
  | 0x1B => whenZero (w.extractLsb' 3 21) (.ckClear (w.extractLsb' 0 3))
  | 0x20 => whenZero (w.extractLsb' 0 23) (.lenClear (tField w))
  | 0x21 => whenZero (w.extractLsb' 21 2 ++ w.extractLsb' 5 7)
              (.lenWrite (tField w) (w.extractLsb' 12 9) (w.extractLsb' 0 5))
  | 0x22 => whenZero (w.extractLsb' 21 2 ++ w.extractLsb' 5 7)
              (.lenRead (tField w) (w.extractLsb' 12 9) (w.extractLsb' 0 5))
  | 0x23 => whenZero (w.extractLsb' 21 2 ++ w.extractLsb' 9 3)
              (.htBuild (tField w) (w.extractLsb' 12 9) (w.extractLsb' 0 9))
  | 0x24 => whenZero (w.extractLsb' 21 2 ++ w.extractLsb' 9 3)
              (.htFill (tField w) (w.extractLsb' 12 9) (w.extractLsb' 0 9))
  | 0x25 => whenZero (w.extractLsb' 0 23) (.htDecode (tField w))
  | 0x26 => whenZero (w.extractLsb' 12 11) (.tblRead (tField w) (w.extractLsb' 0 12))
  | 0x27 => whenZero (w.extractLsb' 10 12) (.treeRead (tField w) (dField w) (w.extractLsb' 0 10))
  | 0x28 => whenZero (w.extractLsb' 17 7 ++ w.extractLsb' 8 8)
              (.htReadyMade (readyField w) (w.extractLsb' 0 8))
  | 0x29 => whenZero (w.extractLsb' 21 3 ++ w.extractLsb' 4 4)
              (.nsReadPt (w.extractLsb' 12 9) (w.extractLsb' 8 4) (w.extractLsb' 0 4))
  | 0x2A => whenZero (w.extractLsb' 0 24) .nsReadC
  | 0x2B => whenZero (w.extractLsb' 0 24) .st0ReadC
  | 0x2C => whenZero (w.extractLsb' 0 24) .st0ReadP
  | 0x30 => whenZero (w.extractLsb' 5 19) (.dynStartC (w.extractLsb' 0 5))
  | 0x31 => whenZero (w.extractLsb' 5 19) (.dynStartP (w.extractLsb' 0 5))
  | 0x32 => whenZero (w.extractLsb' 0 24) .dynDecodeC
  | 0x33 => whenZero (w.extractLsb' 0 24) .dynDecodeP
  | 0x34 => whenZero (w.extractLsb' 9 15) (.dynUpdateC (w.extractLsb' 0 9))
  | 0x35 => whenZero (w.extractLsb' 7 17) (.dynUpdateP (w.extractLsb' 0 7))
  | 0x36 => whenZero (w.extractLsb' 5 19) (.dynReconst (w.extractLsb' 0 5))
  | 0x37 => whenZero (w.extractLsb' 7 17) (.dynNewNode (w.extractLsb' 0 7))
  | 0x38 => whenZero (w.extractLsb' 10 11)
              (.dynRead (dynFieldOf (w.extractLsb' 21 3)) (w.extractLsb' 0 10))
  | 0x40 => whenZero (w.extractLsb' 5 19) (.winInit (w.extractLsb' 0 5))
  | 0x41 => whenZero (w.extractLsb' 8 16) (.winLiteral (w.extractLsb' 0 8))
  | 0x42 => whenZero (w.extractLsb' 9 15) (.winMatch (w.extractLsb' 0 9))
  | 0x43 => whenZero (w.extractLsb' 0 24) .winFlush
  | 0x44 => whenZero (w.extractLsb' 16 8) (.winRead (w.extractLsb' 0 16))
  | _ => .error .badOpcode

/-- How many lengths LEN_t holds (R42): the bound on `i` of LEN_WRITE and LEN_READ (R125). -/
def lenCount : Table → Nat
  | .c => 510
  | .pt => 128

/-- How many entries TABLE_t holds (R42): the bound on `i` of TBL_READ (R125). -/
def tableCount : Table → Nat
  | .c => 4096
  | .pt => 256

/-- How many nodes LEFT_t and RIGHT_t hold (R42): the bound on `i` of TREE_READ (R125). -/
def treeCount : Table → Nat
  | .c => 1019
  | .pt => 255

/-- An alphabet size `c` that table `t` can hold (R125). -/
def alphabetLegal (t : Table) (c : Nat) : Bool := decide (1 ≤ c) && decide (c ≤ lenCount t)

/-- The legal range of DYN_READ's index for each field (R125). -/
def dynIndexLegal : DynField → Nat → Bool
  | .freq, i | .child, i | .parent, i => decide (i < 884)
  | .sNode, i => decide (i < 442)
  | .totalP, i | .mostP, i | .nextCount, i | .nInfo, i => decide (i = 0)

/-- The legal operand ranges checked at decode (R125). A field that R125 does not bound is legal at every value. -/
def operandsLegal : Instr → Bool
  | .nop | .softReset | .entryStart | .run | .step | .finish | .decC | .decP | .blkStart => true
  | .brInit => true
  | .brPeek n | .brSkip n | .brGet n => decide (n.toNat ≤ 16)
  | .crc16Byte _ | .crc32Byte _ | .sumByte _ | .ckClear _ => true
  | .lenClear _ => true
  | .lenWrite t i _ => decide (i.toNat < lenCount t)
  | .lenRead t i l => decide (i.toNat < lenCount t) && decide (l = 0#5)
  | .htBuild t c s => alphabetLegal t c.toNat && decide (s = 0#9)
  | .htFill t c _ => alphabetLegal t c.toNat
  | .htDecode _ => true
  | .tblRead t i => decide (i.toNat < tableCount t)
  | .treeRead t _ i => decide (i.toNat < treeCount t)
  | .htReadyMade _ c => alphabetLegal .pt c.toNat
  | .nsReadPt c w _ => alphabetLegal .pt c.toNat && decide (1 ≤ w.toNat) && decide (w.toNat ≤ 9)
  | .nsReadC | .st0ReadC | .st0ReadP => true
  | .dynStartC k | .dynReconst k => decide (k.toNat ≤ 1)
  | .dynStartP k | .winInit k => decide (1 ≤ k.toNat) && decide (k.toNat ≤ 16)
  | .dynDecodeC | .dynDecodeP => true
  | .dynUpdateC s => decide (s.toNat < 314)
  | .dynUpdateP _ | .dynNewNode _ => true
  | .dynRead f i => dynIndexLegal f i.toNat
  | .winLiteral _ | .winMatch _ | .winFlush | .winRead _ => true

/-- The spec's whole verdict on a word (R123): the command it names, BAD_OPCODE, or BAD_OPERAND, with the
precedence of R404. -/
def verdict (w : Word) : Except DecodeError Instr :=
  match decode w with
  | .error e => .error e
  | .ok i => if operandsLegal i then .ok i else .error .badOperand

/-! ### Encoding, from the same formats (R111) -/

/-- The bit of a table select (R113). -/
def tBit : Table → BitVec 1
  | .c => 0#1
  | .pt => 1#1

/-- The bit of a tree side (R113). -/
def dBit : Side → BitVec 1
  | .left => 0#1
  | .right => 1#1

/-- The bit of a ready-made table number (R113). -/
def readyBit : ReadyTable → BitVec 1
  | .lh1 => 0#1
  | .lh3 => 1#1

/-- The number of a DYN_READ field (R283). -/
def dynFieldBits : DynField → BitVec 3
  | .freq => 0#3
  | .child => 1#3
  | .parent => 2#3
  | .sNode => 3#3
  | .totalP => 4#3
  | .mostP => 5#3
  | .nextCount => 6#3
  | .nInfo => 7#3

/-- Format F0: an opcode and 24 zero bits. -/
def formF0 (op : BitVec 8) : Word := op ++ 0#24

/-- Format FN, and FK, which has the same layout: a 5-bit field at the bottom. -/
def formLow5 (op : BitVec 8) (n : BitVec 5) : Word := op ++ 0#19 ++ n

/-- Format FB: a byte at the bottom. -/
def formFB (op : BitVec 8) (b : BitVec 8) : Word := op ++ 0#16 ++ b

/-- Format FM: a 3-bit mask at the bottom. -/
def formFM (op : BitVec 8) (m : BitVec 3) : Word := op ++ 0#21 ++ m

/-- Format FT: the table select in bit 23. -/
def formFT (op : BitVec 8) (t : Table) : Word := op ++ tBit t ++ 0#23

/-- Format FL: t, i = [20:12], l = [4:0]. -/
def formFL (op : BitVec 8) (t : Table) (i : BitVec 9) (l : BitVec 5) : Word :=
  op ++ tBit t ++ 0#2 ++ i ++ 0#7 ++ l

/-- Format FA: t, c = [20:12], s = [8:0]. -/
def formFA (op : BitVec 8) (t : Table) (c s : BitVec 9) : Word :=
  op ++ tBit t ++ 0#2 ++ c ++ 0#3 ++ s

/-- Format FI: t, i = [11:0]. -/
def formFI (op : BitVec 8) (t : Table) (i : BitVec 12) : Word := op ++ tBit t ++ 0#11 ++ i

/-- Format FR: t, d = [22], i = [9:0]. -/
def formFR (op : BitVec 8) (t : Table) (d : Side) (i : BitVec 10) : Word :=
  op ++ tBit t ++ dBit d ++ 0#12 ++ i

/-- Format FRM: m = [16], c = [7:0]. -/
def formFRM (op : BitVec 8) (m : ReadyTable) (c : BitVec 8) : Word :=
  op ++ 0#7 ++ readyBit m ++ 0#8 ++ c

/-- Format FP: c = [20:12], w = [11:8], s = [3:0]. -/
def formFP (op : BitVec 8) (c : BitVec 9) (w s : BitVec 4) : Word :=
  op ++ 0#3 ++ c ++ w ++ 0#4 ++ s

/-- Format FS9: s = [8:0]. -/
def formFS9 (op : BitVec 8) (s : BitVec 9) : Word := op ++ 0#15 ++ s

/-- Format FS7: s = [6:0]. -/
def formFS7 (op : BitVec 8) (s : BitVec 7) : Word := op ++ 0#17 ++ s

/-- Format FDR: f = [23:21], i = [9:0]. -/
def formFDR (op : BitVec 8) (f : DynField) (i : BitVec 10) : Word :=
  op ++ dynFieldBits f ++ 0#11 ++ i

/-- Format FX: i = [15:0]. -/
def formFX (op : BitVec 8) (i : BitVec 16) : Word := op ++ 0#8 ++ i

/-- The command word of a command (R110–R120). -/
def encode : Instr → Word
  | .nop => formF0 0x00#8
  | .softReset => formF0 0x01#8
  | .entryStart => formF0 0x02#8
  | .run => formF0 0x03#8
  | .step => formF0 0x04#8
  | .finish => formF0 0x05#8
  | .decC => formF0 0x06#8
  | .decP => formF0 0x07#8
  | .blkStart => formF0 0x08#8
  | .brInit => formF0 0x10#8
  | .brPeek n => formLow5 0x11#8 n
  | .brSkip n => formLow5 0x12#8 n
  | .brGet n => formLow5 0x13#8 n
  | .crc16Byte b => formFB 0x18#8 b
  | .crc32Byte b => formFB 0x19#8 b
  | .sumByte b => formFB 0x1A#8 b
  | .ckClear m => formFM 0x1B#8 m
  | .lenClear t => formFT 0x20#8 t
  | .lenWrite t i l => formFL 0x21#8 t i l
  | .lenRead t i l => formFL 0x22#8 t i l
  | .htBuild t c s => formFA 0x23#8 t c s
  | .htFill t c s => formFA 0x24#8 t c s
  | .htDecode t => formFT 0x25#8 t
  | .tblRead t i => formFI 0x26#8 t i
  | .treeRead t d i => formFR 0x27#8 t d i
  | .htReadyMade m c => formFRM 0x28#8 m c
  | .nsReadPt c w s => formFP 0x29#8 c w s
  | .nsReadC => formF0 0x2A#8
  | .st0ReadC => formF0 0x2B#8
  | .st0ReadP => formF0 0x2C#8
  | .dynStartC k => formLow5 0x30#8 k
  | .dynStartP k => formLow5 0x31#8 k
  | .dynDecodeC => formF0 0x32#8
  | .dynDecodeP => formF0 0x33#8
  | .dynUpdateC s => formFS9 0x34#8 s
  | .dynUpdateP s => formFS7 0x35#8 s
  | .dynReconst k => formLow5 0x36#8 k
  | .dynNewNode s => formFS7 0x37#8 s
  | .dynRead f i => formFDR 0x38#8 f i
  | .winInit k => formLow5 0x40#8 k
  | .winLiteral b => formFB 0x41#8 b
  | .winMatch s => formFS9 0x42#8 s
  | .winFlush => formF0 0x43#8
  | .winRead i => formFX 0x44#8 i

/-- What the decoder reads from a word whose bits are `w`, bit 0 the least significant; every bit from `nbits` up
is 0. A command is always one 32-bit word (R124). -/
def decodeTableWord (nbits w : Nat) : Option Instr :=
  match decode (BitVec.ofNat 32 (w % 2 ^ nbits)) with
  | .ok i => some i
  | .error _ => none

end Sys2Proof
end

