-- ==== Sys2Proof/Config.lean ====
section
/-! DEFINITION. The free values: what the spec leaves unspecified while the block goes on ("any value" in
93_implementation_defined.md). Each is an opaque constant applied to a counter of State: the draw counter, which
only a command that ends moves on, or the number of register reads so far. So nothing in Lean can know its value, and a
claim holds whatever it is. -/

namespace Sys2Proof

/-- The internal RAMs (R42–R44), by name: the first argument of `Config.freeCell`. -/
inductive RamName where
  | cLen
  | cTable
  | cLeft
  | cRight
  | ptLen
  | ptTable
  | ptLeft
  | ptRight
  | freq
  | child
  | parent
  | sNode
  | dic
  deriving DecidableEq, Repr

/-- RESULT after a failed command (R403, I3). Log 6. -/
opaque Config.freeResult : Nat → Word

/-- BITPOS after a failed command (R403, I3), after a read of more than 16 bits, and after a walk in the arena that comes
to no leaf. Log 6, 17, 20. -/
opaque Config.freeBitPos : Nat → Count

/-- What a register reads as while BUSY = 1 (R90(d), R463, I2): the number of reads so far. Log 9. -/
opaque Config.freeBusyRead : Nat → Word

/-- Cell `index` of an internal RAM after a failed command (R403, I4), and of the arena after a loop on it that does not
end: the draw, the RAM, the index. Log 7, 20. -/
opaque Config.freeCell : (w : Nat) → Nat → RamName → Nat → BitVec w

/-- The value of a bit-stream read of `n` bits for n above 16, which no rule gives (R154). Log 17. -/
opaque Config.freeWideBits : (n : Nat) → Nat → BitVec n

/-- The symbol of a walk in the arena that comes to no leaf: a leaf's CHILD names one in 15 bits (R43). Log 20. -/
opaque Config.freeSymbol : Nat → BitVec 15

end Sys2Proof
end

