-- ==== Sys2Proof/Machine/State.lean ====
section
/-! DEFINITION. The state of the block (10_state.md), with the ports (20_memory.md) and the coming moves of the
agents as plain data, and the state after reset (R450).

A RAM is a list of (element number, value) pairs in one canonical form: element numbers strictly rising and below the
RAM's size, and no pair whose value is what an unlisted element reads as (0 in the table RAMs and the arena,
`dicUnlisted` in DIC). -/

namespace Sys2Proof.Machine

/-- The entry state ESTATE (R45). -/
inductive EState where
  /-- 0: no entry has started since reset. -/
  | idle
  /-- 1: ENTRY_START succeeded and the entry is not finished. -/
  | active
  /-- 2: RUN or FINISH completed. -/
  | finished
  /-- 3: a command failed. -/
  | failed
  deriving DecidableEq, Repr

/-- The error codes 1 to 8 of R400. NONE, code 0, is the absence of one. -/
inductive ErrCode where
  | badOpcode
  | badOperand
  | badState
  | lenRange
  | codeSpace
  | indexOverflow
  | symbolRange
  | sourceFail
  deriving DecidableEq, Repr

/-- The byte source's answer to one input request (R84). -/
inductive Answer where
  /-- `Byte(b)`. -/
  | byte (b : Byte)
  /-- `End`: the source has no more bytes. -/
  | finish
  /-- `Fail`: the source itself failed. -/
  | fail
  deriving DecidableEq, Repr

/-- An event at the input or output port (R85, R86, R90(e)). -/
inductive PortEvent where
  /-- The engine asked the source for payload byte `index`. -/
  | request (index : Nat)
  /-- The engine handed a byte to the sink. -/
  | emit (b : Byte)
  deriving DecidableEq, Repr

/-- The width of a register-port access. Only `word` is the block's (R82). -/
inductive AccessSize where
  | byte
  | half
  | word
  deriving DecidableEq, Repr

/-- One move of an agent (R30, R468). `State.schedule` lists the coming ones, so it says which agent moves next. -/
inductive Event where
  /-- The host writes a value at a byte offset of the register space. -/
  | write (size : AccessSize) (offset : BitVec 7) (value : Word)
  /-- The host reads at a byte offset of the register space. -/
  | read (size : AccessSize) (offset : BitVec 7)
  /-- The engine runs the command that is latched, if one is. -/
  | engine
  /-- The byte source adds one answer to those it will give. -/
  | answer (a : Answer)
  /-- The byte sink becomes ready for that many more bytes, or for every byte. -/
  | accept (more : Option Nat)
  /-- The reset input is pulsed (R450). -/
  | reset
  deriving DecidableEq, Repr

/-- The bit reader (R150), with its valid flag and the bytes it has received. -/
structure Reader where
  /-- BR_POS, exposed as BITPOS: bits consumed since the last BR_INIT. -/
  pos : Count
  /-- BR_PACKED: PACKED_SIZE latched by BR_INIT. -/
  packed : Count
  /-- BR_END: the index of the first request answered `End`; `none` is infinity. -/
  endAt : Option Nat
  /-- IN_COUNT: bytes received since the last BR_INIT. -/
  inCount : Count
  /-- The bytes received since the last BR_INIT, byte 0 first: SrcByte(i) of R84 for the received i. -/
  bytes : List Byte
  /-- BRV (R46). -/
  valid : Bool
  deriving DecidableEq, Repr

/-- One Huffman table: its RAMs and registers (R42), whose entries have `w` bits, and its valid flags (R46). -/
structure HuffTable (w : Nat) where
  /-- LEN_t: code lengths, 5 bits each. -/
  len : List (Nat × BitVec 5)
  /-- TABLE_t: the direct-lookup table. -/
  table : List (Nat × BitVec w)
  /-- LEFT_t: the 0-children of the overflow tree. -/
  left : List (Nat × BitVec w)
  /-- RIGHT_t: the 1-children of the overflow tree. -/
  right : List (Nat × BitVec w)
  /-- t_NCHAR: the alphabet size the table was built for. -/
  nchar : BitVec w
  /-- t_AVAIL: one past the last tree node the last build allocated. -/
  avail : BitVec w
  /-- LENV_t: every length is defined. -/
  lenValid : Bool
  /-- TV_t: the table is consistent with the lengths. -/
  tabValid : Bool
  deriving DecidableEq, Repr

/-- The adaptive arena (R43) and its valid flags (R46). -/
structure Arena where
  /-- FREQ: node weights. -/
  freq : List (Nat × BitVec 16)
  /-- CHILD: child links, signed; a leaf holds the complement of its symbol. -/
  child : List (Nat × BitVec 16)
  /-- PARENT: parent node indices. -/
  parent : List (Nat × BitVec 10)
  /-- S_NODE: the leaf of each symbol. -/
  sNode : List (Nat × BitVec 10)
  /-- TOTAL_P: the running weight of the P tree. -/
  totalP : BitVec 16
  /-- MOST_P: the highest live node of the P tree. -/
  mostP : BitVec 10
  /-- NN: the position limit of tree growth. -/
  nn : BitVec 17
  /-- NEXTCOUNT: the decode count of the next growth; 0xFFFF_FFFF is NEVER. -/
  nextCount : BitVec 32
  /-- N_MAX: the C alphabet's size. -/
  nMax : BitVec 9
  /-- N1: the C symbol that takes an 8-bit extension; 512 is none. -/
  n1 : BitVec 10
  /-- DYNV_C. -/
  validC : Bool
  /-- DYNV_P. -/
  validP : Bool
  deriving DecidableEq, Repr

/-- The sliding window (R44, R300) and its valid flag (R46). -/
structure Window where
  /-- DIC, the dictionary bytes. -/
  dic : List Host.Cell
  /-- WIN_LOC, the write cursor. -/
  loc : BitVec 16
  /-- WIN_MASK. -/
  mask : BitVec 16
  /-- WINV. -/
  valid : Bool
  deriving DecidableEq, Repr

/-- The whole state. -/
structure State where
  /-- The command word being executed; BUSY (R34) is that there is one. -/
  cmd : Option Word
  /-- STATUS.DONE. -/
  done : Bool
  /-- STATUS.ERR. -/
  err : Bool
  /-- STATUS.ERRCODE: the first failure since the last clear; `none` is code 0 (R400). -/
  errcode : Option ErrCode
  /-- STATUS.OVERRUN. -/
  overrun : Bool
  /-- STATUS.DROPPED. -/
  dropped : Bool
  /-- ESTATE (R45). -/
  estate : EState
  /-- CTRL[15:0] (R35); bits 31:16 are not stored. -/
  ctrl : BitVec 16
  packedLo : Word
  packedHi : Word
  origLo : Word
  origHi : Word
  arg : Word
  result : Word
  crc16 : BitVec 16
  crc32 : BitVec 32
  sum8 : BitVec 8
  /-- DECODE_COUNT (R40, R52). -/
  decodeCount : Count
  /-- OUT_COUNT (R40). -/
  outCount : Count
  /-- BLOCKSIZE (R41). -/
  blockSize : BitVec 16
  /-- dicbit, exposed as DICBIT (R41, R51). -/
  dicbit : BitVec 5
  /-- E_METHOD, latched by ENTRY_START (R51). -/
  eMethod : BitVec 4
  /-- E_FILL, latched by ENTRY_START (R51). -/
  eFill : BitVec 8
  /-- np (R51, R334). Log 12. -/
  np : BitVec 8
  /-- pbit (R51). -/
  pbit : BitVec 3
  reader : Reader
  /-- The C table (R42). -/
  tabC : HuffTable 10
  /-- The PT table (R42). -/
  tabPt : HuffTable 8
  arena : Arena
  window : Window
  /-- The source's coming answers, oldest first (R84). An input. Log 4. -/
  source : List Answer
  /-- How many more bytes the sink takes before it stalls; `none` is no limit (R86). An input. Log 5. -/
  sinkRoom : Option Nat
  /-- The port events of the commands that have ended, newest first (R85, R410). -/
  trace : List PortEvent
  /-- The port events so far of the command that is running, newest first (R90(e)). Log 3. -/
  inFlight : List PortEvent
  /-- What the host's register reads returned, newest first (R468). -/
  reads : List (BitVec 7 × Word)
  /-- The agents' coming moves (R30). An input. Log 2. -/
  schedule : List Event
  /-- The model's own counter of the free values drawn so far. Log 6. -/
  draws : Nat
  deriving DecidableEq, Repr

/-- Why a step stops with a fault: it never does. A failure of the block is a next state (R402), and every command
completes where the ports let it (R466). -/
inductive Fault where
  deriving DecidableEq, Repr

/-- Why a step refuses to go on. -/
inductive Refusal where
  /-- Raised by an arm of `exec` whose command has no meaning yet; no arm is one now. SAFE. -/
  | notModelled (mnemonic : String)
  /-- Raised by a register access that is not 32-bit and word-aligned: "A model refuses them" (R82, D18). SAFE. Log 22. -/
  | badBusAccess
  deriving DecidableEq, Repr

/-- What a dictionary byte that the list does not name reads as. The spec leaves DIC unspecified after reset and lets
no command read it before WIN_INIT. DESIGN CHOICE, unsafe, log 11. -/
abbrev dicUnlisted : Byte := 0x20#8

/-- The bit reader after reset (R450). -/
def Reader.reset : Reader :=
  { pos := 0#64, packed := 0#64, endAt := none, inCount := 0#64, bytes := [], valid := false }

/-- A Huffman table after reset (R450): its flags are 0; its RAMs and registers are unspecified there.
DESIGN CHOICE 0, log 10, 11. -/
def HuffTable.reset {w : Nat} : HuffTable w :=
  { len := [], table := [], left := [], right := [], nchar := 0#w, avail := 0#w, lenValid := false, tabValid := false }

/-- The arena after reset (R450): its flags are 0; the rest is unspecified there. DESIGN CHOICE 0, log 10, 11. -/
def Arena.reset : Arena :=
  { freq := [], child := [], parent := [], sNode := [], totalP := 0#16, mostP := 0#10, nn := 0#17,
    nextCount := 0#32, nMax := 0#9, n1 := 0#10, validC := false, validP := false }

/-- The window after reset (R450): WIN_LOC and WINV are 0; DIC and WIN_MASK are unspecified there.
DESIGN CHOICE, log 10, 11. -/
def Window.reset : Window :=
  { dic := [], loc := 0#16, mask := 0#16, valid := false }

/-- The block right after reset (R450). The inputs are empty: no coming moves, no coming answers, and a sink that
takes every byte (log 2, 4, 5). E_METHOD, E_FILL, np and pbit are unspecified there: DESIGN CHOICE 0, log 10. -/
def State.reset : State :=
  { cmd := none, done := false, err := false, errcode := none, overrun := false, dropped := false,
    estate := .idle, ctrl := 0x2010#16, packedLo := 0#32, packedHi := 0#32, origLo := 0#32, origHi := 0#32,
    arg := 0#32, result := 0#32, crc16 := 0#16, crc32 := 0#32, sum8 := 0#8, decodeCount := 0#64, outCount := 0#64,
    blockSize := 0#16, dicbit := 0#5, eMethod := 0#4, eFill := 0#8, np := 0#8, pbit := 0#3,
    reader := Reader.reset, tabC := HuffTable.reset, tabPt := HuffTable.reset, arena := Arena.reset,
    window := Window.reset, source := [], sinkRoom := none, trace := [], inFlight := [], reads := [],
    schedule := [], draws := 0 }

end Sys2Proof.Machine
end

