-- ==== Sys2Proof/Machine/Operands.lean ====
section
/-! DEFINITION. What a command reads as an operand besides its own fields: the geometry of the tables (R8), the method
table (R10), the fields of CTRL (R35), the 64-bit sizes (R36), the distance in ARG (R37), and the special index
of NS_READ_PT (R222). -/

namespace Sys2Proof.Machine

/-! ### Geometry (R8) -/

/-- The width of the entries of TABLE_t, LEFT_t and RIGHT_t (R42). -/
abbrev entryWidth : Table → Nat
  | .c => 10
  | .pt => 8

/-- TB, the direct-lookup width of table t (R8: TBITS_C, TBITS_PT). -/
def tableBits : Table → Nat
  | .c => 12
  | .pt => 8

/-- NC, the literal/length alphabet of lh4–lh7 (R8). -/
def alphabetNC : Nat := 510

/-- N1, the literal/length alphabet of lh2 and lh3 (R8). -/
def alphabetN1 : Nat := 286

/-- NT_CAP, the pretree's capacity (R8, C2). -/
def pretreeCap : Nat := 20

/-- N_CHAR: the C alphabet of lh1, and the index of position 0's leaf symbol (R8). -/
def nChar : Nat := 314

/-- How many nodes the arena has (R43). -/
def arenaNodes : Nat := 884

/-- How many entries S_NODE has (R43). -/
def arenaSymbols : Nat := 442

/-- ROOT_C (R8). -/
def rootC : Nat := 0

/-- ROOT_P (R8). -/
def rootP : Nat := 628

/-- How many bytes DIC has (R44). -/
def dicSize : Nat := 65536

/-- ADJUST = 256 − THRESHOLD (R8, R306). -/
def adjust : Nat := 253

/-- NEVER, the NEXTCOUNT value above every count (R276). -/
def never : BitVec 32 := 0xFFFFFFFF#32

/-! ### CTRL (R35) -/

/-- CTRL.METHOD. -/
def State.method (s : State) : BitVec 4 := s.ctrl.extractLsb' 0 4

/-- CTRL.AUTO_CRC16. -/
def State.autoCrc16 (s : State) : Bool := s.ctrl.getLsbD 4

/-- CTRL.AUTO_CRC32. -/
def State.autoCrc32 (s : State) : Bool := s.ctrl.getLsbD 5

/-- CTRL.AUTO_SUM. -/
def State.autoSum (s : State) : Bool := s.ctrl.getLsbD 6

/-- CTRL.IRQ_EN. -/
def State.irqEn (s : State) : Bool := s.ctrl.getLsbD 7

/-- CTRL.FILL. -/
def State.fill (s : State) : Byte := s.ctrl.extractLsb' 8 8

/-! ### Sizes and the distance -/

/-- PACKED_SIZE = PACKED_HI ++ PACKED_LO (R36). -/
def State.packedSize (s : State) : Count := s.packedHi ++ s.packedLo

/-- ORIG_SIZE = ORIG_HI ++ ORIG_LO (R36). -/
def State.origSize (s : State) : Count := s.origHi ++ s.origLo

/-- The distance WIN_MATCH reads: ARG[16:0] (R37). -/
def State.argDistance (s : State) : Nat := (s.arg.extractLsb' 0 17).toNat

/-- The special index of NS_READ_PT: 15 is NONE (R222). -/
def specialIndex (s : BitVec 4) : Option Nat := if s = 15#4 then none else some s.toNat

/-- BUSY (R34): a command is executing. -/
def State.busy (s : State) : Bool := s.cmd.isSome

/-! ### Methods (R10) -/

/-- dicbit, np and pbit of the new-static methods lh4 to lh7 (R334). -/
def newStaticParams (m : Nat) : BitVec 5 × BitVec 8 × BitVec 3 :=
  match m with
  | 4 => (12#5, 14#8, 4#3)
  | 5 => (13#5, 14#8, 4#3)
  | 6 => (15#5, 16#8, 5#3)
  | _ => (16#5, 17#8, 5#3)

/-- E_METHOD as a number. -/
def State.methodNow (s : State) : Nat := s.eMethod.toNat

/-- The entry is stored: METHOD 0 or 8 (R10). -/
def State.storedEntry (s : State) : Bool := decide (s.methodNow = 0) || decide (s.methodNow = 8)

/-- The entry is an LZ method, lh1 to lh7 (R341). -/
def State.lzEntry (s : State) : Bool := decide (1 ≤ s.methodNow) && decide (s.methodNow ≤ 7)

end Sys2Proof.Machine
end

