-- ==== Sys2Proof/Machine/Flags.lean ====
section
/-! DEFINITION. The STATUS word (R34), the interrupt line (R405), the valid flags (R46), and which commands each entry
state allows (R333). -/

namespace Sys2Proof.Machine

/-- The ERRCODE numbers (R400). -/
def errNumber : Option ErrCode → BitVec 4
  | none => 0#4
  | some .badOpcode => 1#4
  | some .badOperand => 2#4
  | some .badState => 3#4
  | some .lenRange => 4#4
  | some .codeSpace => 5#4
  | some .indexOverflow => 6#4
  | some .symbolRange => 7#4
  | some .sourceFail => 8#4

/-- The ESTATE numbers (R45). -/
def estateNumber : EState → BitVec 2
  | .idle => 0#2
  | .active => 1#2
  | .finished => 2#2
  | .failed => 3#2

/-- STATUS.BLK_EMPTY, the live view of BLOCKSIZE (R34). -/
def State.blkEmpty (s : State) : Bool := decide (s.blockSize = 0#16)

/-- The STATUS word (R34): 31:13 and bit 3 read 0. -/
def State.status (s : State) : Word :=
  0#19 ++ estateNumber s.estate ++ BitVec.ofBool s.dropped ++ BitVec.ofBool s.blkEmpty ++ BitVec.ofBool s.overrun
    ++ errNumber s.errcode ++ 0#1 ++ BitVec.ofBool s.err ++ BitVec.ofBool s.done ++ BitVec.ofBool s.busy

/-- The interrupt output, a level (R405). -/
def State.irq (s : State) : Bool := s.irqEn && (s.done || s.err)

/-! ### Valid flags (R46) -/

/-- LENV_t and TV_t cleared. -/
def HuffTable.invalidate {w : Nat} (h : HuffTable w) : HuffTable w := { h with lenValid := false, tabValid := false }

/-- DYNV_C and DYNV_P cleared. -/
def Arena.invalidate (a : Arena) : Arena := { a with validC := false, validP := false }

/-- Every valid flag cleared: BRV, LENV_*, TV_*, DYNV_*, WINV (R46, R402). -/
def State.clearValid (s : State) : State :=
  { s with
    reader := { s.reader with valid := false }
    tabC := s.tabC.invalidate
    tabPt := s.tabPt.invalidate
    arena := s.arena.invalidate
    window := { s.window with valid := false } }

/-- No valid flag is set. -/
def State.noneValid (s : State) : Bool :=
  !s.reader.valid && !s.tabC.lenValid && !s.tabC.tabValid && !s.tabPt.lenValid && !s.tabPt.tabValid
    && !s.arena.validC && !s.arena.validP && !s.window.valid

/-! ### The entry states that allow a command (R333) -/

/-- NOP, SOFT_RESET and ENTRY_START: every state. -/
def inEveryState (_ : EState) : Bool := true

/-- DEC_C, DEC_P, BLK_START, STEP, RUN and FINISH: ACTIVE only. -/
def inActive : EState → Bool
  | .active => true
  | .idle | .finished | .failed => false

/-- Every other command: every state but FAILED. -/
def notInFailed : EState → Bool
  | .failed => false
  | .idle | .active | .finished => true

end Sys2Proof.Machine
end

