-- ==== Sys2Proof/Machine/Ops.lean ====
section
/-! DEFINITION. The operations every command is made of: reading and writing a RAM; the engine's computations; failing
(`raise Err`, R402 and R403), which is this block's taking of an exception; ending a command; and running one
with the checks in the order of R404. -/

namespace Sys2Proof.Machine

/-! ### RAM cells in canonical form -/

/-- What element `a` reads as: `d` where the list does not name it. -/
def cellGet {α : Type} (d : α) : List (Nat × α) → Nat → α
  | [], _ => d
  | (b, v) :: m, a => if a = b then v else if a < b then d else cellGet d m a

/-- Element `a` set to `v`; a `v` that an unlisted element reads as removes the entry. -/
def cellPut {α : Type} [DecidableEq α] (d : α) : List (Nat × α) → Nat → α → List (Nat × α)
  | [], a, v => if v = d then [] else [(a, v)]
  | (b, w) :: m, a, v =>
    if a < b then (if v = d then (b, w) :: m else (a, v) :: (b, w) :: m)
    else if a = b then (if v = d then m else (a, v) :: m)
    else (b, w) :: cellPut d m a v

/-- `cellPut` inside a RAM of `size` elements: a write outside it writes nothing (log 21). -/
def cellWrite {α : Type} [DecidableEq α] (size : Nat) (d : α) (m : List (Nat × α)) (a : Nat) (v : α) : List (Nat × α) :=
  if a < size then cellPut d m a v else m

/-- The cells `lo`, `lo + 1`, …, `n` of them, all holding `v`. -/
def cellRun {α : Type} [DecidableEq α] (d : α) (lo n : Nat) (v : α) : List (Nat × α) :=
  if v = d then [] else (List.range' lo n).map fun a => (a, v)

/-- The `n` elements from `lo` on, as far as the RAM's `size` reaches, set to `v`. -/
def cellFill {α : Type} [DecidableEq α] (size : Nat) (d : α) (m : List (Nat × α)) (lo n : Nat) (v : α) :
    List (Nat × α) :=
  let k := min n (size - lo)
  (m.filter fun c => decide (c.1 < lo)) ++ cellRun d lo k v ++ (m.filter fun c => decide (lo + k ≤ c.1))

/-- A RAM of `size` elements whose element `a` holds `f a`. -/
def cellsOf {α : Type} [DecidableEq α] (d : α) (size : Nat) (f : Nat → α) : List (Nat × α) :=
  (List.range size).filterMap fun a => if f a = d then none else some (a, f a)

/-- The canonical form of cells whose element numbers lie in `lo … size − 1`: numbers strictly rising, no value `d`. -/
def cellsWfFrom {α : Type} [DecidableEq α] (size : Nat) (d : α) : Nat → List (Nat × α) → Bool
  | _, [] => true
  | lo, (a, v) :: m => decide (lo ≤ a) && decide (a < size) && decide (v ≠ d) && cellsWfFrom size d (a + 1) m

/-- The canonical form of a RAM of `size` elements that reads `d` where it lists nothing. -/
def cellsWf {α : Type} [DecidableEq α] (size : Nat) (d : α) (m : List (Nat × α)) : Bool := cellsWfFrom size d 0 m

/-- The least element number q with `lo ≤ q < p` whose value is `v`, else `p`; the list must be canonical. -/
def cellFirst {α : Type} [DecidableEq α] (d v : α) (p : Nat) : Nat → List (Nat × α) → Nat
  | lo, [] => if v = d then min lo p else p
  | lo, (b, w) :: m =>
    if b < lo then cellFirst d v p lo m
    else if v = d ∧ lo < b then min lo p
    else if w = v then min b p
    else cellFirst d v p (b + 1) m

/-! ### The dictionary, the block's byte memory (R44) -/

/-- DIC[a]. -/
def Window.read (x : Window) (a : Nat) : Byte := cellGet dicUnlisted x.dic a

/-- DIC[a] <- b. -/
def Window.write (x : Window) (a : Nat) (b : Byte) : Window :=
  { x with dic := cellWrite dicSize dicUnlisted x.dic a b }

/-- The dictionary is in canonical form. -/
def Memory.wf (m : List Host.Cell) : Bool := cellsWf dicSize dicUnlisted m

/-! ### Engine computations -/

/-- Why a computation of the engine does not come to its end. -/
inductive Stop where
  /-- `raise Err(code)` (R13). -/
  | raise (code : ErrCode)
  /-- It waits for an answer of the source or for the sink (R84, R86). -/
  | stall
  deriving DecidableEq, Repr

/-- A computation of the engine on the state, in the order the rule's pseudocode executes; a stop keeps the state
it stopped in ("Nothing is rolled back", R402). -/
abbrev Eng (α : Type) := EStateM Stop State α

/-- `raise Err(code)`. -/
def raiseErr {α : Type} (code : ErrCode) : Eng α := throw (.raise code)

/-- "Requires X, else BAD_STATE". -/
def require (p : State → Bool) : Eng Unit := fun s =>
  if p s then .ok () s else .error (.raise .badState) s

/-- `if bad: raise Err(code)`. -/
def raiseIf (bad : Bool) (code : ErrCode) : Eng Unit := if bad then raiseErr code else pure ()

/-- `RESULT <- v` (R13), zero-extended or truncated to 32 bits (R12). -/
def setResult (v : Nat) : Eng Unit := modify fun s => { s with result := BitVec.ofNat 32 v }

/-! ### Failing, and ending a command -/

/-- The port events of the command join the trace, and BUSY falls (R330, R90(e)). -/
def State.retire (s : State) : State :=
  { s with cmd := none, trace := s.inFlight ++ s.trace, inFlight := [] }

/-- The lines of `raise Err(code)` (R402): the first code is kept, ERR is set, every valid flag is cleared, ESTATE
becomes FAILED. -/
def State.recordErr (code : ErrCode) (s : State) : State :=
  { s.clearValid with
    errcode := if s.err then s.errcode else some code
    err := true
    estate := .failed }

/-- A table's RAMs after a failed command: free values (R403). -/
def HuffTable.scramble {w : Nat} (t : Table) (draw : Nat) (len tab left right : RamName) (h : HuffTable w) :
    HuffTable w :=
  { h with
    len := cellsOf 0#5 (lenCount t) fun i => Config.freeCell 5 draw len i
    table := cellsOf 0#w (tableCount t) fun i => Config.freeCell w draw tab i
    left := cellsOf 0#w (treeCount t) fun i => Config.freeCell w draw left i
    right := cellsOf 0#w (treeCount t) fun i => Config.freeCell w draw right i }

/-- The arena's RAMs after a failed command (R403), or after a loop on them that does not end: free values. -/
def Arena.scramble (draw : Nat) (a : Arena) : Arena :=
  { a with
    freq := cellsOf 0#16 arenaNodes fun i => Config.freeCell 16 draw .freq i
    child := cellsOf 0#16 arenaNodes fun i => Config.freeCell 16 draw .child i
    parent := cellsOf 0#10 arenaNodes fun i => Config.freeCell 10 draw .parent i
    sNode := cellsOf 0#10 arenaSymbols fun i => Config.freeCell 10 draw .sNode i }

/-- The dictionary after a failed command: free values (R403). -/
def Window.scramble (draw : Nat) (x : Window) : Window :=
  { x with dic := cellsOf dicUnlisted dicSize fun i => Config.freeCell 8 draw .dic i }

/-- What is unspecified after a failed command takes free values: RESULT, BITPOS and the internal RAMs (R403). -/
def State.scramble (s : State) : State :=
  { s with
    result := Config.freeResult s.draws
    reader := { s.reader with pos := Config.freeBitPos s.draws }
    tabC := s.tabC.scramble .c s.draws .cLen .cTable .cLeft .cRight
    tabPt := s.tabPt.scramble .pt s.draws .ptLen .ptTable .ptLeft .ptRight
    arena := s.arena.scramble s.draws
    window := s.window.scramble s.draws
    draws := s.draws + 1 }

/-- A command that fails while it executes (R402, R403). -/
def State.failCommand (code : ErrCode) (s : State) : State := (s.recordErr code).scramble.retire

/-- A word that fails at decode: "only the lines above change state" (R402, R121). Log 8. -/
def State.failDecode (code : ErrCode) (s : State) : State := (s.recordErr code).retire

/-- What the end of a computation makes of the state `s` the command started in: its end, its failure, or a wait
that leaves the block as it was, but for the port events that have happened (R86, I13, log 3). The draw counter is as it
was too, and no other move advances it, so the second run takes the same free values. -/
def settle (s : State) : EStateM.Result Stop State Unit → Host.Outcome State Fault Refusal
  | .ok _ t => .next t.retire
  | .error (.raise code) t => .next (t.failCommand code)
  | .error .stall t => .next { s with inFlight := t.inFlight }

/-- A command (R330) with the checks in the order of R404: the operand ranges (step 3), ESTATE (step 4, R333), then
the body, which makes its own checks (steps 5 and 6). -/
def command (legal : Bool) (allowed : EState → Bool) (body : Eng Unit) (s : State) :
    Host.Outcome State Fault Refusal :=
  if legal then
    settle s ((do require (fun t => allowed t.estate); body : Eng Unit) { s with inFlight := [] })
  else
    .next (State.failDecode .badOperand { s with inFlight := [] })

end Sys2Proof.Machine
end

