-- ==== Sys2Proof/Machine/BitReader.lean ====
section
/-! DEFINITION. The bit reader (40_bit_reader.md): the bit stream, Peek, Consume, GetBits, the byte requests, and the
commands BR_INIT, BR_PEEK, BR_SKIP and BR_GET. -/

namespace Sys2Proof.Machine

/-! ### The bit stream -/

/-- SrcByte(i), as far as the reader has it (R84); a byte at or past BR_PACKED or BR_END gives zero bits (R151). -/
def Reader.srcByte (r : Reader) (i : Nat) : Byte :=
  if i < r.packed.toNat && (match r.endAt with | none => true | some e => decide (i < e)) then r.bytes.getD i 0#8
  else 0#8

/-- S[k] (R151): bit 7 − (k mod 8) of SrcByte(k div 8) (R87). -/
def Reader.bit (r : Reader) (k : Nat) : Bool := (r.srcByte (k / 8)).getLsbD (7 - k % 8)

/-- The `n` stream bits from `k` on as a number, the first bit most significant (R152). -/
def Reader.bitsAt (r : Reader) : (k n : Nat) → Nat
  | _, 0 => 0
  | k, n + 1 => (if r.bit k then 2 ^ n else 0) + r.bitsAt (k + 1) n

/-- `Peek(n)` (R152). The index BR_POS + j is an index of R151's infinite sequence: near BR_POS = 2^64 it runs on and does
not wrap, although R12 has the arithmetic of 64-bit values wrap. DESIGN CHOICE, log 19. -/
def Reader.peek (r : Reader) (n : Nat) : Nat := r.bitsAt r.pos.toNat n

/-! ### Requests (R156) -/

/-- How many requests the epoch has made: those answered `Byte`, and the one answered `End`. -/
def Reader.requestsMade (r : Reader) : Nat := r.inCount.toNat + (if r.endAt.isSome then 1 else 0)

/-- R of R156: min(BR_PACKED, ceil((BR_POS + 16) / 8), BR_END + 1). Near BR_POS = 2^64 the sum BR_POS + 16 does not wrap.
DESIGN CHOICE, log 19. -/
def Reader.requestTarget (r : Reader) : Nat :=
  let held := min r.packed.toNat ((r.pos.toNat + 16 + 7) / 8)
  match r.endAt with
  | none => held
  | some e => min held (e + 1)

/-- One request, for the next byte index, and its answer (R84, R160). With no answer there, the command waits. -/
def requestByte : Eng Unit := fun s =>
  let asked := { s with inFlight := .request s.reader.inCount.toNat :: s.inFlight }
  match s.source with
  | [] => .error .stall asked
  | .byte b :: rest =>
    .ok () { asked with
      source := rest
      reader := { s.reader with bytes := s.reader.bytes ++ [b], inCount := s.reader.inCount + 1 } }
  | .finish :: rest =>
    .ok () { asked with source := rest, reader := { s.reader with endAt := some s.reader.inCount.toNat } }
  | .fail :: rest => .error (.raise .sourceFail) { asked with source := rest }

/-- At most `n` requests, in increasing index order; none after `End` (R84). -/
def requestBytes : Nat → Eng Unit
  | 0 => pure ()
  | n + 1 => do
    requestByte
    if (← get).reader.endAt.isSome then pure () else requestBytes n

/-- The requests that R156 asks for and that have not been made. -/
def fillLookAhead : Eng Unit := do
  let r := (← get).reader
  requestBytes (r.requestTarget - r.requestsMade)

/-- `Consume(n)` (R153). -/
def consume (n : Nat) : Eng Unit := do
  modify fun s => { s with reader := { s.reader with pos := s.reader.pos + BitVec.ofNat 64 n } }
  fillLookAhead

/-- A read of more than 16 bits, which only NsDecodeP with a host-made PT alphabet asks for: no rule gives its
value or how far it advances, so both are free. DESIGN CHOICE, log 17. -/
def getWideBits (n : Nat) : Eng Nat := do
  let k := (← get).draws
  modify fun s => { s with draws := s.draws + 1, reader := { s.reader with pos := Config.freeBitPos k } }
  fillLookAhead
  pure (Config.freeWideBits n k).toNat

/-- `GetBits(n)` (R154). -/
def getBits (n : Nat) : Eng Nat :=
  if n ≤ 16 then do
    let v := (← get).reader.peek n
    consume n
    pure v
  else getWideBits n

/-- `Requires BRV = 1, else BAD_STATE`. -/
def requireReader : Eng Unit := require fun s => s.reader.valid

/-! ### Commands -/

/-- BR_INIT semantics (R155). -/
def brInit : Eng Unit := do
  modify fun s => { s with reader :=
    { s.reader with packed := s.packedSize, pos := 0#64, endAt := none, inCount := 0#64, bytes := [] } }
  fillLookAhead
  modify fun s => { s with reader := { s.reader with valid := true } }

/-- BR_INIT (R155). -/
def execBrInit (s : State) : Host.Outcome State Fault Refusal :=
  command (operandsLegal .brInit) notInFailed brInit s

/-- BR_PEEK n (R157). -/
def execBrPeek (n : BitVec 5) (s : State) : Host.Outcome State Fault Refusal :=
  command (operandsLegal (.brPeek n)) notInFailed (do
    requireReader
    setResult ((← get).reader.peek n.toNat)) s

/-- BR_SKIP n (R158). -/
def execBrSkip (n : BitVec 5) (s : State) : Host.Outcome State Fault Refusal :=
  command (operandsLegal (.brSkip n)) notInFailed (do
    requireReader
    consume n.toNat) s

/-- BR_GET n (R159). -/
def execBrGet (n : BitVec 5) (s : State) : Host.Outcome State Fault Refusal :=
  command (operandsLegal (.brGet n)) notInFailed (do
    requireReader
    let v ← getBits n.toNat
    setResult v) s

end Sys2Proof.Machine
end

