-- ==== Sys2Proof/Machine/Adaptive.lean ====
section
/-! DEFINITION. The adaptive Huffman decoder of lh1 and lh2 (44_adaptive_decoder.md): the arena's initial trees,
increment and rebalance, rebuild, growth of the position tree, decoding, and the DYN_ commands.

The algorithms are functions on the arena. Where the pseudocode loops on the arena's contents the loop is bounded. A
tree that obeys the laws of R285 never reaches a bound. On other contents R466 has the command complete and no rule
says with what: the arena's RAMs are then free values, drawn with the draw counter that such a function takes and gives
back beside the arena. DESIGN CHOICE, log 20. -/

namespace Sys2Proof.Machine

/-! ### Elements of the arena -/

/-- FREQ[i]. -/
def Arena.getFreq (a : Arena) (i : Nat) : Nat := (cellGet 0#16 a.freq i).toNat

/-- CHILD[i], signed (R43). -/
def Arena.getChild (a : Arena) (i : Nat) : Int := (cellGet 0#16 a.child i).toInt

/-- PARENT[i]. -/
def Arena.getParent (a : Arena) (i : Nat) : Nat := (cellGet 0#10 a.parent i).toNat

/-- S_NODE[i]. -/
def Arena.getSNode (a : Arena) (i : Nat) : Nat := (cellGet 0#10 a.sNode i).toNat

/-- FREQ[i] <- v, in 16 bits. -/
def Arena.setFreq (a : Arena) (i v : Nat) : Arena :=
  { a with freq := cellWrite arenaNodes 0#16 a.freq i (BitVec.ofNat 16 v) }

/-- CHILD[i] <- v, in 16 bits two's complement. -/
def Arena.setChild (a : Arena) (i : Nat) (v : Int) : Arena :=
  { a with child := cellWrite arenaNodes 0#16 a.child i (BitVec.ofInt 16 v) }

/-- PARENT[i] <- v. -/
def Arena.setParent (a : Arena) (i v : Nat) : Arena :=
  { a with parent := cellWrite arenaNodes 0#10 a.parent i (BitVec.ofNat 10 v) }

/-- S_NODE[i] <- v. -/
def Arena.setSNode (a : Arena) (i v : Nat) : Arena :=
  { a with sNode := cellWrite arenaSymbols 0#10 a.sNode i (BitVec.ofNat 10 v) }

/-- ~s for a symbol s, a leaf's CHILD (R43). -/
def leafLink (sym : Nat) : Int := -(sym : Int) - 1

/-- ~c for a leaf's CHILD c: its symbol. -/
def leafSymbol (c : Int) : Nat := (-c - 1).toNat

/-- The links from below to the node n whose CHILD is c (R260): PARENT of both children, or S_NODE of the symbol. -/
def Arena.linkBelow (a : Arena) (c : Int) (n : Nat) : Arena :=
  if 0 ≤ c then (a.setParent c.toNat n).setParent (c.toNat - 1) n else a.setSNode (leafSymbol c) n

/-- How often a loop on the arena may turn before its outcome is a free value: more than the arena has nodes. Log 20. -/
def arenaBound : Nat := 2048

/-- The arena after a loop that does not end: its RAMs are free values, its registers as they were. Log 20. -/
def Arena.unended (a : Arena) (k : Nat) : Arena × Nat := (a.scramble k, k + 1)

/-! ### Initial trees -/

/-- The leaves of `StartC` (R261): `left` symbols left from `sym` on, the next at node j. -/
def startLeaves : (left sym j : Nat) → Arena → Arena
  | 0, _, _, a => a
  | left + 1, sym, j, a =>
    startLeaves left (sym + 1) (j - 1) (((a.setFreq j 1).setChild j (leafLink sym)).setSNode sym j)

/-- The internal nodes of `StartC` (R261): nodes j − 1 down to 0, the next over the children i and i − 1. -/
def startInternal : (j i : Nat) → Arena → Arena
  | 0, _, a => a
  | j + 1, i, a =>
    startInternal j (i - 2)
      ((((a.setFreq j (a.getFreq i + a.getFreq (i - 1))).setChild j (i : Int)).setParent i j).setParent (i - 1) j)

/-- `StartC(n_max, maxmatch)` (R261). -/
def startC (nMax maxMatch : Nat) (a : Arena) : Arena :=
  let a := { a with
    nMax := BitVec.ofNat 9 nMax
    n1 := if 256 + maxMatch - 3 + 1 ≤ nMax then 512#10 else BitVec.ofNat 10 (nMax - 1) }
  let a := startLeaves nMax 0 (2 * nMax - 2) a
  let a := startInternal (nMax - 1) (2 * nMax - 2) a
  { a with validC := true }

/-- DYN_START_P semantics (R263). -/
def startP (k : Nat) (a : Arena) : Arena :=
  { (((a.setFreq rootP 1).setChild rootP (leafLink nChar)).setSNode nChar rootP) with
    mostP := BitVec.ofNat 10 rootP
    totalP := 0#16
    nn := BitVec.ofNat 17 (2 ^ k)
    nextCount := 64#32
    validP := true }

/-! ### Increment and rebalance -/

/-- The first node of the tree that holds node p. -/
def treeBase (p : Nat) : Nat := if p < rootP then rootC else rootP

/-- `Leader(p)`: the least node of p's tree with p's weight (R266). -/
def Arena.leader (a : Arena) (p : Nat) : Nat :=
  cellFirst 0#16 (cellGet 0#16 a.freq p) p (treeBase p) a.freq

/-- The exchange of the subtrees of p and its leader q (R267). -/
def Arena.swapBelow (a : Arena) (p q : Nat) : Arena :=
  let r := a.getChild p
  let s := a.getChild q
  (((a.setChild p s).setChild q r).linkBelow r q).linkBelow s p

/-- `Inc(p)`, LHa's swap_inc (R267): the arena after it, and the next node to increment. -/
def Arena.inc (a : Arena) (p : Nat) : Arena × Nat :=
  let q := a.leader p
  let a := if q ≠ p then a.swapBelow p q else a
  let a := a.setFreq q (a.getFreq q + 1)
  (a, a.getParent q)

/-- `while q != root: q <- Inc(q)`. -/
def Arena.climb (root : Nat) : (turns : Nat) → Arena → (q k : Nat) → Arena × Nat
  | 0, a, _, k => a.unended k
  | turns + 1, a, q, k => if q = root then (a, k) else Arena.climb root turns (a.inc q).1 (a.inc q).2 k

/-! ### Rebuild (R273) -/

/-- FREQ[i] and CHILD[i] for a node index that the loops of R273 may take below 0. -/
def Arena.copyNode (a : Arena) (i j : Int) : Arena :=
  if 0 ≤ i ∧ 0 ≤ j then (a.setFreq i.toNat (a.getFreq j.toNat)).setChild i.toNat (a.getChild j.toNat) else a

/-- Step 1 of R273: the leaves among nodes i, i + 1, …, `left` of them, compacted to j and on, weights halved. -/
def compactLeaves : (left i j : Nat) → Arena → Arena × Nat
  | 0, _, j, a => (a, j)
  | left + 1, i, j, a =>
    if a.getChild i < 0 then
      compactLeaves left (i + 1) (j + 1) ((a.setFreq j ((a.getFreq i + 1) / 2)).setChild j (a.getChild i))
    else compactLeaves left (i + 1) j a

/-- `while i >= l: copy node j to node i; i--; j--` (R273), and `while j >= k` alike: copies while `go i j`. -/
def copyDown (go : Int → Int → Bool) : (turns : Nat) → (i j : Int) → Arena → Option (Arena × Int × Int)
  | 0, _, _, _ => none
  | turns + 1, i, j, a => if go i j then copyDown go turns (i - 1) (j - 1) (a.copyNode i j) else some (a, i, j)

/-- `while f < FREQ[k]: k <- k + 1` (R273). -/
def Arena.searchWeight (a : Arena) (f : Nat) : (turns k : Nat) → Option Nat
  | 0, _ => none
  | turns + 1, k => if f < a.getFreq k then a.searchWeight f turns (k + 1) else some k

/-- FREQ[n] for a node index that may be below 0. -/
def Arena.freqAt (a : Arena) (n : Int) : Nat := if 0 ≤ n then a.getFreq n.toNat else 0

/-- Step 2 of R273, `while i >= start`. -/
def rebuildNodes (start : Nat) : (turns : Nat) → (i j l : Int) → Arena → Option Arena
  | 0, _, _, _, _ => none
  | turns + 1, i, j, l, a =>
    if i < (start : Int) then some a
    else
      match copyDown (fun i _ => decide (l ≤ i)) arenaBound i j a with
      | none => none
      | some (a, i, j) =>
        let f := a.freqAt l + a.freqAt (l + 1)
        match a.searchWeight f arenaBound start with
        | none => none
        | some k =>
          match copyDown (fun _ j => decide ((k : Int) ≤ j)) arenaBound i j a with
          | none => none
          | some (a, i, j) =>
            let a := if 0 ≤ i then (a.setFreq i.toNat f).setChild i.toNat (l + 1) else a
            rebuildNodes start turns (i - 1) j (l - 2) a

/-- Step 3 of R273: the links from below to nodes i, i + 1, …, `left` of them. -/
def relink : (left i : Nat) → Arena → Arena
  | 0, _, a => a
  | left + 1, i, a => relink left (i + 1) (a.linkBelow (a.getChild i) i)

/-- `Reconst(start, end)` (R273); none where one of its loops does not end. -/
def Arena.rebuild (start stop : Nat) (a : Arena) : Option Arena :=
  let (a, j) := compactLeaves (stop - start) start start a
  match rebuildNodes start arenaBound ((stop : Int) - 1) ((j : Int) - 1) ((stop : Int) - 2) a with
  | none => none
  | some a => some (relink (stop - start) start a)

/-- `Reconst(start, end)` (R273). -/
def Arena.reconst (start stop : Nat) (a : Arena) (k : Nat) : Arena × Nat :=
  match a.rebuild start stop with
  | none => a.unended k
  | some a => (a, k)

/-- The rebuild of the C tree. -/
def Arena.reconstC (a : Arena) (k : Nat) : Arena × Nat := a.reconst rootC (2 * a.nMax.toNat - 1) k

/-- TOTAL_P and the root's sentinel after a rebuild of the P tree (R269, R274). -/
def Arena.sealRootP (a : Arena) : Arena :=
  { a with totalP := BitVec.ofNat 16 (a.getFreq rootP) }.setFreq rootP 0xFFFF

/-- The rebuild of a P tree of one leaf, which UpdateP reaches at TOTAL_P = 0x8000 (R269): steps 1 and 3 of R273, and TOTAL_P
from the root. With no internal node there is nothing for step 2 to rebuild, and the root takes the sentinel only once
the tree has grown (R275, R285 (1)). So the leaf's weight stays 1 and only TOTAL_P changes (R271). DEDUCED, log 26. -/
def Arena.rebuildLeafP (a : Arena) : Arena :=
  let a := relink 1 rootP (compactLeaves 1 rootP rootP a).1
  { a with totalP := BitVec.ofNat 16 (a.getFreq rootP) }

/-- The rebuild of the P tree, with TOTAL_P and the root's sentinel (R269, R274). -/
def Arena.reconstP (a : Arena) (k : Nat) : Arena × Nat :=
  if a.mostP.toNat = rootP then (a.rebuildLeafP, k)
  else
    let (a, k) := a.reconst rootP (a.mostP.toNat + 1) k
    (a.sealRootP, k)

/-! ### Updates -/

/-- `UpdateC(c)` (R268). -/
def Arena.updateC (c : Nat) (a : Arena) (k : Nat) : Arena × Nat :=
  let (a, k) := if a.getFreq rootC = 0x8000 then a.reconstC k else (a, k)
  let a := a.setFreq rootC (a.getFreq rootC + 1)
  let (a, q) := a.inc (a.getSNode c)
  Arena.climb rootC arenaBound a q k

/-- `UpdateP(p)` (R269) for the leaf symbol N_CHAR + p. A position that the range check of R271 takes for present but
that has no leaf is updated to the letter, from whatever S_NODE holds. DESIGN CHOICE, log 29. -/
def Arena.countLeafP (sym : Nat) (a : Arena) (k : Nat) : Arena × Nat :=
  let (a, k) := if a.totalP = 0x8000#16 then a.reconstP k else (a, k)
  let (a, k) := Arena.climb rootP arenaBound a (a.getSNode sym) k
  ({ a with totalP := a.totalP + 1 }, k)

/-- `UpdateP(p)` (R269). -/
def Arena.updateP (p : Nat) : Arena → Nat → Arena × Nat := Arena.countLeafP (nChar + p)

/-- The number of positions present, less one: (MOST_P − ROOT_P)/2 (R275). -/
def Arena.lastPosition (a : Arena) : Nat := (a.mostP.toNat - rootP) / 2

/-- The arena has no room for two more nodes (R277). -/
def Arena.full (a : Arena) : Bool := decide (arenaNodes ≤ a.mostP.toNat + 2)

/-- S_NODE[~c] <- n. Where c is no leaf's CHILD, ~c is outside S_NODE and nothing is written. DESIGN CHOICE, log 21. -/
def Arena.linkLeaf (a : Arena) (c : Int) (n : Nat) : Arena := if c < 0 then a.setSNode (leafSymbol c) n else a

/-- `MakeNewNode(p)` (R275). -/
def Arena.makeNewNode (p : Nat) (a : Arena) : Nat → Arena × Nat :=
  let most := a.mostP.toNat
  let r := most + 1
  let q := r + 1
  let a := a.setChild r (a.getChild most)
  let a := a.linkLeaf (a.getChild r) r
  let a := a.setChild q (leafLink (nChar + p))
  let a := a.setChild most (q : Int)
  let a := a.setFreq r (a.getFreq most)
  let a := a.setFreq q 0
  let a := if most = rootP then a.setFreq rootP 0xFFFF else a
  let a := (a.setParent r most).setParent q most
  let a := a.setSNode (nChar + p) q
  { a with mostP := BitVec.ofNat 10 q }.updateP p

/-! ### The engine's computations on the arena -/

/-- The arena and the draw counter replaced by what a function of them gives. -/
def updateArena (f : Arena → Nat → Arena × Nat) : Eng Unit :=
  modify fun s => { s with arena := (f s.arena s.draws).1, draws := (f s.arena s.draws).2 }

/-- `Requires DYNV_C = 1`. -/
def requireDynC : Eng Unit := require fun s => s.arena.validC

/-- `Requires DYNV_P = 1`. -/
def requireDynP : Eng Unit := require fun s => s.arena.validP

/-- The growth loop's test: DECODE_COUNT > NEXTCOUNT, where NEVER is above every count (R276). -/
def State.growthDue (s : State) : Bool :=
  decide (s.arena.nextCount ≠ never) && decide (s.arena.nextCount.toNat < s.decodeCount.toNat)

/-- NEXTCOUNT after one growth (R276). -/
def Arena.stepNextCount (a : Arena) : Arena :=
  let next := a.nextCount + 64#32
  { a with nextCount := if a.nn.toNat ≤ next.toNat then never else next }

/-- The growth loop of R276, to the letter: after a host's DYN_NEW_NODE, which leaves NEXTCOUNT (R277), it adds a
second leaf for a position that is present, and the highest position stays absent. DESIGN CHOICE, log 29. A growth
that the arena has no room for fails with INDEX_OVERFLOW, the failure R277 gives DYN_NEW_NODE there. DESIGN CHOICE,
log 16. Each turn takes two of the arena's nodes, so `arenaBound` turns are never used up. -/
def growP : (turns : Nat) → Eng Unit
  | 0 => pure ()
  | turns + 1 => do
    let s ← get
    if s.growthDue then do
      raiseIf s.arena.full .indexOverflow
      updateArena (Arena.makeNewNode (s.arena.nextCount.toNat / 64))
      modify fun s => { s with arena := s.arena.stepNextCount }
      growP turns
    else pure ()

/-- The loop of `DynWalk` (R279): `while c > 0: c <- CHILD[c - GetBits(1)]`. A walk that comes to no leaf ends at a free
BR_POS, with c = 0, which is no leaf's CHILD. DESIGN CHOICE, log 20. -/
def walkFrom : (turns : Nat) → Int → Eng Int
  | 0, _ => do
    modify fun s => { s with draws := s.draws + 1, reader := { s.reader with pos := Config.freeBitPos s.draws } }
    fillLookAhead
    pure 0
  | turns + 1, c =>
    if 0 < c then do
      let b ← getBits 1
      let s ← get
      walkFrom turns (s.arena.getChild (c.toNat - b))
    else pure c

/-- The symbol of a walk that comes to no leaf: a free value. DESIGN CHOICE, log 20. -/
def drawSymbol : Eng Nat := do
  let k := (← get).draws
  modify fun s => { s with draws := s.draws + 1 }
  pure (Config.freeSymbol k).toNat

/-- `DynWalk(root)` (R279): the symbol of the leaf. -/
def dynWalk (root : Nat) : Eng Nat := do
  let s ← get
  let c ← walkFrom arenaBound (s.arena.getChild root)
  if c < 0 then pure (leafSymbol c) else drawSymbol

/-- `zext_32((p << 6) + v)` for p = sym − N_CHAR (R281), on 32 bits (R12). -/
def positionValue (sym v : Nat) : Nat := ((((sym : Int) - (nChar : Int)) * 64 + (v : Int)) % 2 ^ 32).toNat

/-- DYN_DECODE_C semantics, without RESULT (R280). -/
def dynDecodeC : Eng Nat := do
  requireReader
  requireDynC
  let c ← dynWalk rootC
  updateArena (Arena.updateC c)
  let s ← get
  if c = s.arena.n1.toNat then do
    let v ← getBits 8
    pure (c + v)
  else pure c

/-- DYN_DECODE_P semantics, without RESULT (R281). -/
def dynDecodeP : Eng Nat := do
  requireReader
  requireDynP
  growP arenaBound
  let sym ← dynWalk rootP
  updateArena (Arena.countLeafP sym)
  let v ← getBits 6
  pure (positionValue sym v)

/-! ### Commands -/

/-- StartC for the selector k of DYN_START_C (R262). -/
def startCFor (k : Nat) : Arena → Arena :=
  if k = 0 then startC 314 60 else startC 286 256

/-- DYN_START_C k (R262). -/
def execDynStartC (k : BitVec 5) (s : State) : Host.Outcome State Fault Refusal :=
  command (operandsLegal (.dynStartC k)) notInFailed
    (modify fun s => { s with arena := startCFor k.toNat s.arena }) s

/-- DYN_START_P k (R263). -/
def execDynStartP (k : BitVec 5) (s : State) : Host.Outcome State Fault Refusal :=
  command (operandsLegal (.dynStartP k)) notInFailed
    (modify fun s => { s with arena := startP k.toNat s.arena }) s

/-- DYN_DECODE_C (R280). -/
def execDynDecodeC (s : State) : Host.Outcome State Fault Refusal :=
  command (operandsLegal .dynDecodeC) notInFailed (do
    let c ← dynDecodeC
    setResult c) s

/-- DYN_DECODE_P (R281). -/
def execDynDecodeP (s : State) : Host.Outcome State Fault Refusal :=
  command (operandsLegal .dynDecodeP) notInFailed (do
    let p ← dynDecodeP
    setResult p) s

/-- DYN_UPDATE_C s (R270). -/
def execDynUpdateC (x : BitVec 9) (s : State) : Host.Outcome State Fault Refusal :=
  command (operandsLegal (.dynUpdateC x)) notInFailed (do
    requireDynC
    let s ← get
    raiseIf (decide (s.arena.nMax.toNat ≤ x.toNat)) .symbolRange
    updateArena (Arena.updateC x.toNat)) s

/-- DYN_UPDATE_P s (R271). -/
def execDynUpdateP (x : BitVec 7) (s : State) : Host.Outcome State Fault Refusal :=
  command (operandsLegal (.dynUpdateP x)) notInFailed (do
    requireDynP
    let s ← get
    raiseIf (decide (s.arena.lastPosition < x.toNat)) .symbolRange
    updateArena (Arena.updateP x.toNat)) s

/-- DYN_RECONST k (R274). -/
def execDynReconst (k : BitVec 5) (s : State) : Host.Outcome State Fault Refusal :=
  command (operandsLegal (.dynReconst k)) notInFailed (
    if k = 0#5 then do
      requireDynC
      updateArena Arena.reconstC
    else do
      requireDynP
      let s ← get
      raiseIf (decide (s.arena.mostP.toNat = rootP)) .badState
      updateArena Arena.reconstP) s

/-- DYN_NEW_NODE s (R277). -/
def execDynNewNode (x : BitVec 7) (s : State) : Host.Outcome State Fault Refusal :=
  command (operandsLegal (.dynNewNode x)) notInFailed (do
    requireDynP
    let s ← get
    raiseIf (decide (x.toNat ≠ s.arena.lastPosition + 1)) .symbolRange
    raiseIf s.arena.full .indexOverflow
    updateArena (Arena.makeNewNode x.toNat)) s

/-- The flag DYN_READ requires (R283). -/
def dynReadFlag (f : DynField) (i : Nat) (a : Arena) : Bool :=
  match f with
  | .freq | .child | .parent => if i < rootP then a.validC else a.validP
  | .sNode => if i < nChar then a.validC else a.validP
  | .totalP | .mostP | .nextCount => a.validP
  | .nInfo => a.validC

/-- The node is one of the C tree's or of the P tree's (R283). -/
def Arena.hasNode (a : Arena) (i : Nat) : Bool :=
  decide (i + 2 ≤ 2 * a.nMax.toNat) || (decide (rootP ≤ i) && decide (i ≤ a.mostP.toNat))

/-- The legal set of DYN_READ's index, checked at execution (R283). -/
def dynReadLegal (f : DynField) (i : Nat) (a : Arena) : Bool :=
  match f with
  | .freq | .child => a.hasNode i
  | .parent => a.hasNode i && decide (i ≠ rootC) && decide (i ≠ rootP)
  | .sNode => decide (i < a.nMax.toNat) || (decide (nChar ≤ i) && decide (i ≤ nChar + a.lastPosition))
  | .totalP | .mostP | .nextCount | .nInfo => decide (i = 0)

/-- The value DYN_READ reads (R283). -/
def dynReadValue (f : DynField) (i : Nat) (a : Arena) : Nat :=
  match f with
  | .freq => a.getFreq i
  | .child => (cellGet 0#16 a.child i).toNat
  | .parent => a.getParent i
  | .sNode => a.getSNode i
  | .totalP => a.totalP.toNat
  | .mostP => a.mostP.toNat
  | .nextCount => a.nextCount.toNat
  | .nInfo => a.n1.toNat * 2 ^ 16 + a.nMax.toNat

/-- DYN_READ f, i (R283). -/
def execDynRead (f : DynField) (i : BitVec 10) (s : State) : Host.Outcome State Fault Refusal :=
  command (operandsLegal (.dynRead f i)) notInFailed (do
    require fun s => dynReadFlag f i.toNat s.arena
    let s ← get
    raiseIf (!dynReadLegal f i.toNat s.arena) .badOperand
    setResult (dynReadValue f i.toNat s.arena)) s

end Sys2Proof.Machine
end

