-- ==== Sys2Proof/Machine/Tables.lean ====
section
/-! DEFINITION. The Huffman table builder and table decoding (42_table_builder.md), and the commands LEN_CLEAR, LEN_WRITE,
LEN_READ, HT_BUILD, HT_FILL, HT_DECODE, TBL_READ and TREE_READ. -/

namespace Sys2Proof.Machine

/-- The Huffman table that `t` selects (R113). -/
def State.tab (s : State) : (t : Table) → HuffTable (entryWidth t)
  | .c => s.tabC
  | .pt => s.tabPt

/-- The state with the table that `t` selects replaced. -/
def State.setTab (s : State) : (t : Table) → HuffTable (entryWidth t) → State
  | .c, h => { s with tabC := h }
  | .pt, h => { s with tabPt := h }

/-! ### Cells of one table, as numbers -/

/-- LEN_t[i]. -/
def HuffTable.getLen {w : Nat} (h : HuffTable w) (i : Nat) : Nat := (cellGet 0#5 h.len i).toNat

/-- TABLE_t[i]. -/
def HuffTable.getTable {w : Nat} (h : HuffTable w) (i : Nat) : Nat := (cellGet 0#w h.table i).toNat

/-- LEFT_t[i]. -/
def HuffTable.getLeft {w : Nat} (h : HuffTable w) (i : Nat) : Nat := (cellGet 0#w h.left i).toNat

/-- RIGHT_t[i]. -/
def HuffTable.getRight {w : Nat} (h : HuffTable w) (i : Nat) : Nat := (cellGet 0#w h.right i).toNat

/-- A code length in the 5 bits of LEN (R42). A length above 31, which only ReadCLen with a host-made PT alphabet meets
(R223, R224), is held as 31, so that the build rejects it with LEN_RANGE as it does the length itself (R192: "never
silently truncating"). DEDUCED, log 18. -/
def heldLen (l : Nat) : BitVec 5 := BitVec.ofNat 5 (min l 31)

/-- LEN_t[i] <- l. -/
def HuffTable.setLen {w : Nat} (t : Table) (h : HuffTable w) (i l : Nat) : HuffTable w :=
  { h with len := cellWrite (lenCount t) 0#5 h.len i (heldLen l) }

/-- LEN_t[k] <- 0 for `n` entries from `k` on. -/
def HuffTable.zeroLens {w : Nat} (t : Table) (h : HuffTable w) (k n : Nat) : HuffTable w :=
  { h with len := cellFill (lenCount t) 0#5 h.len k n 0#5 }

/-- TABLE_t[i] <- v for `n` entries from `k` on. -/
def HuffTable.fillTable {w : Nat} (t : Table) (h : HuffTable w) (k n v : Nat) : HuffTable w :=
  { h with table := cellFill (tableCount t) 0#w h.table k n (BitVec.ofNat w v) }

/-- A designated cell of a table (R194): a TABLE entry, a LEFT entry or a RIGHT entry. -/
inductive CellRef where
  | entry (i : Nat)
  | leftOf (n : Nat)
  | rightOf (n : Nat)
  deriving DecidableEq, Repr

/-- value(ref). -/
def HuffTable.readRef {w : Nat} (h : HuffTable w) : CellRef → Nat
  | .entry i => h.getTable i
  | .leftOf n => h.getLeft n
  | .rightOf n => h.getRight n

/-- value(ref) <- v. -/
def HuffTable.writeRef {w : Nat} (t : Table) (h : HuffTable w) (r : CellRef) (v : Nat) : HuffTable w :=
  match r with
  | .entry i => { h with table := cellWrite (tableCount t) 0#w h.table i (BitVec.ofNat w v) }
  | .leftOf n => { h with left := cellWrite (treeCount t) 0#w h.left n (BitVec.ofNat w v) }
  | .rightOf n => { h with right := cellWrite (treeCount t) 0#w h.right n (BitVec.ofNat w v) }

/-! ### The checks (R192, R193) -/

/-- LEN[0 .. nchar − 1]. -/
def HuffTable.lens {w : Nat} (h : HuffTable w) (nchar : Nat) : List Nat := (List.range nchar).map h.getLen

/-- The exact code-space sum of R193, over the present symbols. -/
def codeSpace : List Nat → Nat
  | [] => 0
  | l :: ls => (if 0 < l then 2 ^ (16 - l) else 0) + codeSpace ls

/-- count[L] (R194). -/
def lenTally (ls : List Nat) (l : Nat) : Nat := (ls.filter fun x => decide (x = l)).length

/-- start[L] before its shift: start[1] = 0, start[L+1] = start[L] + (count[L] << (16 − L)) (R194). -/
def startOf (ls : List Nat) : Nat → Nat
  | 0 => 0
  | 1 => 0
  | l + 2 => startOf ls (l + 1) + lenTally ls (l + 1) * 2 ^ (16 - (l + 1))

/-! ### BuildTable (R194) -/

/-- The table being built, the next free node, and start[0 .. 16]. -/
structure Building (w : Nat) where
  table : HuffTable w
  avail : Nat
  start : List Nat
  deriving DecidableEq, Repr

/-- One step of the inner loop of R194, `n` steps left, at depth j: allocate the node at `ref` if it is not there,
then take the child that bit 15 − TB − j of the code chooses. -/
def threadCode {w : Nat} (t : Table) (nchar k ch : Nat) :
    (n j : Nat) → CellRef → Building w → Except ErrCode (Building w)
  | 0, _, ref, b => .ok { b with table := b.table.writeRef t ref ch }
  | n + 1, j, ref, b =>
    if b.table.readRef ref = 0 && decide (2 * nchar - 1 ≤ b.avail) then .error .indexOverflow
    else
      let b' := if b.table.readRef ref = 0 then
          { b with
            table := (((b.table.writeRef t (.leftOf b.avail) 0).writeRef t (.rightOf b.avail) 0).writeRef t ref b.avail)
            avail := b.avail + 1 }
        else b
      let node := b'.table.readRef ref
      threadCode t nchar k ch n (j + 1) (if k.testBit (15 - tableBits t - j) then .rightOf node else .leftOf node) b'

/-- The outer loop of R194: symbol `ch`, then the ones after it, whose lengths are the list. -/
def placeSymbols {w : Nat} (t : Table) (nchar : Nat) :
    List Nat → (ch : Nat) → Building w → Except ErrCode (Building w)
  | [], _, b => .ok b
  | l :: ls, ch, b =>
    if l = 0 then placeSymbols t nchar ls (ch + 1) b
    else
      let k := b.start.getD l 0
      if l ≤ tableBits t then
        let weight := 2 ^ (tableBits t - l)
        placeSymbols t nchar ls (ch + 1)
          { b with table := b.table.fillTable t k weight ch, start := b.start.set l (k + weight) }
      else
        match threadCode t nchar k ch (l - tableBits t) 0 (.entry (k / 2 ^ (16 - tableBits t))) b with
        | .error e => .error e
        | .ok b' => placeSymbols t nchar ls (ch + 1) { b' with start := b'.start.set l (k + 2 ^ (16 - l)) }

/-- start[0 .. 16] after the shifts of R194. -/
def startList (t : Table) (ls : List Nat) : List Nat :=
  (List.range 17).map fun l =>
    if l ≤ tableBits t then startOf ls l / 2 ^ (16 - tableBits t) else startOf ls l

/-- `BuildTable(t, nchar)` (R194), with the checks of R192 and R193. -/
def buildTable {w : Nat} (t : Table) (nchar : Nat) (h : HuffTable w) : Except ErrCode (HuffTable w) :=
  let ls := h.lens nchar
  if ls.any fun l => decide (16 < l) then .error .lenRange
  else if codeSpace ls ≠ 65536 then .error .codeSpace
  else
    let lo := startOf ls (tableBits t + 1) / 2 ^ (16 - tableBits t)
    let cleared := h.fillTable t lo (2 ^ tableBits t - lo) 0
    match placeSymbols t nchar ls 0 { table := cleared, avail := nchar, start := startList t ls } with
    | .error e => .error e
    | .ok b => .ok { b.table with nchar := BitVec.ofNat w nchar, avail := BitVec.ofNat w b.avail }

/-- A built table, or the failure of the build, with TV_t set and LENV_t as it is (R203). -/
def buildValid {w : Nat} (t : Table) (nchar : Nat) (h : HuffTable w) : Except ErrCode (HuffTable w) :=
  match buildTable t nchar h with
  | .error e => .error e
  | .ok h' => .ok { h' with tabValid := true }

/-- Table t replaced by what a computation on it gives, or its failure raised. -/
def updateTab (t : Table) (f : HuffTable (entryWidth t) → Except ErrCode (HuffTable (entryWidth t))) : Eng Unit :=
  fun s =>
    match f (s.tab t) with
    | .error e => .error (.raise e) s
    | .ok h => .ok () (s.setTab t h)

/-- `BuildTable(t, nchar); TV_t <- 1`. -/
def build (t : Table) (nchar : Nat) : Eng Unit := updateTab t (buildValid t nchar)

/-- The constant table of R204. -/
def constantTable {w : Nat} (t : Table) (c sym : Nat) (h : HuffTable w) : HuffTable w :=
  { h with
    len := []
    table := cellRun 0#w 0 (tableCount t) (BitVec.ofNat w sym)
    nchar := BitVec.ofNat w c
    avail := BitVec.ofNat w c
    lenValid := true
    tabValid := true }

/-- HT_FILL semantics (R204). -/
def htFill (t : Table) (c sym : Nat) : Eng Unit :=
  updateTab t fun h => if c ≤ sym then .error .symbolRange else .ok (constantTable t c sym h)

/-! ### Decoding (R197) -/

/-- The walk of R197: `n` bits of the look-ahead `w` are left, bit n − 1 the next. -/
def walkTree {w : Nat} (h : HuffTable w) (bits : Nat) : (n : Nat) → (j : Nat) → Except ErrCode Nat
  | 0, j => if j < h.nchar.toNat then .ok j else .error .indexOverflow
  | n + 1, j =>
    if j < h.nchar.toNat then .ok j
    else walkTree h bits n (if bits.testBit n then h.getRight j else h.getLeft j)

/-- The symbol that 16 look-ahead bits begin with (R197). -/
def HuffTable.lookup {w : Nat} (t : Table) (h : HuffTable w) (bits : Nat) : Except ErrCode Nat :=
  walkTree h bits (16 - tableBits t) (h.getTable (bits / 2 ^ (16 - tableBits t)))

/-- `Decode(t)` (R197). -/
def decodeSym (t : Table) : Eng Nat := do
  let s ← get
  match (s.tab t).lookup t (s.reader.peek 16) with
  | .error e => raiseErr e
  | .ok j => do
    consume ((s.tab t).getLen j)
    pure j

/-- `Requires LENV_t = 1`. -/
def requireLens (t : Table) : Eng Unit := require fun s => (s.tab t).lenValid

/-- `Requires TV_t = 1`. -/
def requireTable (t : Table) : Eng Unit := require fun s => (s.tab t).tabValid

/-! ### Commands -/

/-- LEN_CLEAR semantics (R200). -/
def lenClear (t : Table) : Eng Unit :=
  modify fun s => s.setTab t { s.tab t with len := [], lenValid := true, tabValid := false }

/-- LEN_CLEAR t (R200). -/
def execLenClear (t : Table) (s : State) : Host.Outcome State Fault Refusal :=
  command (operandsLegal (.lenClear t)) notInFailed (lenClear t) s

/-- LEN_WRITE t, i, l (R201). -/
def execLenWrite (t : Table) (i : BitVec 9) (l : BitVec 5) (s : State) : Host.Outcome State Fault Refusal :=
  command (operandsLegal (.lenWrite t i l)) notInFailed (do
    requireLens t
    modify fun s => s.setTab t { (s.tab t).setLen t i.toNat l.toNat with tabValid := false }) s

/-- LEN_READ t, i (R202). -/
def execLenRead (t : Table) (i : BitVec 9) (l : BitVec 5) (s : State) : Host.Outcome State Fault Refusal :=
  command (operandsLegal (.lenRead t i l)) notInFailed (do
    requireLens t
    setResult (((← get).tab t).getLen i.toNat)) s

/-- HT_BUILD t, c (R203). -/
def execHtBuild (t : Table) (c x : BitVec 9) (s : State) : Host.Outcome State Fault Refusal :=
  command (operandsLegal (.htBuild t c x)) notInFailed (do
    requireLens t
    build t c.toNat) s

/-- HT_FILL t, c, s (R204). -/
def execHtFill (t : Table) (c x : BitVec 9) (s : State) : Host.Outcome State Fault Refusal :=
  command (operandsLegal (.htFill t c x)) notInFailed (htFill t c.toNat x.toNat) s

/-- HT_DECODE t (R206). -/
def execHtDecode (t : Table) (s : State) : Host.Outcome State Fault Refusal :=
  command (operandsLegal (.htDecode t)) notInFailed (do
    requireReader
    requireTable t
    let j ← decodeSym t
    setResult j) s

/-- TBL_READ t, i (R207). -/
def execTblRead (t : Table) (i : BitVec 12) (s : State) : Host.Outcome State Fault Refusal :=
  command (operandsLegal (.tblRead t i)) notInFailed (do
    requireTable t
    setResult (((← get).tab t).getTable i.toNat)) s

/-- TREE_READ t, d, i (R208). -/
def execTreeRead (t : Table) (d : Side) (i : BitVec 10) (s : State) : Host.Outcome State Fault Refusal :=
  command (operandsLegal (.treeRead t d i)) notInFailed (do
    requireTable t
    let h := (← get).tab t
    raiseIf (decide (i.toNat < h.nchar.toNat) || decide (h.avail.toNat ≤ i.toNat)) .badOperand
    setResult (match d with
      | .left => h.getLeft i.toNat
      | .right => h.getRight i.toNat)) s

end Sys2Proof.Machine
end

