-- ==== Sys2Proof/Machine/Static.lean ====
section
/-! DEFINITION. The static and new-static Huffman decoders (43_static_decoders.md): reading code lengths from the
stream, the ready-made tables, decoding symbols and positions, and the commands HT_READY_MADE, NS_READ_PT, NS_READ_C,
ST0_READ_C and ST0_READ_P. -/

namespace Sys2Proof.Machine

/-- LEN_t[i] <- l. -/
def setLen (t : Table) (i l : Nat) : Eng Unit :=
  modify fun s => s.setTab t ((s.tab t).setLen t i l)

/-- LEN_t[k] <- 0 for `n` entries from `k` on. -/
def zeroLens (t : Table) (k n : Nat) : Eng Unit :=
  modify fun s => s.setTab t ((s.tab t).zeroLens t k n)

/-- LENV_t <- 1. -/
def markLens (t : Table) : Eng Unit :=
  modify fun s => s.setTab t { s.tab t with lenValid := true }

/-- What ends every reader of lengths (R221, R223, R229, R240): the lengths from `i` on are 0, LENV_t is 1, and the
table is built for `nchar` symbols. -/
def closeLens (t : Table) (i nchar : Nat) : Eng Unit := do
  zeroLens t i (lenCount t - i)
  markLens t
  build t nchar

/-! ### The new-static readers -/

/-- The unary part of a PT length (R221): `n` bits of the window are left to test, bit n − 1 the next; `c` is the
length so far. -/
def unaryLen (w : Nat) : (n c : Nat) → Eng Nat
  | 0, c => pure c
  | n + 1, c =>
    if w.testBit n then
      if 16 < c + 1 then raiseErr .lenRange else unaryLen w n (c + 1)
    else pure c

/-- One PT length (R221): 3 bits, or 111 and a unary extension. -/
def readPtLength : Eng Nat := do
  let r := (← get).reader
  let c ← if r.peek 3 = 7 then unaryLen (r.peek 16) 13 7 else pure (r.peek 3)
  consume (if c < 7 then 3 else c - 3)
  pure c

/-- The loop of R221: lengths i .. n − 1, with the zero run after the special index. Gives the index it ends at. The
first argument bounds the turns; each raises i, so `n` of them are enough. -/
def readPtLengths (nn n : Nat) (special : Option Nat) : (turns i : Nat) → Eng Nat
  | 0, i => pure i
  | turns + 1, i =>
    if i < n then do
      let c ← readPtLength
      setLen .pt i c
      if special = some (i + 1) then do
        let r ← getBits 2
        raiseIf (decide (nn < i + 1 + r)) .indexOverflow
        zeroLens .pt (i + 1) r
        readPtLengths nn n special turns (i + 1 + r)
      else readPtLengths nn n special turns (i + 1)
    else pure i

/-- `ReadPtLen(nn, nbit, special)` (R221). -/
def readPtLen (nn nbit : Nat) (special : Option Nat) : Eng Unit := do
  let n ← getBits nbit
  if n = 0 then do
    let c ← getBits nbit
    htFill .pt nn c
  else do
    raiseIf (decide (nn < n)) .indexOverflow
    let i ← readPtLengths nn n special n 0
    closeLens .pt i nn

/-- How many zero lengths a pretree symbol 0, 1 or 2 stands for (R223). -/
def zeroRun (c : Nat) : Eng Nat :=
  match c with
  | 0 => pure 1
  | 1 => do
    let r ← getBits 4
    pure (r + 3)
  | _ => do
    let r ← getBits 9
    pure (r + 20)

/-- The loop of R223: lengths i .. n − 1 through the pretree. Gives the index it ends at. The first argument bounds
the turns, as in `readPtLengths`. -/
def readCLengths (n : Nat) : (turns i : Nat) → Eng Nat
  | 0, i => pure i
  | turns + 1, i =>
    if i < n then do
      let c ← decodeSym .pt
      if c ≤ 2 then do
        let r ← zeroRun c
        raiseIf (decide (alphabetNC < i + r)) .indexOverflow
        zeroLens .c i r
        readCLengths n turns (i + r)
      else do
        setLen .c i (c - 2)
        readCLengths n turns (i + 1)
    else pure i

/-- `ReadCLen()` (R223). -/
def readCLen : Eng Unit := do
  let n ← getBits 9
  if n = 0 then do
    let c ← getBits 9
    htFill .c alphabetNC c
  else do
    raiseIf (decide (alphabetNC < n)) .indexOverflow
    let i ← readCLengths n n 0
    closeLens .c i alphabetNC

/-- `NsBlockHeader()` (R225). -/
def nsBlockHeader : Eng Unit := do
  let n ← getBits 16
  modify fun s => { s with blockSize := BitVec.ofNat 16 n }
  readPtLen pretreeCap 5 (some 3)
  readCLen
  let s ← get
  readPtLen s.np.toNat s.pbit.toNat none

/-! ### The lh3 readers -/

/-- The first three lengths are all 1: the escape of R229 and R231. -/
def threeOnes (t : Table) (s : State) : Bool :=
  decide ((s.tab t).getLen 0 = 1) && decide ((s.tab t).getLen 1 = 1) && decide ((s.tab t).getLen 2 = 1)

/-- One length of ReadTreeC (R229): a presence bit, then 4 bits plus 1. -/
def readTreeLength : Eng Nat := do
  let p ← getBits 1
  if p = 1 then do
    let l ← getBits 4
    pure (l + 1)
  else pure 0

/-- The loop of `ReadTreeC()` (R229), `left` lengths left from i on; the answer says that the escape was taken. -/
def readTreeLengths : (left i : Nat) → Eng Bool
  | 0, _ => pure false
  | left + 1, i => do
    let l ← readTreeLength
    setLen .c i l
    let s ← get
    if decide (i = 2) && threeOnes .c s then do
      let c ← getBits 9
      htFill .c alphabetN1 c
      pure true
    else readTreeLengths left (i + 1)

/-- `ReadTreeC()` (R229). -/
def readTreeC : Eng Unit := do
  let escaped ← readTreeLengths alphabetN1 0
  if escaped then pure () else closeLens .c alphabetN1 alphabetN1

/-- FIXED[m] (R240): the first length, then the symbols at which the length grows by one; a final 0 closes it. -/
def fixedTable : ReadyTable → Nat × List Nat
  | .lh1 => (3, [0x01, 0x04, 0x0C, 0x18, 0x30, 0])
  | .lh3 => (2, [0x01, 0x01, 0x03, 0x06, 0x0D, 0x1F, 0x4E, 0])

/-- `while tbl[k] = i: j <- j + 1; k <- k + 1` (R240). -/
def growLength (i : Nat) : Nat → List Nat → Nat × List Nat
  | j, [] => (j, [])
  | j, x :: xs => if x = i then growLength i (j + 1) xs else (j, x :: xs)

/-- The loop of R240: the lengths of symbols i, i + 1, …, `left` of them. -/
def readyLengths {w : Nat} : (left i j : Nat) → List Nat → HuffTable w → HuffTable w
  | 0, _, _, _, h => h
  | left + 1, i, j, tbl, h =>
    let (j', tbl') := growLength i j tbl
    readyLengths left (i + 1) j' tbl' (h.setLen .pt i j')

/-- `ReadyMade(m, np)` (R240). -/
def readyMade (m : ReadyTable) (np : Nat) : Eng Unit := do
  modify fun s => s.setTab .pt (readyLengths np 0 (fixedTable m).1 (fixedTable m).2 (s.tab .pt))
  closeLens .pt np np

/-- The loop of ST0_READ_P (R231), `left` lengths left from i on; the answer says that the escape was taken. -/
def readPosLengths : (left i : Nat) → Eng Bool
  | 0, _ => pure false
  | left + 1, i => do
    let l ← getBits 4
    setLen .pt i l
    let s ← get
    if decide (i = 2) && threeOnes .pt s then do
      let c ← getBits 7
      htFill .pt 128 c
      pure true
    else readPosLengths left (i + 1)

/-- ST0_READ_P semantics (R231). -/
def readTreeP : Eng Unit := do
  let sel ← getBits 1
  if sel = 1 then do
    let escaped ← readPosLengths 128 0
    if escaped then pure () else closeLens .pt 128 128
  else readyMade .lh3 128

/-- `St0BlockHeader()` (R232). -/
def st0BlockHeader : Eng Unit := do
  let n ← getBits 16
  modify fun s => { s with blockSize := BitVec.ofNat 16 n }
  readTreeC
  readTreeP

/-! ### Symbols and positions -/

/-- What NsDecodeC and St0DecodeC do before the symbol (R226, R233): a block header when BLOCKSIZE is 0, else the C
table must be valid (R335); then one symbol less is left. -/
def openBlock (header : Eng Unit) : Eng Unit := do
  requireReader
  let s ← get
  if s.blockSize = 0#16 then header else requireTable .c
  modify fun s => { s with blockSize := s.blockSize - 1 }

/-- `NsDecodeC()` (R226). -/
def nsDecodeC : Eng Nat := do
  openBlock nsBlockHeader
  decodeSym .c

/-- `NsDecodeP()` (R227). -/
def nsDecodeP : Eng Nat := do
  requireReader
  requireTable .pt
  let j ← decodeSym .pt
  if j ≤ 1 then pure j
  else do
    let v ← getBits (j - 1)
    pure (2 ^ (j - 1) + v)

/-- `St0DecodeC()` (R233). -/
def st0DecodeC : Eng Nat := do
  openBlock st0BlockHeader
  let j ← decodeSym .c
  if j = 285 then do
    let v ← getBits 8
    pure (j + v)
  else pure j

/-- `FixDecodeP()` (R234). -/
def fixDecodeP : Eng Nat := do
  requireReader
  requireTable .pt
  let j ← decodeSym .pt
  let v ← getBits 6
  pure (j * 64 + v)

/-! ### Commands -/

/-- HT_READY_MADE m, c (R241). -/
def execHtReadyMade (m : ReadyTable) (c : BitVec 8) (s : State) : Host.Outcome State Fault Refusal :=
  command (operandsLegal (.htReadyMade m c)) notInFailed (readyMade m c.toNat) s

/-- NS_READ_PT c, w, s (R222). -/
def execNsReadPt (c : BitVec 9) (w x : BitVec 4) (s : State) : Host.Outcome State Fault Refusal :=
  command (operandsLegal (.nsReadPt c w x)) notInFailed (do
    requireReader
    readPtLen c.toNat w.toNat (specialIndex x)) s

/-- NS_READ_C (R224). -/
def execNsReadC (s : State) : Host.Outcome State Fault Refusal :=
  command (operandsLegal .nsReadC) notInFailed (do
    requireReader
    requireTable .pt
    readCLen) s

/-- ST0_READ_C (R230). -/
def execSt0ReadC (s : State) : Host.Outcome State Fault Refusal :=
  command (operandsLegal .st0ReadC) notInFailed (do
    requireReader
    readTreeC) s

/-- ST0_READ_P (R231). -/
def execSt0ReadP (s : State) : Host.Outcome State Fault Refusal :=
  command (operandsLegal .st0ReadP) notInFailed (do
    requireReader
    readTreeP) s

end Sys2Proof.Machine
end

