-- ==== Sys2Proof/Machine/Checksum.lean ====
section
/-! DEFINITION. The checksum accumulators (41_checksum.md): the update functions, the automatic accumulation, and the
commands CRC16_BYTE, CRC32_BYTE, SUM_BYTE and CK_CLEAR. -/

namespace Sys2Proof.Machine

/-- One of the eight rounds of `crc16_update` (R170). -/
def crc16Round (c : BitVec 16) : BitVec 16 :=
  if c.getLsbD 0 then (c >>> 1) ^^^ 0xA001#16 else c >>> 1

/-- `n` rounds of `crc16_update`. -/
def crc16Rounds : Nat → BitVec 16 → BitVec 16
  | 0, c => c
  | n + 1, c => crc16Rounds n (crc16Round c)

/-- `crc16_update(crc, b)`, CRC-16/ARC (R170). -/
def crc16Update (c : BitVec 16) (b : Byte) : BitVec 16 := crc16Rounds 8 (c ^^^ b.zeroExtend 16)

/-- One of the eight rounds of `crc32_update` (R171). -/
def crc32Round (c : BitVec 32) : BitVec 32 :=
  if c.getLsbD 0 then (c >>> 1) ^^^ 0xEDB88320#32 else c >>> 1

/-- `n` rounds of `crc32_update`. -/
def crc32Rounds : Nat → BitVec 32 → BitVec 32
  | 0, c => c
  | n + 1, c => crc32Rounds n (crc32Round c)

/-- `crc32_update(crc, b)`, CRC-32 in finished form (R171). -/
def crc32Update (c : BitVec 32) (b : Byte) : BitVec 32 := ~~~ (crc32Rounds 8 (~~~ c ^^^ b.zeroExtend 32))

/-- `sum8_update(s, b)` (R172). -/
def sum8Update (c : BitVec 8) (b : Byte) : BitVec 8 := c + b

/-- The byte folded into the checksums CTRL enables (R179). -/
def State.foldChecksums (b : Byte) (s : State) : State :=
  { s with
    crc16 := if s.autoCrc16 then crc16Update s.crc16 b else s.crc16
    crc32 := if s.autoCrc32 then crc32Update s.crc32 b else s.crc32
    sum8 := if s.autoSum then sum8Update s.sum8 b else s.sum8 }

/-- CRC16_BYTE b (R173). -/
def execCrc16Byte (b : BitVec 8) (s : State) : Host.Outcome State Fault Refusal :=
  command (operandsLegal (.crc16Byte b)) notInFailed
    (modify fun s => { s with crc16 := crc16Update s.crc16 b }) s

/-- CRC32_BYTE b (R175). -/
def execCrc32Byte (b : BitVec 8) (s : State) : Host.Outcome State Fault Refusal :=
  command (operandsLegal (.crc32Byte b)) notInFailed
    (modify fun s => { s with crc32 := crc32Update s.crc32 b }) s

/-- SUM_BYTE b (R177). -/
def execSumByte (b : BitVec 8) (s : State) : Host.Outcome State Fault Refusal :=
  command (operandsLegal (.sumByte b)) notInFailed
    (modify fun s => { s with sum8 := sum8Update s.sum8 b }) s

/-- CK_CLEAR m (R178): bit 0 CRC16, bit 1 CRC32, bit 2 SUM8. -/
def execCkClear (m : BitVec 3) (s : State) : Host.Outcome State Fault Refusal :=
  command (operandsLegal (.ckClear m)) notInFailed
    (modify fun s => { s with
      crc16 := if m.getLsbD 0 then 0#16 else s.crc16
      crc32 := if m.getLsbD 1 then 0#32 else s.crc32
      sum8 := if m.getLsbD 2 then 0#8 else s.sum8 }) s

end Sys2Proof.Machine
end

