-- ==== Sys2Proof/Machine/Window.lean ====
section
/-! DEFINITION. The sliding window (45_window.md): Put, Emit, the match copy, the flush, and the commands WIN_INIT,
WIN_LITERAL, WIN_MATCH, WIN_FLUSH and WIN_READ. -/

namespace Sys2Proof.Machine

/-- `Emit(b)` (R307): the byte goes to the sink, which may make the command wait (R86); OUT_COUNT and the enabled
checksums follow. -/
def emit (b : Byte) : Eng Unit := fun s =>
  if s.sinkRoom = some 0 then .error .stall s
  else
    .ok () ({ s with
      inFlight := .emit b :: s.inFlight
      sinkRoom := s.sinkRoom.map (· - 1)
      outCount := s.outCount + 1 }.foldChecksums b)

/-- `for i in from .. from + n - 1: Emit(DIC[i])`. -/
def emitRange : (n i : Nat) → Eng Unit
  | 0, _ => pure ()
  | n + 1, i => do
    emit ((← get).window.read i)
    emitRange n (i + 1)

/-- `Put(b)` (R302). -/
def put (b : Byte) : Eng Unit := do
  modify fun s => { s with window := s.window.write s.window.loc.toNat b }
  let x := (← get).window
  if x.loc = x.mask then do
    emitRange (x.mask.toNat + 1) 0
    modify fun s => { s with window := { s.window with loc := 0#16 } }
  else
    modify fun s => { s with window := { s.window with loc := s.window.loc + 1 } }

/-- `Requires WINV = 1`. -/
def requireWindow : Eng Unit := require fun s => s.window.valid

/-- DECODE_COUNT <- DECODE_COUNT + n (R305). -/
def countDecoded (n : Nat) : Eng Unit :=
  modify fun s => { s with decodeCount := s.decodeCount + BitVec.ofNat 64 n }

/-- WIN_INIT semantics (R301). -/
def winInit (k : Nat) : Eng Unit :=
  modify fun s => { s with
    dicbit := BitVec.ofNat 5 k
    window :=
      { dic := cellFill dicSize dicUnlisted s.window.dic 0 (2 ^ k) s.fill
        loc := 0#16
        mask := BitVec.ofNat 16 (2 ^ k - 1)
        valid := true } }

/-- WIN_LITERAL semantics (R303). -/
def winLiteral (b : Byte) : Eng Unit := do
  requireWindow
  put b
  countDecoded 1

/-- The copy loop of R304, `n` bytes left from offset k on. -/
def copyBytes (src : BitVec 16) : (n k : Nat) → Eng Unit
  | 0, _ => pure ()
  | n + 1, k => do
    let x := (← get).window
    put (x.read ((src + BitVec.ofNat 16 k) &&& x.mask).toNat)
    copyBytes src n (k + 1)

/-- The copy of a match of length `len` at distance `dist` (R304), after WIN_MATCH's check of the distance. -/
def copyMatch (len dist : Nat) : Eng Unit := do
  let x := (← get).window
  countDecoded len
  copyBytes ((x.loc - BitVec.ofNat 16 dist) &&& x.mask) len 0

/-- The match of a decoded token: its distance is never checked (C4, D27). Log 24. -/
def winMatchDecoded (len dist : Nat) : Eng Unit := do
  requireWindow
  copyMatch len dist

/-- WIN_FLUSH semantics (R308). -/
def winFlush : Eng Unit := do
  requireWindow
  emitRange (← get).window.loc.toNat 0
  modify fun s => { s with window := { s.window with valid := false } }

/-! ### Commands -/

/-- WIN_INIT k (R301). -/
def execWinInit (k : BitVec 5) (s : State) : Host.Outcome State Fault Refusal :=
  command (operandsLegal (.winInit k)) notInFailed (winInit k.toNat) s

/-- WIN_LITERAL b (R303). -/
def execWinLiteral (b : BitVec 8) (s : State) : Host.Outcome State Fault Refusal :=
  command (operandsLegal (.winLiteral b)) notInFailed (winLiteral b) s

/-- WIN_MATCH s (R304): the distance is ARG[16:0], 1 to 65,536. -/
def execWinMatch (x : BitVec 9) (s : State) : Host.Outcome State Fault Refusal :=
  command (operandsLegal (.winMatch x)) notInFailed (do
    requireWindow
    let dist := (← get).argDistance
    raiseIf (decide (dist = 0) || decide (65536 < dist)) .badOperand
    copyMatch x.toNat dist) s

/-- WIN_FLUSH (R308). -/
def execWinFlush (s : State) : Host.Outcome State Fault Refusal :=
  command (operandsLegal .winFlush) notInFailed winFlush s

/-- WIN_READ i (R309). -/
def execWinRead (i : BitVec 16) (s : State) : Host.Outcome State Fault Refusal :=
  command (operandsLegal (.winRead i)) notInFailed (do
    requireWindow
    let x := (← get).window
    raiseIf (decide (x.mask.toNat < i.toNat)) .badOperand
    setResult (x.read i.toNat).toNat) s

end Sys2Proof.Machine
end

