-- ==== Sys2Proof/Machine/Control.lean ====
section
/-! DEFINITION. Command control and entry sequencing (46_control.md): NOP, SOFT_RESET, ENTRY_START, RUN, STEP, FINISH,
DEC_C, DEC_P and BLK_START. -/

namespace Sys2Proof.Machine

/-! ### Resets and the start of an entry -/

/-- A table's registers and flags after SOFT_RESET; its RAMs keep their contents (R337, R451). -/
def HuffTable.softReset {w : Nat} (h : HuffTable w) : HuffTable w :=
  { HuffTable.reset with len := h.len, table := h.table, left := h.left, right := h.right }

/-- The arena's registers and flags after SOFT_RESET; its RAMs keep their contents. -/
def Arena.softReset (a : Arena) : Arena :=
  { Arena.reset with freq := a.freq, child := a.child, parent := a.parent, sNode := a.sNode }

/-- SOFT_RESET (R337, R451): every item of R450 at its reset value but CTRL, PACKED, ORIG, ARG and the RAMs. The ports
and the agents' moves are outside R450 and stay. -/
def State.softReset (s : State) : State :=
  { State.reset with
    cmd := s.cmd
    ctrl := s.ctrl
    packedLo := s.packedLo
    packedHi := s.packedHi
    origLo := s.origLo
    origHi := s.origHi
    arg := s.arg
    tabC := s.tabC.softReset
    tabPt := s.tabPt.softReset
    arena := s.arena.softReset
    window := { Window.reset with dic := s.window.dic }
    source := s.source
    sinkRoom := s.sinkRoom
    trace := s.trace
    inFlight := s.inFlight
    reads := s.reads
    schedule := s.schedule
    draws := s.draws }

/-- The first two lines of ENTRY_START: the status bits and the valid flags cleared (R334). -/
def State.clearEntry (s : State) : State :=
  { s.clearValid with done := false, err := false, errcode := none, overrun := false, dropped := false }

/-- The lines of ENTRY_START from `E_METHOD <- m` to the counters (R334). -/
def State.latchEntry (s : State) : State :=
  { s with
    eMethod := s.method
    eFill := s.fill
    crc16 := 0#16
    crc32 := 0#32
    sum8 := 0#8
    decodeCount := 0#64
    outCount := 0#64
    blockSize := 0#16 }

/-- dicbit, np and pbit of the method. -/
def setDicbit (k : BitVec 5) : Eng Unit := modify fun s => { s with dicbit := k }

/-- np of the method (R334). -/
def setNp (n : BitVec 8) : Eng Unit := modify fun s => { s with np := n }

/-- pbit of the method (R334). -/
def setPbit (n : BitVec 3) : Eng Unit := modify fun s => { s with pbit := n }

/-- The method's own initial state: the `case m of` of R334. Methods 0 and 8 open no window: DICBIT is 0, and WIN_LOC and
WIN_MASK keep what they held, since R334 writes neither, although R44 has WIN_LOC below 2^dicbit. DESIGN CHOICE, log 31. -/
def startMethod (m : Nat) : Eng Unit :=
  match m with
  | 0 | 8 => setDicbit 0#5
  | 1 => do
    setNp 64#8
    winInit 12
    modify fun s => { s with arena := startC 314 60 s.arena }
    readyMade .lh1 64
  | 2 => do
    winInit 13
    modify fun s => { s with arena := startP 13 (startC 286 256 s.arena) }
  | 3 => do
    setNp 128#8
    winInit 13
    lenClear .c
    lenClear .pt
  | _ => do
    let (k, np, pbit) := newStaticParams m
    setNp np
    setPbit pbit
    winInit k.toNat
    lenClear .c
    lenClear .pt

/-- ENTRY_START (R334). -/
def entryStart : Eng Unit := do
  modify State.clearEntry
  let m := (← get).method.toNat
  raiseIf (decide (8 < m)) .badState
  modify State.latchEntry
  brInit
  startMethod m
  modify fun s => { s with estate := .active }

/-! ### Dispatch by method (R335) -/

/-- `DecC()` (R335). -/
def decC : Eng Nat := do
  let s ← get
  match s.methodNow with
  | 1 | 2 => dynDecodeC
  | 3 => st0DecodeC
  | 4 | 5 | 6 | 7 => nsDecodeC
  | _ => raiseErr .badState

/-- `DecP()` (R335). -/
def decP : Eng Nat := do
  let s ← get
  match s.methodNow with
  | 1 | 3 => fixDecodeP
  | 2 => dynDecodeP
  | 4 | 5 | 6 | 7 => nsDecodeP
  | _ => raiseErr .badState

/-- `BlkHdr()` (R335). -/
def blkHdr : Eng Unit := do
  let s ← get
  match s.methodNow with
  | 3 => do
    requireReader
    st0BlockHeader
  | 4 | 5 | 6 | 7 => do
    requireReader
    nsBlockHeader
  | _ => raiseErr .badState

/-! ### Tokens and entries -/

/-- STEP semantics (R341). -/
def stepToken : Eng Unit := do
  let c ← decC
  if c ≤ 255 then winLiteral (BitVec.ofNat 8 c)
  else do
    let p ← decP
    winMatchDecoded (c - adjust) (p + 1)
  setResult c

/-- The LZ loop of RUN: `while DECODE_COUNT < ORIG_SIZE: STEP semantics` (R342), which ends after `turns` tokens. -/
def runTokens : (turns : Nat) → Eng Unit
  | 0 => pure ()
  | turns + 1 => do
    let s ← get
    if s.decodeCount < s.origSize then do
      stepToken
      runTokens turns
    else pure ()

/-- The stored copy of RUN, `n` bytes of it (R342). -/
def copyStored : (n : Nat) → Eng Unit
  | 0 => pure ()
  | n + 1 => do
    requireReader
    let v ← getBits 8
    emit (BitVec.ofNat 8 v)
    countDecoded 1
    copyStored n

/-- The last lines of RUN and FINISH (R342, R343). -/
def closeEntry : Eng Unit :=
  modify fun s => { s with overrun := decide (s.origSize < s.decodeCount), done := true, estate := .finished }

/-- RUN (R342). The stored loop's count goes up by 1 to ORIG_SIZE, so it turns ORIG_SIZE − DECODE_COUNT times. The LZ
loop "performs at most ORIG_SIZE steps" (R466): each token raises DECODE_COUNT, so the bound ends the loop only where
the count has wrapped past 2^64 (R40). DEDUCED, log 30. -/
def runEntry : Eng Unit := do
  let s ← get
  if s.storedEntry then copyStored (s.origSize.toNat - s.decodeCount.toNat)
  else do
    runTokens s.origSize.toNat
    winFlush
  closeEntry

/-- FINISH (R343). -/
def finishEntry : Eng Unit := do
  let s ← get
  if s.lzEntry then winFlush else pure ()
  closeEntry

/-! ### Commands -/

/-- NOP (R336). -/
def execNop (s : State) : Host.Outcome State Fault Refusal :=
  command (operandsLegal .nop) inEveryState (pure ()) s

/-- SOFT_RESET (R337). -/
def execSoftReset (s : State) : Host.Outcome State Fault Refusal :=
  command (operandsLegal .softReset) inEveryState (modify State.softReset) s

/-- ENTRY_START (R334). -/
def execEntryStart (s : State) : Host.Outcome State Fault Refusal :=
  command (operandsLegal .entryStart) inEveryState entryStart s

/-- RUN (R342). -/
def execRun (s : State) : Host.Outcome State Fault Refusal :=
  command (operandsLegal .run) inActive runEntry s

/-- STEP (R341): E_METHOD must be 1 to 7. -/
def execStep (s : State) : Host.Outcome State Fault Refusal :=
  command (operandsLegal .step) inActive (do
    require State.lzEntry
    stepToken) s

/-- FINISH (R343). -/
def execFinish (s : State) : Host.Outcome State Fault Refusal :=
  command (operandsLegal .finish) inActive finishEntry s

/-- DEC_C (R338). -/
def execDecC (s : State) : Host.Outcome State Fault Refusal :=
  command (operandsLegal .decC) inActive (do
    let c ← decC
    setResult c) s

/-- DEC_P (R339). -/
def execDecP (s : State) : Host.Outcome State Fault Refusal :=
  command (operandsLegal .decP) inActive (do
    let p ← decP
    setResult p) s

/-- BLK_START (R340): E_METHOD must be 3 to 7, which `blkHdr` checks. -/
def execBlkStart (s : State) : Host.Outcome State Fault Refusal :=
  command (operandsLegal .blkStart) inActive blkHdr s

end Sys2Proof.Machine
end

