-- ==== Sys2Proof/Machine/Dispatch.lean ====
section
/-! DEFINITION. The dispatch: one arm per command, each one direct call of its meaning. -/

namespace Sys2Proof.Machine

/-- The meaning of each command (R330). -/
def exec (i : Instr) (s : State) : Host.Outcome State Fault Refusal :=
  match i with
  | .nop => Sys2Proof.Machine.execNop s
  | .softReset => Sys2Proof.Machine.execSoftReset s
  | .entryStart => Sys2Proof.Machine.execEntryStart s
  | .run => Sys2Proof.Machine.execRun s
  | .step => Sys2Proof.Machine.execStep s
  | .finish => Sys2Proof.Machine.execFinish s
  | .decC => Sys2Proof.Machine.execDecC s
  | .decP => Sys2Proof.Machine.execDecP s
  | .blkStart => Sys2Proof.Machine.execBlkStart s
  | .brInit => Sys2Proof.Machine.execBrInit s
  | .brPeek n => Sys2Proof.Machine.execBrPeek n s
  | .brSkip n => Sys2Proof.Machine.execBrSkip n s
  | .brGet n => Sys2Proof.Machine.execBrGet n s
  | .crc16Byte b => Sys2Proof.Machine.execCrc16Byte b s
  | .crc32Byte b => Sys2Proof.Machine.execCrc32Byte b s
  | .sumByte b => Sys2Proof.Machine.execSumByte b s
  | .ckClear m => Sys2Proof.Machine.execCkClear m s
  | .lenClear t => Sys2Proof.Machine.execLenClear t s
  | .lenWrite t j l => Sys2Proof.Machine.execLenWrite t j l s
  | .lenRead t j l => Sys2Proof.Machine.execLenRead t j l s
  | .htBuild t c x => Sys2Proof.Machine.execHtBuild t c x s
  | .htFill t c x => Sys2Proof.Machine.execHtFill t c x s
  | .htDecode t => Sys2Proof.Machine.execHtDecode t s
  | .tblRead t j => Sys2Proof.Machine.execTblRead t j s
  | .treeRead t d j => Sys2Proof.Machine.execTreeRead t d j s
  | .htReadyMade m c => Sys2Proof.Machine.execHtReadyMade m c s
  | .nsReadPt c w x => Sys2Proof.Machine.execNsReadPt c w x s
  | .nsReadC => Sys2Proof.Machine.execNsReadC s
  | .st0ReadC => Sys2Proof.Machine.execSt0ReadC s
  | .st0ReadP => Sys2Proof.Machine.execSt0ReadP s
  | .dynStartC k => Sys2Proof.Machine.execDynStartC k s
  | .dynStartP k => Sys2Proof.Machine.execDynStartP k s
  | .dynDecodeC => Sys2Proof.Machine.execDynDecodeC s
  | .dynDecodeP => Sys2Proof.Machine.execDynDecodeP s
  | .dynUpdateC x => Sys2Proof.Machine.execDynUpdateC x s
  | .dynUpdateP x => Sys2Proof.Machine.execDynUpdateP x s
  | .dynReconst k => Sys2Proof.Machine.execDynReconst k s
  | .dynNewNode x => Sys2Proof.Machine.execDynNewNode x s
  | .dynRead f j => Sys2Proof.Machine.execDynRead f j s
  | .winInit k => Sys2Proof.Machine.execWinInit k s
  | .winLiteral b => Sys2Proof.Machine.execWinLiteral b s
  | .winMatch x => Sys2Proof.Machine.execWinMatch x s
  | .winFlush => Sys2Proof.Machine.execWinFlush s
  | .winRead j => Sys2Proof.Machine.execWinRead j s

end Sys2Proof.Machine
end

