-- ==== Sys2Proof/Machine/RegisterPort.lean ====
section
/-! DEFINITION. The register map (R33) as the host's reads and writes see it (R82, R83, R90, R463). -/

namespace Sys2Proof.Machine

/-- The read-only identity (R2, R33). -/
def idValue : Word := 0x4C480001#32

/-- What a register reads as while no command runs (R33–R41); CMD and the reserved offsets read 0. -/
def State.readReg (s : State) (offset : Nat) : Word :=
  match offset with
  | 0x04 => s.status
  | 0x08 => s.ctrl.zeroExtend 32
  | 0x0C => s.packedLo
  | 0x10 => s.packedHi
  | 0x14 => s.origLo
  | 0x18 => s.origHi
  | 0x1C => s.arg
  | 0x20 => s.result
  | 0x24 => s.crc16.zeroExtend 32
  | 0x28 => s.crc32
  | 0x2C => s.sum8.zeroExtend 32
  | 0x30 => s.decodeCount.extractLsb' 0 32
  | 0x34 => s.decodeCount.extractLsb' 32 32
  | 0x38 => s.outCount.extractLsb' 0 32
  | 0x3C => s.outCount.extractLsb' 32 32
  | 0x40 => s.reader.inCount.extractLsb' 0 32
  | 0x44 => s.reader.inCount.extractLsb' 32 32
  | 0x48 => s.reader.pos.extractLsb' 0 32
  | 0x4C => s.reader.pos.extractLsb' 32 32
  | 0x50 => s.blockSize.zeroExtend 32
  | 0x54 => s.window.loc.zeroExtend 32
  | 0x58 => idValue
  | 0x5C => s.dicbit.zeroExtend 32
  | _ => 0#32

/-- What a register reads as while a command runs (R90(d), R463): ID is its constant, STATUS has BUSY = 1, and all
else is free. Log 9. -/
def State.readBusy (s : State) (offset : Nat) : Word :=
  match offset with
  | 0x58 => idValue
  | 0x04 => Config.freeBusyRead s.reads.length ||| 1#32
  | _ => Config.freeBusyRead s.reads.length

/-- A write, while no command runs, to a register other than CMD (R33, R83): the writable ones store their named
bits, every other offset ignores it. -/
def State.writeReg (s : State) (offset : Nat) (v : Word) : State :=
  match offset with
  | 0x08 => { s with ctrl := v.extractLsb' 0 16 }
  | 0x0C => { s with packedLo := v }
  | 0x10 => { s with packedHi := v }
  | 0x14 => { s with origLo := v }
  | 0x18 => { s with origHi := v }
  | 0x1C => { s with arg := v }
  | 0x24 => { s with crc16 := v.extractLsb' 0 16 }
  | 0x28 => { s with crc32 := v }
  | 0x2C => { s with sum8 := v.extractLsb' 0 8 }
  | _ => s

/-- The register port accepts only 32-bit accesses at multiples of 4 (R82). -/
def accessLegal (size : AccessSize) (offset : BitVec 7) : Bool :=
  decide (size = .word) && decide (offset.toNat % 4 = 0)

/-- The host writes (R83, R330, R332): while BUSY the write is dropped; a write to CMD is accepted as a command. -/
def hostWrite (size : AccessSize) (offset : BitVec 7) (v : Word) (s : State) : Host.Outcome State Fault Refusal :=
  if !accessLegal size offset then .refused .badBusAccess
  else if s.busy then .next { s with dropped := true }
  else if offset = 0#7 then .next { s with cmd := some v }
  else .next (s.writeReg offset.toNat v)

/-- The host reads (R83, R90, R463). A read changes nothing but the record of what it returned; a read while BUSY
returns a free value, a new one each time. Log 9. -/
def hostRead (size : AccessSize) (offset : BitVec 7) (s : State) : Host.Outcome State Fault Refusal :=
  if !accessLegal size offset then .refused .badBusAccess
  else .next { s with
    reads := (offset, if s.busy then s.readBusy offset.toNat else s.readReg offset.toNat) :: s.reads }

/-- How many of some port events are requests. -/
def requestCount : List PortEvent → Nat
  | [] => 0
  | .request _ :: es => requestCount es + 1
  | .emit _ :: es => requestCount es

/-- How many of some port events are emitted bytes. -/
def emitCount : List PortEvent → Nat
  | [] => 0
  | .request _ :: es => emitCount es
  | .emit _ :: es => emitCount es + 1

/-- The reset input (R450). A command it interrupts is abandoned: the port events it has made stay, and the answers
and the room they took are gone. The agents' moves go on. Log 28. -/
def hardReset (s : State) : State :=
  { State.reset with
    source := s.source.drop (requestCount s.inFlight)
    sinkRoom := s.sinkRoom.map (· - emitCount s.inFlight)
    trace := s.inFlight ++ s.trace
    reads := s.reads
    schedule := s.schedule
    draws := s.draws }

/-- The sink becomes ready for more bytes, or for all (R86). -/
def acceptMore (more : Option Nat) (s : State) : State :=
  { s with sinkRoom :=
      match more, s.sinkRoom with
      | some n, some k => some (k + n)
      | _, _ => none }

/-- The source has one more answer to give (R84). -/
def addAnswer (a : Answer) (s : State) : State := { s with source := s.source ++ [a] }

end Sys2Proof.Machine
end

