-- ==== Sys2Proof/Machine/HostPort.lean ====
section
/-! DEFINITION. The moves of the agents (R30): the engine taking the latched command word, and each event of the
schedule. -/

namespace Sys2Proof.Machine

/-- The error code of a decode failure (R123, R400). -/
def decodeErr : DecodeError → ErrCode
  | .badOpcode => .badOpcode
  | .badOperand => .badOperand

/-- The engine decodes a command word and executes the command (R330). -/
def runWord (w : Word) (s : State) : Host.Outcome State Fault Refusal :=
  match decode w with
  | .error e => .next (State.failDecode (decodeErr e) { s with inFlight := [] })
  | .ok i => exec i s

/-- The engine's move: the latched command, or nothing while no command runs (R415). -/
def engineMove (s : State) : Host.Outcome State Fault Refusal :=
  match s.cmd with
  | none => .next s
  | some w => runWord w s

/-- One event of the schedule, which has been taken off it. -/
def moveOf (e : Event) (s : State) : Host.Outcome State Fault Refusal :=
  match e with
  | .write size offset v => hostWrite size offset v s
  | .read size offset => hostRead size offset s
  | .engine => engineMove s
  | .answer a => .next (addAnswer a s)
  | .accept more => .next (acceptMore more s)
  | .reset => .next (hardReset s)

end Sys2Proof.Machine
end

