-- ==== Sys2Proof/Machine/Step.lean ====
section
/-! DEFINITION. One step of the block: the next move of the schedule, or the engine's where the schedule is empty. -/

namespace Sys2Proof.Machine

/-- One step. -/
def step (s : State) : Host.Outcome State Fault Refusal :=
  match s.schedule with
  | [] => engineMove s
  | e :: rest => moveOf e { s with schedule := rest }

/-- The state with a command word latched as a CMD write latches it, and the engine's move the next one, so that the
very next step runs that word. Log 1. -/
def State.withFetchWord (s : State) (nbits w : Nat) : State :=
  { s with cmd := some (BitVec.ofNat 32 (w % 2 ^ nbits)), schedule := .engine :: s.schedule }

end Sys2Proof.Machine
end

