-- ==== Sys2Proof/Machine/Assembly.lean ====
section
/-! DEFINITION. Assembly text (R126), the host's register operations in assembly (R127), the pseudo-commands (R128) and
disassembly (R129). Nothing here is a move of the block: a line stands for a command word or for the host's register
accesses, which are events of `State.schedule`. -/

namespace Sys2Proof.Machine

/-! ### Printing a command (R126, R129) -/

/-- The mnemonic (R114–R120). -/
def mnemonicOf : Instr → String
  | .nop => "NOP"
  | .softReset => "SOFT_RESET"
  | .entryStart => "ENTRY_START"
  | .run => "RUN"
  | .step => "STEP"
  | .finish => "FINISH"
  | .decC => "DEC_C"
  | .decP => "DEC_P"
  | .blkStart => "BLK_START"
  | .brInit => "BR_INIT"
  | .brPeek _ => "BR_PEEK"
  | .brSkip _ => "BR_SKIP"
  | .brGet _ => "BR_GET"
  | .crc16Byte _ => "CRC16_BYTE"
  | .crc32Byte _ => "CRC32_BYTE"
  | .sumByte _ => "SUM_BYTE"
  | .ckClear _ => "CK_CLEAR"
  | .lenClear _ => "LEN_CLEAR"
  | .lenWrite _ _ _ => "LEN_WRITE"
  | .lenRead _ _ _ => "LEN_READ"
  | .htBuild _ _ _ => "HT_BUILD"
  | .htFill _ _ _ => "HT_FILL"
  | .htDecode _ => "HT_DECODE"
  | .tblRead _ _ => "TBL_READ"
  | .treeRead _ _ _ => "TREE_READ"
  | .htReadyMade _ _ => "HT_READY_MADE"
  | .nsReadPt _ _ _ => "NS_READ_PT"
  | .nsReadC => "NS_READ_C"
  | .st0ReadC => "ST0_READ_C"
  | .st0ReadP => "ST0_READ_P"
  | .dynStartC _ => "DYN_START_C"
  | .dynStartP _ => "DYN_START_P"
  | .dynDecodeC => "DYN_DECODE_C"
  | .dynDecodeP => "DYN_DECODE_P"
  | .dynUpdateC _ => "DYN_UPDATE_C"
  | .dynUpdateP _ => "DYN_UPDATE_P"
  | .dynReconst _ => "DYN_RECONST"
  | .dynNewNode _ => "DYN_NEW_NODE"
  | .dynRead _ _ => "DYN_READ"
  | .winInit _ => "WIN_INIT"
  | .winLiteral _ => "WIN_LITERAL"
  | .winMatch _ => "WIN_MATCH"
  | .winFlush => "WIN_FLUSH"
  | .winRead _ => "WIN_READ"

/-- An operand as the text has it: a number or a name (R126). -/
inductive AsmOperand where
  | num (n : Nat)
  | name (s : String)
  deriving DecidableEq, Repr

/-- The name of a table select (R126). -/
def tableName : Table → String
  | .c => "C"
  | .pt => "PT"

/-- The name of a tree side (R126). -/
def sideName : Side → String
  | .left => "L"
  | .right => "R"

/-- The name of a DYN_READ field (R126). -/
def dynFieldName : DynField → String
  | .freq => "FREQ"
  | .child => "CHILD"
  | .parent => "PARENT"
  | .sNode => "SNODE"
  | .totalP => "TOTALP"
  | .mostP => "MOSTP"
  | .nextCount => "NEXTC"
  | .nInfo => "NINFO"

/-- The number `m` of a ready-made table (R113). -/
def readyNumber : ReadyTable → Nat
  | .lh1 => 0
  | .lh3 => 1

/-- A field printed as a number. -/
def numOf {w : Nat} (v : BitVec w) : AsmOperand := .num v.toNat

/-- The operands in the order of R126. Where R126 allows a name, the name is printed, NONE for s = 15 among them. DESIGN
CHOICE, log 25. -/
def operandsOf : Instr → List AsmOperand
  | .nop | .softReset | .entryStart | .run | .step | .finish | .decC | .decP | .blkStart | .brInit => []
  | .brPeek n | .brSkip n | .brGet n => [numOf n]
  | .crc16Byte b | .crc32Byte b | .sumByte b => [numOf b]
  | .ckClear m => [numOf m]
  | .lenClear t | .htDecode t => [.name (tableName t)]
  | .lenWrite t i l => [.name (tableName t), numOf i, numOf l]
  | .lenRead t i _ => [.name (tableName t), numOf i]
  | .htBuild t c _ => [.name (tableName t), numOf c]
  | .htFill t c s => [.name (tableName t), numOf c, numOf s]
  | .tblRead t i => [.name (tableName t), numOf i]
  | .treeRead t d i => [.name (tableName t), .name (sideName d), numOf i]
  | .htReadyMade m c => [.num (readyNumber m), numOf c]
  | .nsReadPt c w s => [numOf c, numOf w, if s = 15#4 then .name "NONE" else numOf s]
  | .nsReadC | .st0ReadC | .st0ReadP | .dynDecodeC | .dynDecodeP => []
  | .dynStartC k | .dynStartP k | .dynReconst k => [numOf k]
  | .dynUpdateC s => [numOf s]
  | .dynUpdateP s | .dynNewNode s => [numOf s]
  | .dynRead f i => [.name (dynFieldName f), numOf i]
  | .winInit k => [numOf k]
  | .winLiteral b => [numOf b]
  | .winMatch s => [numOf s]
  | .winFlush => []
  | .winRead i => [numOf i]

/-- The digit of a value below 16, in capitals. -/
def hexDigit (n : Nat) : Char := if n < 10 then Char.ofNat (48 + n) else Char.ofNat (55 + n)

/-- The lowest `n` hex digits of a value, most significant first. -/
def hexDigits : (n v : Nat) → List Char
  | 0, _ => []
  | n + 1, v => hexDigits n (v / 16) ++ [hexDigit (v % 16)]

/-- The decimal digits of a value below 10^n, without leading zeros. -/
def decDigits : (n v : Nat) → List Char
  | 0, _ => []
  | n + 1, v => if v < 10 then [hexDigit v] else decDigits n (v / 10) ++ [hexDigit (v % 10)]

/-- One operand's text; a field has at most 16 bits, so 5 digits hold it. A number is printed in decimal, where R126 and R129
allow 0x-hex too. DESIGN CHOICE, log 25. -/
def AsmOperand.text : AsmOperand → List Char
  | .num n => decDigits 10 n
  | .name s => s.toList

/-- Operands with commas between them. -/
def joinOperands : List AsmOperand → List Char
  | [] => []
  | [o] => o.text
  | o :: os => o.text ++ [',', ' '] ++ joinOperands os

/-- The assembly line of a command (R126). -/
def toAsm (i : Instr) : String :=
  String.ofList ((mnemonicOf i).toList ++ (match operandsOf i with
    | [] => []
    | os => ' ' :: joinOperands os))

/-- Disassembly (R129). -/
def disassemble (w : Word) : String :=
  match verdict w with
  | .ok i => toAsm i
  | .error e => String.ofList (".word 0x".toList ++ hexDigits 8 w.toNat ++ (match e with
      | .badOpcode => " ; BAD_OPCODE".toList
      | .badOperand => " ; BAD_OPERAND".toList))

/-! ### Reading a line (R126) -/

/-- The value of a decimal or hex digit. -/
def digitOf (base : Nat) (c : Char) : Option Nat :=
  let n := c.toNat
  let v := if 48 ≤ n ∧ n ≤ 57 then n - 48
    else if 65 ≤ n ∧ n ≤ 70 then n - 55
    else if 97 ≤ n ∧ n ≤ 102 then n - 87
    else base
  if v < base then some v else none

/-- A number from its digits, on top of `acc`. -/
def numberFrom (base : Nat) : (acc : Nat) → List Char → Option Nat
  | acc, [] => some acc
  | acc, c :: cs =>
    match digitOf base c with
    | none => none
    | some d => numberFrom base (acc * base + d) cs

/-- A token as an operand: a decimal number, a 0x-hex number, or a name. -/
def operandOfToken : List Char → Option AsmOperand
  | [] => none
  | '0' :: 'x' :: c :: cs => (numberFrom 16 0 (c :: cs)).map .num
  | c :: cs =>
    if 48 ≤ c.toNat ∧ c.toNat ≤ 57 then (numberFrom 10 0 (c :: cs)).map .num
    else some (.name (String.ofList (c :: cs)))

/-- The text split at every occurrence of a character. -/
def splitAt (sep : Char) : List Char → List (List Char)
  | [] => [[]]
  | c :: cs =>
    match splitAt sep cs with
    | [] => [[c]]
    | t :: ts => if c = sep then [] :: t :: ts else (c :: t) :: ts

/-- The text without its spaces. -/
def dropSpaces (cs : List Char) : List Char := cs.filter fun c => decide (c ≠ ' ')

/-- The first word of a line, and the rest. -/
def firstWord : List Char → List Char × List Char
  | [] => ([], [])
  | c :: cs => if c = ' ' then ([], cs) else (c :: (firstWord cs).1, (firstWord cs).2)

/-- A line as a mnemonic and its operands. -/
def parseLine (line : String) : Option (String × List AsmOperand) :=
  let (m, rest) := firstWord line.toList
  if dropSpaces rest = [] then some (String.ofList m, [])
  else ((splitAt ',' rest).mapM fun t => operandOfToken (dropSpaces t)).map fun os => (String.ofList m, os)

/-- A number as a field of `w` bits. -/
def fieldOf (w n : Nat) : Option (BitVec w) := if n < 2 ^ w then some (BitVec.ofNat w n) else none

/-- A table select by name (R126). -/
def tableOf (s : String) : Option Table :=
  if s = "C" then some .c else if s = "PT" then some .pt else none

/-- A tree side by name (R126). -/
def sideOf (s : String) : Option Side :=
  if s = "L" then some .left else if s = "R" then some .right else none

/-- A DYN_READ field by name (R126). -/
def dynFieldNamed (s : String) : Option DynField :=
  [DynField.freq, .child, .parent, .sNode, .totalP, .mostP, .nextCount, .nInfo].find? fun f =>
    decide (dynFieldName f = s)

/-- A command with no operand, by its mnemonic. -/
def assemblePlain (m : String) : Option Instr :=
  [Instr.nop, .softReset, .entryStart, .run, .step, .finish, .decC, .decP, .blkStart, .brInit, .nsReadC, .st0ReadC,
    .st0ReadP, .dynDecodeC, .dynDecodeP, .winFlush].find? fun i => decide (mnemonicOf i = m)

/-- A command with one number. -/
def assembleNumber (m : String) (n : Nat) : Option Instr :=
  if m = "BR_PEEK" then (fieldOf 5 n).map .brPeek
  else if m = "BR_SKIP" then (fieldOf 5 n).map .brSkip
  else if m = "BR_GET" then (fieldOf 5 n).map .brGet
  else if m = "CRC16_BYTE" then (fieldOf 8 n).map .crc16Byte
  else if m = "CRC32_BYTE" then (fieldOf 8 n).map .crc32Byte
  else if m = "SUM_BYTE" then (fieldOf 8 n).map .sumByte
  else if m = "CK_CLEAR" then (fieldOf 3 n).map .ckClear
  else if m = "DYN_START_C" then (fieldOf 5 n).map .dynStartC
  else if m = "DYN_START_P" then (fieldOf 5 n).map .dynStartP
  else if m = "DYN_UPDATE_C" then (fieldOf 9 n).map .dynUpdateC
  else if m = "DYN_UPDATE_P" then (fieldOf 7 n).map .dynUpdateP
  else if m = "DYN_RECONST" then (fieldOf 5 n).map .dynReconst
  else if m = "DYN_NEW_NODE" then (fieldOf 7 n).map .dynNewNode
  else if m = "WIN_INIT" then (fieldOf 5 n).map .winInit
  else if m = "WIN_LITERAL" then (fieldOf 8 n).map .winLiteral
  else if m = "WIN_MATCH" then (fieldOf 9 n).map .winMatch
  else if m = "WIN_READ" then (fieldOf 16 n).map .winRead
  else none

/-- A command with a table and one number. -/
def assembleTableNumber (m : String) (t : Table) (n : Nat) : Option Instr :=
  if m = "LEN_READ" then (fieldOf 9 n).map fun i => .lenRead t i 0#5
  else if m = "HT_BUILD" then (fieldOf 9 n).map fun c => .htBuild t c 0#9
  else if m = "TBL_READ" then (fieldOf 12 n).map (.tblRead t)
  else none

/-- A command with a table and two numbers. -/
def assembleTablePair (m : String) (t : Table) (a b : Nat) : Option Instr :=
  if m = "LEN_WRITE" then (fieldOf 9 a).bind fun i => (fieldOf 5 b).map (.lenWrite t i)
  else if m = "HT_FILL" then (fieldOf 9 a).bind fun c => (fieldOf 9 b).map (.htFill t c)
  else none

/-- NS_READ_PT's operands (R126). -/
def assembleNsReadPt (c w s : Nat) : Option Instr :=
  (fieldOf 9 c).bind fun c => (fieldOf 4 w).bind fun w => (fieldOf 4 s).map (.nsReadPt c w)

/-- A mnemonic and its operands as a command (R126). The table t, the side d and the field f are written by their names
only, although R126 can be read as allowing their numbers too; a value that its field cannot hold assembles to nothing.
DESIGN CHOICE, log 25. -/
def assemble (m : String) (operands : List AsmOperand) : Option Instr :=
  match operands with
  | [] => assemblePlain m
  | [.num n] => assembleNumber m n
  | [.name t] =>
    if m = "LEN_CLEAR" then (tableOf t).map .lenClear
    else if m = "HT_DECODE" then (tableOf t).map .htDecode
    else none
  | [.name x, .num n] =>
    if m = "DYN_READ" then (dynFieldNamed x).bind fun f => (fieldOf 10 n).map (.dynRead f)
    else (tableOf x).bind fun t => assembleTableNumber m t n
  | [.name t, .num a, .num b] => (tableOf t).bind fun t => assembleTablePair m t a b
  | [.name t, .name d, .num i] =>
    if m = "TREE_READ" then
      (tableOf t).bind fun t => (sideOf d).bind fun d => (fieldOf 10 i).map (.treeRead t d)
    else none
  | [.num a, .num b] =>
    if m = "HT_READY_MADE" then
      if a = 0 then (fieldOf 8 b).map (.htReadyMade .lh1)
      else if a = 1 then (fieldOf 8 b).map (.htReadyMade .lh3)
      else none
    else none
  | [.num c, .num w, .num s] => if m = "NS_READ_PT" then assembleNsReadPt c w s else none
  | [.num c, .num w, .name s] =>
    if m = "NS_READ_PT" ∧ s = "NONE" then assembleNsReadPt c w 15 else none
  | _ => none

/-- The command of an assembly line (R126). -/
def assembleLine (line : String) : Option Instr := (parseLine line).bind fun p => assemble p.1 p.2

/-! ### The host's operations (R127) and the pseudo-commands (R128) -/

/-- The byte offset of a register, by name (R33). -/
def registerOffset (name : String) : Option (BitVec 7) :=
  ([("CMD", 0x00#7), ("STATUS", 0x04#7), ("CTRL", 0x08#7), ("PACKED_LO", 0x0C#7), ("PACKED_HI", 0x10#7),
    ("ORIG_LO", 0x14#7), ("ORIG_HI", 0x18#7), ("ARG", 0x1C#7), ("RESULT", 0x20#7), ("CRC16", 0x24#7),
    ("CRC32", 0x28#7), ("SUM8", 0x2C#7), ("DCOUNT_LO", 0x30#7), ("DCOUNT_HI", 0x34#7), ("OCOUNT_LO", 0x38#7),
    ("OCOUNT_HI", 0x3C#7)] ++
   [("ICOUNT_LO", 0x40#7), ("ICOUNT_HI", 0x44#7), ("BITPOS_LO", 0x48#7), ("BITPOS_HI", 0x4C#7),
    ("BLOCKSIZE", 0x50#7), ("WINLOC", 0x54#7), ("ID", 0x58#7), ("DICBIT", 0x5C#7)]).lookup name

/-- `WR reg, value` (R127). -/
def writeEvents (offset : BitVec 7) (v : Word) : List Event := [.write .word offset v]

/-- `RD reg` (R127). -/
def readEvents (offset : BitVec 7) : List Event := [.read .word offset]

/-- `POLL` (R127), when the engine ends its command after `early` reads of STATUS that still see BUSY = 1. -/
def pollEvents (early : Nat) : List Event := List.replicate early (.read .word 0x04#7) ++ [.engine, .read .word 0x04#7]

/-- `CMD! word`, a CMD write with no poll (R127). -/
def rawCommandEvents (w : Word) : List Event := writeEvents 0x00#7 w

/-- A command line: a CMD write followed by POLL (R127). -/
def commandEvents (i : Instr) : List Event := rawCommandEvents (encode i) ++ pollEvents 0

/-- `MATCH len, dist` (R128). -/
def matchEvents (len : BitVec 9) (dist : Word) : List Event := writeEvents 0x1C#7 dist ++ commandEvents (.winMatch len)

/-- `CK_RESET` (R128). -/
def ckResetEvents : List Event := commandEvents (.ckClear 7#3)

/-- `SETUP method, packed, orig` (R128), where CTRL holds `ctrl`. -/
def setupEvents (ctrl : Word) (method : BitVec 4) (packed orig : Count) : List Event :=
  writeEvents 0x08#7 ((ctrl &&& ~~~ 0xF#32) ||| method.zeroExtend 32)
    ++ writeEvents 0x0C#7 (packed.extractLsb' 0 32) ++ writeEvents 0x10#7 (packed.extractLsb' 32 32)
    ++ writeEvents 0x14#7 (orig.extractLsb' 0 32) ++ writeEvents 0x18#7 (orig.extractLsb' 32 32)

/-- `DECODE_ENTRY method, packed, orig` (R128). -/
def decodeEntryEvents (ctrl : Word) (method : BitVec 4) (packed orig : Count) : List Event :=
  setupEvents ctrl method packed orig ++ commandEvents .entryStart ++ commandEvents .run

/-- `BR_SKIP32 n`, 16 < n ≤ 32 (R128). -/
def brSkip32 (n : Nat) : List Instr := [.brSkip 16#5, .brSkip (BitVec.ofNat 5 (n - 16))]

end Sys2Proof.Machine
end

