-- ==== Sys2Proof/WellFormed.lean ====
section
/-! DEFINITION. Well-formed commands: those whose every field is inside the legal range R125 gives the command. The
check itself is `operandsLegal` of Decode.lean, which the decoder's verdict and every meaning use too, so that the
ranges are said once. -/

namespace Sys2Proof

/-- Every field of the command is in its legal range (R125). A command that is not well-formed fails with
BAD_OPERAND wherever it is issued (R122). -/
abbrev Instr.WellFormed (i : Instr) : Prop := operandsLegal i = true

end Sys2Proof
end

