-- ==== Sys2Proof/Safety.lean ====
section
/-! DEFINITION. The terms in which claims about the block are made: how a command that ended left the state, what a
reader still has to request, what a run of emitted bytes does, and the invariants of the block. No meaning uses
anything of this file. -/

namespace Sys2Proof.Machine

/-! ### The end of a command -/

/-- The state when a command that made these port events (newest first) has ended: BUSY is 0 and the events have joined
the trace (R330, R410). -/
def State.ended (s : State) (events : List PortEvent) : State :=
  { s with cmd := none, trace := events ++ s.trace, inFlight := [] }

/-- The state a decode failure or a refused command leaves when nothing but R402's lines happens to it. -/
def State.failedWith (s : State) (code : ErrCode) : State :=
  { s.clearValid with
    errcode := if s.err then s.errcode else some code
    err := true
    estate := .failed }

/-- What a command that fails before it has changed a register, a counter or a port leaves (R402, R403): the code, ERR
and FAILED, no valid flag, BUSY 0; every register but RESULT and BITPOS as it was, in the register map and inside the
units; no port event; the agents' coming moves and the words read as they were. -/
structure State.RefusedAs (s t : State) (code : ErrCode) : Prop where
  notBusy : t.cmd = none
  errSet : t.err = true
  firstCode : t.errcode = if s.err then s.errcode else some code
  failed : t.estate = .failed
  noneValid : t.noneValid = true
  flags : t.done = s.done ∧ t.overrun = s.overrun ∧ t.dropped = s.dropped
  hostRegs : t.ctrl = s.ctrl ∧ t.packedLo = s.packedLo ∧ t.packedHi = s.packedHi ∧ t.origLo = s.origLo ∧
    t.origHi = s.origHi ∧ t.arg = s.arg
  checksums : t.crc16 = s.crc16 ∧ t.crc32 = s.crc32 ∧ t.sum8 = s.sum8
  counters : t.decodeCount = s.decodeCount ∧ t.outCount = s.outCount ∧ t.reader.inCount = s.reader.inCount ∧
    t.blockSize = s.blockSize ∧ t.window.loc = s.window.loc
  entry : t.dicbit = s.dicbit ∧ t.eMethod = s.eMethod ∧ t.eFill = s.eFill ∧ t.np = s.np ∧ t.pbit = s.pbit
  reader : t.reader.packed = s.reader.packed ∧ t.reader.endAt = s.reader.endAt ∧ t.reader.bytes = s.reader.bytes
  tableRegs : t.tabC.nchar = s.tabC.nchar ∧ t.tabC.avail = s.tabC.avail ∧ t.tabPt.nchar = s.tabPt.nchar ∧
    t.tabPt.avail = s.tabPt.avail
  arenaRegs : t.arena.totalP = s.arena.totalP ∧ t.arena.mostP = s.arena.mostP ∧ t.arena.nn = s.arena.nn ∧
    t.arena.nextCount = s.arena.nextCount ∧ t.arena.nMax = s.arena.nMax ∧ t.arena.n1 = s.arena.n1
  windowMask : t.window.mask = s.window.mask
  ports : t.trace = s.trace ∧ t.inFlight = [] ∧ t.source = s.source ∧ t.sinkRoom = s.sinkRoom
  agents : t.schedule = s.schedule ∧ t.reads = s.reads

/-- The command ends in this state, and has not failed. -/
def State.completes (s : State) (i : Instr) (t : State) : Prop := exec i s = .next t ∧ t.cmd = none ∧ t.estate ≠ .failed

/-! ### The bit reader -/

/-- The reader will make no request at whatever position: it has every byte of the packed size, or `End` was the answer
to its last request (R156). -/
def Reader.drained (r : Reader) : Prop := r.packed.toNat ≤ r.inCount.toNat ∨ r.endAt = some r.inCount.toNat

/-- The reader `n` bits further on. -/
def Reader.advance (r : Reader) (n : Nat) : Reader := { r with pos := r.pos + BitVec.ofNat 64 n }

/-- The reader with more bytes received. -/
def Reader.receive (r : Reader) (bs : List Byte) : Reader :=
  { r with bytes := r.bytes ++ bs, inCount := r.inCount + BitVec.ofNat 64 bs.length }

/-- The requests for the indices `first`, `first + 1`, …, `n` of them, newest first. -/
def requestEvents (first n : Nat) : List PortEvent := ((List.range' first n).map PortEvent.request).reverse

/-- The bytes as answers of the source. -/
def byteAnswers (bs : List Byte) : List Answer := bs.map Answer.byte

/-- The state with its reader `n` bits further on. -/
def State.skipped (s : State) (n : Nat) : State := { s with reader := s.reader.advance n }

/-- The bits from `k` on begin with these. -/
def Reader.startsWith (r : Reader) (k : Nat) (bits : List Bool) : Prop := ∀ j, j < bits.length → r.bit (k + j) = bits.getD j false

/-- A value as `n` bits, the most significant first. -/
def bitsOf : (n v : Nat) → List Bool
  | 0, _ => []
  | n + 1, v => v.testBit n :: bitsOf n v

/-- The PT length code of R221: 3 bits below 7, else 111, a unary extension and a 0. -/
def ptLengthBits (l : Nat) : List Bool :=
  if l < 7 then bitsOf 3 l else [true, true, true] ++ List.replicate (l - 7) true ++ [false]

/-- One length of R229: 0 as a 0 bit, else a 1 bit and four bits of the length less one. -/
def treeLengthBits (l : Nat) : List Bool := if l = 0 then [false] else true :: bitsOf 4 (l - 1)

/-! ### Length arrays and the pretree -/

/-- A table whose length array holds these lengths and then zeros. -/
def HuffTable.withLens {w : Nat} (t : Table) (ls : List Nat) (h : HuffTable w) : HuffTable w :=
  { h with len := cellsOf 0#5 (lenCount t) (fun i => BitVec.ofNat 5 (ls.getD i 0)), lenValid := true }

/-- How many extra bits follow a pretree symbol (R223). -/
def runBits : Nat → Nat
  | 1 => 4
  | 2 => 9
  | _ => 0

/-- The C lengths that a pretree symbol with this extra value stands for (R223). -/
def pretreeLens : Nat × Nat → List Nat
  | (0, _) => [0]
  | (1, v) => List.replicate (v + 3) 0
  | (2, v) => List.replicate (v + 20) 0
  | (c, _) => [c - 2]

/-- The stream from bit `k` on holds these pretree symbols, each with its extra value. -/
def HuffTable.readsItems (h : HuffTable 8) (r : Reader) : (k : Nat) → List (Nat × Nat) → Prop
  | _, [] => True
  | k, (c, v) :: items =>
    h.lookup .pt (r.bitsAt k 16) = .ok c ∧ v = r.bitsAt (k + h.getLen c) (runBits c) ∧
      h.readsItems r (k + h.getLen c + runBits c) items

/-- How many bits these pretree symbols and their extra values take. -/
def HuffTable.itemBits (h : HuffTable 8) (items : List (Nat × Nat)) : Nat :=
  (items.map fun i => h.getLen i.1 + runBits i.1).sum

/-! ### Emission -/

/-- OUT_COUNT and the enabled checksums after these bytes, in this order, have been emitted (R179, R307). -/
def State.emitted (s : State) (bs : List Byte) : State :=
  { s with
    outCount := s.outCount + BitVec.ofNat 64 bs.length
    crc16 := if s.autoCrc16 then bs.foldl crc16Update s.crc16 else s.crc16
    crc32 := if s.autoCrc32 then bs.foldl crc32Update s.crc32 else s.crc32
    sum8 := if s.autoSum then bs.foldl sum8Update s.sum8 else s.sum8 }

/-- The emissions of these bytes, newest first. -/
def emitEvents (bs : List Byte) : List PortEvent := (bs.map PortEvent.emit).reverse

/-- The bytes DIC[0 .. n − 1]. -/
def Window.first (x : Window) (n : Nat) : List Byte := (List.range n).map x.read

/-! ### The canonical code (R191) -/

/-- The code of the first symbol of a length, by the loop of R191. -/
def firstCode (ls : List Nat) : Nat → Nat
  | 0 => 0
  | 1 => 0
  | l + 2 => 2 * (firstCode ls (l + 1) + lenTally ls (l + 1))

/-- CODE[ch] (R191): the codes of one length follow symbol order. -/
def canonicalCode (ls : List Nat) (ch : Nat) : Nat :=
  firstCode ls (ls.getD ch 0) + lenTally (ls.take ch) (ls.getD ch 0)

/-- R193's measure of the first `c` lengths. -/
def kraftSum (len : Nat → Nat) (c : Nat) : Nat :=
  ((List.range c).map fun ch => if 0 < len ch then 2 ^ (16 - len ch) else 0).sum

/-- The lengths that R240 lists for its two ready-made tables. -/
def readyLength : ReadyTable → Nat → Nat
  | .lh1, i => if i = 0 then 3 else if i ≤ 3 then 4 else if i ≤ 11 then 5 else if i ≤ 23 then 6 else if i ≤ 47 then 7 else 8
  | .lh3, i => if i = 0 then 2 else if i ≤ 2 then 4 else if i ≤ 5 then 5 else if i ≤ 12 then 6 else if i ≤ 30 then 7
      else if i ≤ 77 then 8 else 9

/-- The alphabet size of a ready-made table (R240). -/
def readyAlphabet : ReadyTable → Nat
  | .lh1 => 64
  | .lh3 => 128

/-! ### The register port -/

/-- The bits that a host write stores at a byte offset (R33, R83); none where the write is ignored. -/
def writableBits (offset : Nat) : Option Word :=
  match offset with
  | 0x08 => some 0x0000FFFF#32
  | 0x0C | 0x10 | 0x14 | 0x18 | 0x1C | 0x28 => some 0xFFFFFFFF#32
  | 0x24 => some 0x0000FFFF#32
  | 0x2C => some 0x000000FF#32
  | _ => none

/-- Every item to which R450 gives a value holds it; the registers as they read. -/
structure State.AtReset (t : State) : Prop where
  status : t.readReg 0x04 = 0x00000200#32
  ctrl : t.readReg 0x08 = 0x00002010#32
  zero : ∀ o, o ∈ [0x0C, 0x10, 0x14, 0x18, 0x1C, 0x20, 0x24, 0x28, 0x2C, 0x30, 0x34, 0x38, 0x3C, 0x40, 0x44, 0x48, 0x4C,
    0x50, 0x54, 0x5C] → t.readReg o = 0#32
  ident : t.readReg 0x58 = 0x4C480001#32
  packed : t.reader.packed = 0#64
  noEnd : t.reader.endAt = none
  noneValid : t.noneValid = true
  irq : t.irq = false

/-! ### What a command requires -/

/-- NOP, SOFT_RESET and ENTRY_START: the commands that every entry state allows (R333). -/
def always : Instr → Bool
  | .nop | .softReset | .entryStart => true
  | _ => false

/-- The commands of an entry, which only ACTIVE allows (R333). -/
def entryOnly : Instr → Bool
  | .decC | .decP | .blkStart | .step | .run | .finish => true
  | _ => false

/-- The valid flags that the rules of the component commands require (R46, R453). -/
def requiredFlags (i : Instr) (s : State) : Bool :=
  match i with
  | .brPeek _ | .brSkip _ | .brGet _ | .nsReadPt _ _ _ | .st0ReadC | .st0ReadP => s.reader.valid
  | .lenWrite t _ _ | .lenRead t _ _ | .htBuild t _ _ => (s.tab t).lenValid
  | .htDecode t => s.reader.valid && (s.tab t).tabValid
  | .tblRead t _ | .treeRead t _ _ => (s.tab t).tabValid
  | .nsReadC => s.reader.valid && s.tabPt.tabValid
  | .dynDecodeC => s.reader.valid && s.arena.validC
  | .dynDecodeP => s.reader.valid && s.arena.validP
  | .dynUpdateC _ => s.arena.validC
  | .dynUpdateP _ | .dynNewNode _ => s.arena.validP
  | .dynReconst k => if k = 0#5 then s.arena.validC else s.arena.validP
  | .dynRead .freq i | .dynRead .child i | .dynRead .parent i => if i.toNat < 628 then s.arena.validC else s.arena.validP
  | .dynRead .sNode i => if i.toNat < 314 then s.arena.validC else s.arena.validP
  | .dynRead .totalP _ | .dynRead .mostP _ | .dynRead .nextCount _ => s.arena.validP
  | .dynRead .nInfo _ => s.arena.validC
  | .winLiteral _ | .winMatch _ | .winFlush | .winRead _ => s.window.valid
  | _ => true

/-! ### Invariants -/

/-- The four RAMs of a table are in canonical form. -/
def HuffTable.wf {w : Nat} (t : Table) (h : HuffTable w) : Bool :=
  cellsWf (lenCount t) 0#5 h.len && cellsWf (tableCount t) 0#w h.table && cellsWf (treeCount t) 0#w h.left
    && cellsWf (treeCount t) 0#w h.right

/-- The four RAMs of the arena are in canonical form. -/
def Arena.wf (a : Arena) : Bool :=
  cellsWf arenaNodes 0#16 a.freq && cellsWf arenaNodes 0#16 a.child && cellsWf arenaNodes 0#10 a.parent
    && cellsWf arenaSymbols 0#10 a.sNode

/-- Every RAM of the block is in canonical form. -/
def State.ramsWf (s : State) : Bool := s.tabC.wf .c && s.tabPt.wf .pt && s.arena.wf && Memory.wf s.window.dic

/-- What the status bits say of each other (R34, R45, R402): ERR is the FAILED state and has a code, no valid flag is
set in FAILED, and DONE and OVERRUN belong to an ended entry. -/
structure State.StatusInv (s : State) : Prop where
  errFailed : s.err = true ↔ s.estate = .failed
  errCoded : s.errcode.isSome = s.err
  failedInvalid : s.estate = .failed → s.noneValid = true
  finishedDone : s.estate = .finished → s.done = true
  doneEnded : s.done = true → s.estate = .finished ∨ s.estate = .failed
  overrunDone : s.overrun = true → s.done = true

/-- The open window (R44, R300): WIN_MASK = 2^dicbit − 1 and WIN_LOC ≤ WIN_MASK. -/
def State.WindowInv (s : State) : Prop :=
  s.window.valid = true →
    1 ≤ s.dicbit.toNat ∧ s.dicbit.toNat ≤ 16 ∧ s.window.mask.toNat + 1 = 2 ^ s.dicbit.toNat
      ∧ s.window.loc.toNat ≤ s.window.mask.toNat

/-- The bit reader (R84, R156): no byte at or beyond BR_PACKED was taken, an `End` came last, and an initialised reader
holds the 16 bits after BR_POS as far as the packed size and the source go. -/
structure Reader.Inv (r : Reader) : Prop where
  counted : r.bytes.length = r.inCount.toNat
  withinPacked : r.inCount.toNat ≤ r.packed.toNat
  endLast : ∀ e, r.endAt = some e → e = r.inCount.toNat ∧ e < r.packed.toNat
  lookAhead : r.valid = true → r.endAt = none → min r.packed.toNat ((r.pos.toNat + 16 + 7) / 8) ≤ r.inCount.toNat

/-- A table with TV set (R46, R195): its lengths are defined, its alphabet fits the RAM, and its tree has fewer nodes than
symbols. -/
def HuffTable.Inv {w : Nat} (t : Table) (h : HuffTable w) : Prop :=
  h.tabValid = true →
    h.lenValid = true ∧ 1 ≤ h.nchar.toNat ∧ h.nchar.toNat ≤ lenCount t ∧ h.nchar.toNat ≤ h.avail.toNat
      ∧ h.avail.toNat + 1 ≤ 2 * h.nchar.toNat

/-- The tables, and the position alphabet that ENTRY_START latches for them. -/
def State.TablesInv (s : State) : Prop := s.tabC.Inv .c ∧ s.tabPt.Inv .pt ∧ s.np.toNat ≤ 128

/-- The registers of the adaptive trees (R261, R275, R276). -/
structure Arena.Inv (a : Arena) : Prop where
  alphabet : a.validC = true → (a.nMax = 314#9 ∧ a.n1 = 512#10) ∨ (a.nMax = 286#9 ∧ a.n1 = 285#10)
  positions : a.validP = true → rootP ≤ a.mostP.toNat ∧ a.mostP.toNat ≤ 882 ∧ a.mostP.toNat % 2 = 0

/-- The literal/length tree of the arena (R285 (1) to (3), and (5)): links in both directions, each internal weight the
sum of its children's, weights that do not rise with the node index. -/
structure Arena.CTree (a : Arena) : Prop where
  ramsWf : a.wf = true
  size : 2 ≤ a.nMax.toNat ∧ a.nMax.toNat ≤ 314
  node : ∀ n, n + 2 ≤ 2 * a.nMax.toNat →
    (a.getChild n < 0 ∧ leafSymbol (a.getChild n) < a.nMax.toNat ∧ a.getSNode (leafSymbol (a.getChild n)) = n) ∨
    (∃ c : Nat, a.getChild n = (c : Int) ∧ 2 ≤ c ∧ c + 2 ≤ 2 * a.nMax.toNat ∧ a.getParent c = n ∧
      a.getParent (c - 1) = n ∧ a.getFreq n = a.getFreq c + a.getFreq (c - 1))
  leaf : ∀ x, x < a.nMax.toNat → a.getSNode x + 2 ≤ 2 * a.nMax.toNat ∧ a.getChild (a.getSNode x) = leafLink x
  parent : ∀ n, 1 ≤ n → n + 2 ≤ 2 * a.nMax.toNat → a.getParent n + 2 ≤ 2 * a.nMax.toNat ∧
    (a.getChild (a.getParent n) = (n : Int) ∨ a.getChild (a.getParent n) = (n : Int) + 1)
  order : ∀ n, n + 3 ≤ 2 * a.nMax.toNat → a.getFreq (n + 1) ≤ a.getFreq n
  positive : ∀ n, n + 2 ≤ 2 * a.nMax.toNat → 1 ≤ a.getFreq n
  root : a.getFreq rootC ≤ 0x8000

/-- The weight of a symbol's leaf. -/
def Arena.weight (a : Arena) (x : Nat) : Nat := a.getFreq (a.getSNode x)

/-- The position tree of the arena, grown (R285 (1) to (3), and (5)), as `CTree` has it for the other tree: the root holds
the sentinel, and TOTAL_P stands in for its weight (R269). -/
structure Arena.PTree (a : Arena) : Prop where
  ramsWf : a.wf = true
  size : 630 ≤ a.mostP.toNat ∧ a.mostP.toNat ≤ 882 ∧ a.mostP.toNat % 2 = 0
  node : ∀ n, rootP ≤ n → n ≤ a.mostP.toNat →
    (∃ x, x ≤ a.lastPosition ∧ a.getChild n = leafLink (nChar + x) ∧ a.getSNode (nChar + x) = n) ∨
    (∃ c : Nat, a.getChild n = (c : Int) ∧ 630 ≤ c ∧ c ≤ a.mostP.toNat ∧ a.getParent c = n ∧ a.getParent (c - 1) = n ∧
      (n ≠ rootP → a.getFreq n = a.getFreq c + a.getFreq (c - 1)))
  leaf : ∀ x, x ≤ a.lastPosition → rootP < a.getSNode (nChar + x) ∧ a.getSNode (nChar + x) ≤ a.mostP.toNat ∧
    a.getChild (a.getSNode (nChar + x)) = leafLink (nChar + x)
  parent : ∀ n, rootP < n → n ≤ a.mostP.toNat → rootP ≤ a.getParent n ∧ a.getParent n ≤ a.mostP.toNat ∧
    (a.getChild (a.getParent n) = (n : Int) ∨ a.getChild (a.getParent n) = (n : Int) + 1)
  order : ∀ n, rootP < n → n + 1 ≤ a.mostP.toNat → a.getFreq (n + 1) ≤ a.getFreq n
  positive : ∀ n, rootP < n → n ≤ a.mostP.toNat → 1 ≤ a.getFreq n
  root : a.getChild rootP = 630 ∧ a.getFreq rootP = 0xFFFF
  total : a.getFreq 629 + a.getFreq 630 ≤ a.totalP.toNat + 1 ∧ a.totalP.toNat ≤ 0x8000

/-- The two arenas agree on the C tree: its nodes, its leaves, and its registers and flag. -/
def Arena.sameC (a b : Arena) : Prop :=
  (∀ j, j < rootP → b.getFreq j = a.getFreq j ∧ b.getChild j = a.getChild j ∧ b.getParent j = a.getParent j) ∧
    (∀ x, x < nChar → b.getSNode x = a.getSNode x) ∧ b.nMax = a.nMax ∧ b.n1 = a.n1 ∧ b.validC = a.validC

/-- The two arenas agree on the P tree: its nodes, its leaves, and its registers and flag. -/
def Arena.sameP (a b : Arena) : Prop :=
  (∀ j, rootP ≤ j → b.getFreq j = a.getFreq j ∧ b.getChild j = a.getChild j ∧ b.getParent j = a.getParent j) ∧
    (∀ x, nChar ≤ x → b.getSNode x = a.getSNode x) ∧ b.totalP = a.totalP ∧ b.mostP = a.mostP ∧ b.nn = a.nn ∧
    b.nextCount = a.nextCount ∧ b.validP = a.validP

/-- From node `n` these bits lead to the leaf of this symbol (R260, R279). -/
def Arena.spells (a : Arena) : (n : Nat) → (bits : List Bool) → (sym : Nat) → Prop
  | n, [], sym => a.getChild n = leafLink sym
  | n, b :: bits, sym => ∃ c : Nat, a.getChild n = (c : Int) ∧ 1 ≤ c ∧ a.spells (if b then c - 1 else c) bits sym

/-- The two states agree on the registers that only the host writes: CTRL, PACKED, ORIG and ARG (R33, R37). -/
def State.sameHostRegs (s t : State) : Prop :=
  t.ctrl = s.ctrl ∧ t.packedLo = s.packedLo ∧ t.packedHi = s.packedHi ∧ t.origLo = s.origLo ∧ t.origHi = s.origHi
    ∧ t.arg = s.arg

/-- The two states agree on STATUS's bits but BUSY, on ESTATE and on the host's registers, and on what is not the
block's: the agents' coming moves and the words read. -/
def State.sameStatus (s t : State) : Prop :=
  t.done = s.done ∧ t.err = s.err ∧ t.errcode = s.errcode ∧ t.overrun = s.overrun ∧ t.dropped = s.dropped
    ∧ t.estate = s.estate ∧ State.sameHostRegs s t ∧ t.schedule = s.schedule ∧ t.reads = s.reads

/-- The two states agree on the entry's latches and the checksums and counters of its output (R39, R40, R51). -/
def State.sameEntry (s t : State) : Prop :=
  t.eMethod = s.eMethod ∧ t.eFill = s.eFill ∧ t.np = s.np ∧ t.pbit = s.pbit ∧ t.dicbit = s.dicbit
    ∧ t.crc16 = s.crc16 ∧ t.crc32 = s.crc32 ∧ t.sum8 = s.sum8 ∧ t.decodeCount = s.decodeCount
    ∧ t.outCount = s.outCount ∧ t.sinkRoom = s.sinkRoom

end Sys2Proof.Machine
end

