-- ==== Sys2Proof/Certificates/Slice0/Obligations.lean ====
section
/-! DEFINITION. The statements for the provers. Each docstring names the rule of spec/ that the statement formalises. A
next state is written as a record of what changes; every field that the record does not name is unchanged, memory
included. `State.ended` says that BUSY fell and which port events joined the trace. -/

open Sys2Proof Sys2Proof.Machine

/-! ### Encoding -/

/-- R110, R111, R114–R120, R122: a word decodes to a command exactly if it is that command's word, so no bit of an
encoding is dropped and none is ignored. -/
def Obligations.DecodeMatchesEncode : Prop :=
  ∀ (w : Word) (i : Instr), decode w = .ok i ↔ w = encode i

/-- The example words of R126, R201, R204, R222, R230, R262 and R336, written out from the formats of R111. -/
def Obligations.SpecWordsDecode : Prop :=
  decode 0x00000000#32 = .ok .nop ∧
  decode 0x13000010#32 = .ok (.brGet 16#5) ∧
  decode 0x1B000007#32 = .ok (.ckClear 7#3) ∧
  decode 0x21061001#32 = .ok (.lenWrite .c 97#9 1#5) ∧
  decode 0x241FE041#32 = .ok (.htFill .c 510#9 0x41#9) ∧
  decode 0x29013503#32 = .ok (.nsReadPt 19#9 5#4 3#4) ∧
  decode 0x38E00000#32 = .ok (.dynRead .nInfo 0#10) ∧
  decode 0x4000000D#32 = .ok (.winInit 13#5)

/-! ### Taking a command -/

/-- R121, R122, R125, R402: a latched word that is no command's word fails: with BAD_OPCODE where its opcode is one of the
reserved ones, and with BAD_OPERAND where its opcode is listed but a reserved-zero bit is 1 or a field is outside its
range. Only R402's lines change state; that RESULT, BITPOS and the RAMs survive, against R403, is the model's reading
(log 8). -/
def Obligations.NonCommandWordsFail : Prop :=
  (∀ (s : State) (w : Word), s.schedule = [] → s.cmd = some w →
    ((0x09 ≤ (opField w).toNat ∧ (opField w).toNat ≤ 0x0F) ∨ (0x14 ≤ (opField w).toNat ∧ (opField w).toNat ≤ 0x17) ∨
      (0x1C ≤ (opField w).toNat ∧ (opField w).toNat ≤ 0x1F) ∨ (0x2D ≤ (opField w).toNat ∧ (opField w).toNat ≤ 0x2F) ∨
      (0x39 ≤ (opField w).toNat ∧ (opField w).toNat ≤ 0x3F) ∨ 0x45 ≤ (opField w).toNat) →
    step s = .next ((s.failedWith .badOpcode).ended [])) ∧
  (∀ (s : State) (w : Word), s.schedule = [] → s.cmd = some w →
    (∃ i : Instr, opField w = opField (encode i)) →
    (∀ i : Instr, i.WellFormed → w ≠ encode i) →
    step s = .next ((s.failedWith .badOperand).ended []))

/-- R330: a host write to CMD while BUSY = 0 latches the word, and so BUSY = 1; the engine's move runs the latched word as the
command it decodes to: at an empty schedule, at the engine's turn in the schedule, and for a word that `withFetchWord`
latches. The schedule and `withFetchWord` are the model's choice (log 1, 2). -/
def Obligations.StepRunsDecodedCommand : Prop :=
  (∀ (s : State) (w : Word) (rest : List Event), s.cmd = none → s.schedule = .write .word 0x00#7 w :: rest →
    ∃ t, step s = .next t ∧ t = { s with schedule := rest, cmd := some w } ∧ t.busy = true) ∧
  (∀ (s : State) (w : Word) (i : Instr), s.cmd = some w → decode w = .ok i →
    (s.schedule = [] → step s = exec i s) ∧
    (∀ rest, s.schedule = .engine :: rest → step s = exec i { s with schedule := rest })) ∧
  (∀ (s : State) (i : Instr), step (s.withFetchWord 32 (encode i).toNat) = exec i { s with cmd := some (encode i) })

/-- R332: a CMD write while BUSY = 1 is ignored and sets DROPPED, and so is every other register write. -/
def Obligations.BusyWritesDropped : Prop :=
  ∀ (s : State) (offset : BitVec 7) (v : Word) (rest : List Event), s.busy = true → offset.toNat % 4 = 0 →
    s.schedule = .write .word offset v :: rest → step s = .next { s with schedule := rest, dropped := true }

/-- R415: while no command runs, the block changes no state. -/
def Obligations.IdleBlockChangesNothing : Prop :=
  ∀ s : State, s.busy = false →
    (s.schedule = [] → step s = .next s) ∧
    (∀ rest, s.schedule = .engine :: rest → step s = .next { s with schedule := rest })

/-- R33, R35, R83, R461: a register write while BUSY = 0 to an offset other than CMD stores the register's named bits and
nothing else, so a CTRL write leaves the latched METHOD and FILL; a write to a read-only or reserved offset is ignored.
That such a write leaves STATUS.DROPPED as it was, against the DROPPED row of the STATUS table, is the model's reading
(log 13). -/
def Obligations.RegisterWritesStoreNamedBits : Prop :=
  ∀ (s : State) (offset : BitVec 7) (v : Word) (rest : List Event), s.busy = false → offset.toNat % 4 = 0 →
    offset ≠ 0#7 → s.schedule = .write .word offset v :: rest →
    ∃ t, step s = .next t ∧
      (∀ o, t.readReg o = match writableBits offset.toNat with
        | some m => if o = offset.toNat then v &&& m else s.readReg o
        | none => s.readReg o) ∧
      t = { s with
        schedule := rest
        ctrl := t.ctrl, packedLo := t.packedLo, packedHi := t.packedHi, origLo := t.origLo, origHi := t.origHi
        arg := t.arg, crc16 := t.crc16, crc32 := t.crc32, sum8 := t.sum8 } ∧
      t.dropped = s.dropped

/-- R82, R83, R90, R463: a register read while BUSY = 0 returns the register and changes nothing; while BUSY = 1 it returns a
value of which only ID's constant and STATUS's BUSY = 1 are said; an access that is not a 32-bit one at a multiple of 4
is refused. R33, R36, R38–R41, R88: which register each offset reads, a 64-bit one as its LO and HI halves. -/
def Obligations.RegisterAccesses : Prop :=
  (∀ s : State,
    s.readReg 0x00 = 0#32 ∧ s.readReg 0x04 = s.status ∧ s.readReg 0x08 = s.ctrl.zeroExtend 32 ∧
    s.readReg 0x10 ++ s.readReg 0x0C = s.packedSize ∧ s.readReg 0x18 ++ s.readReg 0x14 = s.origSize ∧
    s.readReg 0x1C = s.arg ∧ s.readReg 0x20 = s.result ∧ s.readReg 0x24 = s.crc16.zeroExtend 32 ∧
    s.readReg 0x28 = s.crc32 ∧ s.readReg 0x2C = s.sum8.zeroExtend 32 ∧
    s.readReg 0x34 ++ s.readReg 0x30 = s.decodeCount ∧ s.readReg 0x3C ++ s.readReg 0x38 = s.outCount ∧
    s.readReg 0x44 ++ s.readReg 0x40 = s.reader.inCount ∧ s.readReg 0x4C ++ s.readReg 0x48 = s.reader.pos ∧
    s.readReg 0x50 = s.blockSize.zeroExtend 32 ∧ s.readReg 0x54 = s.window.loc.zeroExtend 32 ∧
    s.readReg 0x58 = 0x4C480001#32 ∧ s.readReg 0x5C = s.dicbit.zeroExtend 32 ∧
    ∀ o, 0x60 ≤ o → s.readReg o = 0#32) ∧
  (∀ (s : State) (offset : BitVec 7) (rest : List Event), offset.toNat % 4 = 0 → s.schedule = .read .word offset :: rest →
    (s.busy = false →
      step s = .next { s with schedule := rest, reads := (offset, s.readReg offset.toNat) :: s.reads }) ∧
    (s.busy = true →
      ∃ v, step s = .next { s with schedule := rest, reads := (offset, v) :: s.reads } ∧
        (offset = 0x04#7 → v.getLsbD 0 = true) ∧ (offset = 0x58#7 → v = 0x4C480001#32))) ∧
  (∀ (s : State) (size : AccessSize) (offset : BitVec 7) (v : Word) (rest : List Event),
    (size ≠ .word ∨ offset.toNat % 4 ≠ 0) →
    (s.schedule = .write size offset v :: rest → step s = .refused .badBusAccess) ∧
    (s.schedule = .read size offset :: rest → step s = .refused .badBusAccess))

/-- R34, R45, R400, R405: the fields of the STATUS word, with the numbers of the codes and of the entry states, and the interrupt output from the CTRL and STATUS registers as they read. -/
def Obligations.StatusWordFields : Prop :=
  (∀ s : State,
    s.status.getLsbD 0 = s.cmd.isSome ∧ s.status.getLsbD 1 = s.done ∧ s.status.getLsbD 2 = s.err ∧
    s.status.getLsbD 3 = false ∧ s.status.extractLsb' 4 4 = (match s.errcode with
      | none => 0#4
      | some .badOpcode => 1#4
      | some .badOperand => 2#4
      | some .badState => 3#4
      | some .lenRange => 4#4
      | some .codeSpace => 5#4
      | some .indexOverflow => 6#4
      | some .symbolRange => 7#4
      | some .sourceFail => 8#4) ∧ s.status.getLsbD 8 = s.overrun ∧
    s.status.getLsbD 9 = decide (s.blockSize = 0#16) ∧ s.status.getLsbD 10 = s.dropped ∧
    s.status.extractLsb' 11 2 = (match s.estate with
      | .idle => 0#2
      | .active => 1#2
      | .finished => 2#2
      | .failed => 3#2) ∧ s.status.extractLsb' 13 19 = 0#19) ∧
  (∀ s : State,
    s.irq = ((s.readReg 0x08).getLsbD 7 && ((s.readReg 0x04).getLsbD 1 || (s.readReg 0x04).getLsbD 2)))

/-- R450: every item that the rule gives a value holds it in the state after reset, and after the reset input in any state,
busy or not. -/
def Obligations.ResetValues : Prop :=
  State.reset.AtReset ∧
  (∀ (s : State) (rest : List Event), s.schedule = .reset :: rest →
    ∃ t, step s = .next t ∧ t.AtReset ∧ t.schedule = rest)

/-! ### Failures -/

/-- R333, R46, R453, R335, R341–R343: in FAILED every command but NOP, SOFT_RESET and ENTRY_START fails with BAD_STATE; outside
ACTIVE so do the commands of an entry; a component command whose required valid flag is 0 fails so in every entry
state; and so does a command of an ACTIVE entry where the procedure that it enters first requires a flag that is 0. A
STEP with the window closed fails so once it has decoded its token: that its check comes there is the model's reading
(log 15). -/
def Obligations.RequirementsFail : Prop :=
  (∀ (s : State) (i : Instr), i.WellFormed →
    (s.estate = .failed ∧ always i = false) ∨ (s.estate ≠ .active ∧ entryOnly i = true) →
    ∃ t, exec i s = .next t ∧ s.RefusedAs t .badState) ∧
  (∀ (s : State) (i : Instr), i.WellFormed → requiredFlags i s = false →
    ∃ t, exec i s = .next t ∧ s.RefusedAs t .badState) ∧
  (∀ s : State, s.estate = .active → 1 ≤ s.eMethod.toNat → s.eMethod.toNat ≤ 7 →
    (∀ i, i = .decC ∨ i = .step ∨ i = .run ∧ s.decodeCount.toNat < s.origSize.toNat →
      s.reader.valid = false ∨ s.eMethod.toNat ≤ 2 ∧ s.arena.validC = false ∨
        3 ≤ s.eMethod.toNat ∧ s.blockSize ≠ 0#16 ∧ s.tabC.tabValid = false →
      ∃ t, exec i s = .next t ∧ s.RefusedAs t .badState) ∧
    (s.reader.valid = false ∨ s.eMethod.toNat = 2 ∧ s.arena.validP = false ∨
        s.eMethod.toNat ≠ 2 ∧ s.tabPt.tabValid = false →
      ∃ t, exec .decP s = .next t ∧ s.RefusedAs t .badState) ∧
    (s.reader.valid = false → ∃ t, exec .blkStart s = .next t ∧ s.RefusedAs t .badState) ∧
    (∀ i, i = .finish ∨ i = .run ∧ s.origSize.toNat ≤ s.decodeCount.toNat → s.window.valid = false →
      ∃ t, exec i s = .next t ∧ s.RefusedAs t .badState) ∧
    (∀ t, s.cmd ≠ none → s.window.valid = false → s.completes .decC t →
      (t.result.toNat ≤ 255 → ∃ u, exec .step s = .next u ∧ t.RefusedAs u .badState) ∧
      (∀ p, 256 ≤ t.result.toNat → State.completes { t with cmd := s.cmd } .decP p →
        ∃ u, exec .step s = .next u ∧ p.RefusedAs u .badState))) ∧
  (∀ s : State, s.estate = .active → s.eMethod = 0#4 ∨ s.eMethod = 8#4 → s.decodeCount.toNat < s.origSize.toNat →
    s.reader.valid = false → ∃ t, exec .run s = .next t ∧ s.RefusedAs t .badState)

/-- R402, R406, R407: a command that ends in FAILED leaves ERR set, a code, and no valid flag; if ERR was set already its
code stays, unless the command is ENTRY_START, which clears it first. -/
def Obligations.FirstFailureKept : Prop :=
  ∀ (s t : State) (i : Instr), i ≠ .nop → s.cmd ≠ none → exec i s = .next t → t.cmd = none → t.estate = .failed →
    t.err = true ∧ t.noneValid = true ∧
    (s.err = true → i ≠ .entryStart → t.errcode = s.errcode) ∧
    (s.err = false ∨ i = .entryStart → t.errcode ≠ none)

/-- R404 (6): the checks that the commands' own pseudocode makes on their operands (R204, R208, R270, R271, R274, R277,
R283, R304, R309). -/
def Obligations.ExecutionChecksFail : Prop :=
  ∀ s : State, s.estate ≠ .failed →
    (∀ t c x, Instr.WellFormed (.htFill t c x) → c.toNat ≤ x.toNat →
      ∃ u, exec (.htFill t c x) s = .next u ∧ s.RefusedAs u .symbolRange) ∧
    (∀ t d i, Instr.WellFormed (.treeRead t d i) → (s.tab t).tabValid = true →
      (i.toNat < (s.tab t).nchar.toNat ∨ (s.tab t).avail.toNat ≤ i.toNat) →
      ∃ u, exec (.treeRead t d i) s = .next u ∧ s.RefusedAs u .badOperand) ∧
    (∀ x, Instr.WellFormed (.dynUpdateC x) → s.arena.validC = true → s.arena.nMax.toNat ≤ x.toNat →
      ∃ u, exec (.dynUpdateC x) s = .next u ∧ s.RefusedAs u .symbolRange) ∧
    (∀ x : BitVec 7, s.arena.validP = true → (s.arena.mostP.toNat - 628) / 2 < x.toNat →
      ∃ u, exec (.dynUpdateP x) s = .next u ∧ s.RefusedAs u .symbolRange) ∧
    (s.arena.validP = true → s.arena.mostP = 628#10 →
      ∃ u, exec (.dynReconst 1#5) s = .next u ∧ s.RefusedAs u .badState) ∧
    (∀ x : BitVec 7, s.arena.validP = true → x.toNat ≠ (s.arena.mostP.toNat - 628) / 2 + 1 →
      ∃ u, exec (.dynNewNode x) s = .next u ∧ s.RefusedAs u .symbolRange) ∧
    (∀ f i, f = .freq ∨ f = .child ∨ f = .parent → i.toNat < 884 →
      (if i.toNat < 628 then s.arena.validC else s.arena.validP) = true →
      (¬ (i.toNat + 2 ≤ 2 * s.arena.nMax.toNat ∨ 628 ≤ i.toNat ∧ i.toNat ≤ s.arena.mostP.toNat) ∨
        f = .parent ∧ (i = 0#10 ∨ i = 628#10)) →
      ∃ u, exec (.dynRead f i) s = .next u ∧ s.RefusedAs u .badOperand) ∧
    (∀ i : BitVec 10, i.toNat < 442 → (if i.toNat < 314 then s.arena.validC else s.arena.validP) = true →
      ¬ (i.toNat < s.arena.nMax.toNat ∨
        314 ≤ i.toNat ∧ i.toNat ≤ 314 + (s.arena.mostP.toNat - 628) / 2) →
      ∃ u, exec (.dynRead .sNode i) s = .next u ∧ s.RefusedAs u .badOperand) ∧
    (∀ x : BitVec 9, s.window.valid = true → (s.arg.toNat % 2 ^ 17 = 0 ∨ 65536 < s.arg.toNat % 2 ^ 17) →
      ∃ u, exec (.winMatch x) s = .next u ∧ s.RefusedAs u .badOperand) ∧
    (∀ i : BitVec 16, s.window.valid = true → s.window.mask.toNat < i.toNat →
      ∃ u, exec (.winRead i) s = .next u ∧ s.RefusedAs u .badOperand)

/-! ### Control -/

/-- R336, R337, R451: NOP does nothing; SOFT_RESET puts every item of R450 at its reset value but CTRL, PACKED, ORIG, ARG and
the RAMs. Both in every entry state. -/
def Obligations.SoftResetResets : Prop :=
  (∀ s : State, exec .nop s = .next (s.ended [])) ∧
  (∀ s : State, ∃ t, exec .softReset s = .next t ∧ t.status = 0x00000200#32 ∧ t.noneValid = true ∧
    s.sameHostRegs t ∧ t.result = 0#32 ∧ t.crc16 = 0#16 ∧ t.crc32 = 0#32 ∧ t.sum8 = 0#8 ∧ t.decodeCount = 0#64 ∧
    t.outCount = 0#64 ∧ t.reader.inCount = 0#64 ∧ t.reader.pos = 0#64 ∧ t.reader.packed = 0#64 ∧
    t.reader.endAt = none ∧ t.blockSize = 0#16 ∧ t.window.loc = 0#16 ∧ t.dicbit = 0#5 ∧
    t.tabC.len = s.tabC.len ∧ t.tabC.table = s.tabC.table ∧ t.tabC.left = s.tabC.left ∧ t.tabC.right = s.tabC.right ∧
    t.tabPt.len = s.tabPt.len ∧ t.tabPt.table = s.tabPt.table ∧ t.tabPt.left = s.tabPt.left ∧
    t.tabPt.right = s.tabPt.right ∧ t.arena.freq = s.arena.freq ∧ t.arena.child = s.arena.child ∧
    t.arena.parent = s.arena.parent ∧ t.arena.sNode = s.arena.sNode ∧ t.window.dic = s.window.dic ∧
    t.trace = s.trace ∧ t.source = s.source ∧ t.sinkRoom = s.sinkRoom ∧ t.schedule = s.schedule ∧ t.reads = s.reads)

/-- R334, R10, R131, R155: ENTRY_START for every method 0 to 8, with a source that answers its requests with bytes; with a
reserved METHOD it fails with BAD_STATE, whatever code stood in ERRCODE before, and starts no entry. -/
def Obligations.EntryStartBegins : Prop :=
  (∀ (s : State) (bs : List Byte) (rest : List Answer), s.method.toNat ≤ 8 →
    bs.length = min s.packedSize.toNat 2 → s.source = byteAnswers bs ++ rest →
    ∃ t, exec .entryStart s = .next t ∧ t.status = 0x00000A00#32 ∧ s.sameHostRegs t ∧
      t.eMethod = s.method ∧ t.eFill = s.fill ∧ t.crc16 = 0#16 ∧ t.crc32 = 0#32 ∧ t.sum8 = 0#8 ∧
      t.decodeCount = 0#64 ∧ t.outCount = 0#64 ∧ t.blockSize = 0#16 ∧ t.result = s.result ∧
      t.reader = { pos := 0#64, packed := s.packedSize, endAt := none, inCount := BitVec.ofNat 64 bs.length,
                   bytes := bs, valid := true } ∧
      t.source = rest ∧ t.sinkRoom = s.sinkRoom ∧ t.trace = requestEvents 0 bs.length ++ s.trace ∧
      t.dicbit = (match s.method.toNat with
        | 1 => 12#5 | 2 => 13#5 | 3 => 13#5 | 4 => 12#5 | 5 => 13#5 | 6 => 15#5 | 7 => 16#5 | _ => 0#5) ∧
      (s.method.toNat = 1 → t.np = 64#8) ∧ (s.method.toNat = 3 → t.np = 128#8) ∧
      (s.method.toNat = 4 ∨ s.method.toNat = 5 → t.np = 14#8 ∧ t.pbit = 4#3) ∧
      (s.method.toNat = 6 → t.np = 16#8 ∧ t.pbit = 5#3) ∧ (s.method.toNat = 7 → t.np = 17#8 ∧ t.pbit = 5#3) ∧
      (if s.method.toNat = 0 ∨ s.method.toNat = 8 then t.window.valid = false
       else t.window.valid = true ∧ t.window.loc = 0#16 ∧ t.window.mask.toNat + 1 = 2 ^ t.dicbit.toNat ∧
         ∀ a, a ≤ t.window.mask.toNat → t.window.read a = s.fill) ∧
      (t.arena.validC = true ↔ s.method.toNat = 1 ∨ s.method.toNat = 2) ∧
      (t.arena.validP = true ↔ s.method.toNat = 2) ∧
      (t.tabPt.tabValid = true ↔ s.method.toNat = 1) ∧ t.tabC.tabValid = false ∧
      (s.method.toNat = 1 → t.arena = startC 314 60 s.arena.invalidate ∧
        (Machine.HuffTable.wf .pt s.tabPt = true → (∀ i, i < 64 → t.tabPt.getLen i = readyLength .lh1 i) ∧
          exec (.htReadyMade .lh1 64#8) { s with estate := .active } =
            .next ({ s with estate := .active, tabPt := t.tabPt }.ended []))) ∧
      (s.method.toNat = 2 → t.arena = startP 13 (startC 286 256 s.arena.invalidate)) ∧
      (3 ≤ s.method.toNat ∧ s.method.toNat ≤ 7 → t.tabC.lenValid = true ∧ t.tabPt.lenValid = true ∧
        ∀ i, t.tabC.getLen i = 0 ∧ t.tabPt.getLen i = 0)) ∧
  (∀ s : State, 9 ≤ s.method.toNat →
    ∃ t, exec .entryStart s = .next t ∧ t.cmd = none ∧ t.err = true ∧ t.errcode = some .badState ∧
      t.estate = .failed ∧ t.noneValid = true ∧ t.done = false ∧ t.overrun = false ∧ t.dropped = false ∧
      t.eMethod = s.eMethod ∧ t.eFill = s.eFill ∧ t.np = s.np ∧ t.pbit = s.pbit ∧ t.dicbit = s.dicbit ∧
      s.sameHostRegs t ∧ t.reader.inCount = s.reader.inCount ∧ t.window.loc = s.window.loc ∧
      t.decodeCount = s.decodeCount ∧ t.outCount = s.outCount ∧ t.crc16 = s.crc16 ∧
      t.crc32 = s.crc32 ∧ t.sum8 = s.sum8 ∧ t.blockSize = s.blockSize ∧ t.trace = s.trace ∧ t.source = s.source)

/-- R335: DEC_C, DEC_P and BLK_START by method: lh1 and lh2 decode C adaptively, lh2 decodes P adaptively, and where the
table of R335 has BAD_STATE the command fails so. -/
def Obligations.DispatchByMethod : Prop :=
  ∀ s : State, s.estate = .active →
    (s.eMethod = 1#4 ∨ s.eMethod = 2#4 → exec .decC s = exec .dynDecodeC s) ∧
    (s.eMethod = 2#4 → exec .decP s = exec .dynDecodeP s) ∧
    (s.eMethod = 0#4 ∨ s.eMethod = 8#4 → ∀ i, i = .decC ∨ i = .decP ∨ i = .blkStart ∨ i = .step →
      ∃ t, exec i s = .next t ∧ s.RefusedAs t .badState) ∧
    (s.eMethod = 1#4 ∨ s.eMethod = 2#4 → ∃ t, exec .blkStart s = .next t ∧ s.RefusedAs t .badState)

/-- R226, R233, R338: DEC_C of lh3 to lh7 inside a block, from a source that has nothing left to give: one symbol, one
less in BLOCKSIZE, and for lh3's symbol 285 eight bits more. -/
def Obligations.DecCDecodesStaticSymbol : Prop :=
  ∀ (s : State) (c : Nat), s.estate = .active → s.reader.valid = true → s.reader.drained → s.blockSize ≠ 0#16 →
    s.tabC.tabValid = true → s.tabC.lookup .c (s.reader.peek 16) = .ok c →
    (4 ≤ s.eMethod.toNat ∧ s.eMethod.toNat ≤ 7 ∨ s.eMethod.toNat = 3 ∧ c ≠ 285 →
      exec .decC s = .next ({ s.skipped (s.tabC.getLen c) with
        blockSize := s.blockSize - 1, result := BitVec.ofNat 32 c }.ended [])) ∧
    (s.eMethod.toNat = 3 ∧ c = 285 →
      exec .decC s = .next ({ s.skipped (s.tabC.getLen c + 8) with
        blockSize := s.blockSize - 1
        result := BitVec.ofNat 32 (c + (s.reader.advance (s.tabC.getLen c)).peek 8) }.ended []))

/-- R227, R234, R339: DEC_P of lh1 and lh3 to lh7, from a source that has nothing left to give: a position symbol and its
extra bits. -/
def Obligations.DecPDecodesStaticPosition : Prop :=
  ∀ (s : State) (j : Nat), s.estate = .active → s.reader.valid = true → s.reader.drained → s.tabPt.tabValid = true →
    s.tabPt.lookup .pt (s.reader.peek 16) = .ok j →
    (s.eMethod.toNat = 1 ∨ s.eMethod.toNat = 3 →
      exec .decP s = .next ({ s.skipped (s.tabPt.getLen j + 6) with
        result := BitVec.ofNat 32 (j * 64 + (s.reader.advance (s.tabPt.getLen j)).peek 6) }.ended [])) ∧
    (4 ≤ s.eMethod.toNat ∧ s.eMethod.toNat ≤ 7 → j ≤ 1 →
      exec .decP s = .next ({ s.skipped (s.tabPt.getLen j) with result := BitVec.ofNat 32 j }.ended [])) ∧
    (4 ≤ s.eMethod.toNat ∧ s.eMethod.toNat ≤ 7 → 2 ≤ j → j ≤ 17 →
      exec .decP s = .next ({ s.skipped (s.tabPt.getLen j + (j - 1)) with
        result := BitVec.ofNat 32 (2 ^ (j - 1) + (s.reader.advance (s.tabPt.getLen j)).peek (j - 1)) }.ended []))

/-- R225, R226, R232, R233, R340: BLK_START of lh4 to lh7 is a 16-bit count into BLOCKSIZE and then NS_READ_PT 20, 5, 3,
NS_READ_C and NS_READ_PT np, pbit, NONE; of lh3 it is the count, ST0_READ_C and ST0_READ_P. DEC_C with BLOCKSIZE = 0 is
BLK_START and then DEC_C inside the block, and BLOCKSIZE is the header's count less one, modulo 2^16 (C9). Where only
zero bits are left the header of lh4 to lh7 is an empty block with three constant tables. -/
def Obligations.BlockHeaders : Prop :=
  (∀ s a b c d : State, s.cmd ≠ none → s.estate = .active → 4 ≤ s.eMethod.toNat → s.eMethod.toNat ≤ 7 →
    Instr.WellFormed (.nsReadPt (s.np.zeroExtend 9) (s.pbit.zeroExtend 4) 15#4) → s.completes (.brGet 16#5) a →
    State.completes { a with cmd := s.cmd, blockSize := a.result.extractLsb' 0 16, result := s.result }
      (.nsReadPt 20#9 5#4 3#4) b →
    State.completes { b with cmd := s.cmd } .nsReadC c →
    exec (.nsReadPt (s.np.zeroExtend 9) (s.pbit.zeroExtend 4) 15#4) { c with cmd := s.cmd } = .next d → d.cmd = none →
    exec .blkStart s = .next d) ∧
  (∀ s a b c : State, s.cmd ≠ none → s.estate = .active → s.eMethod.toNat = 3 → s.completes (.brGet 16#5) a →
    State.completes { a with cmd := s.cmd, blockSize := a.result.extractLsb' 0 16, result := s.result } .st0ReadC b →
    exec .st0ReadP { b with cmd := s.cmd } = .next c → c.cmd = none → exec .blkStart s = .next c) ∧
  (∀ s b v : State, s.cmd ≠ none → s.estate = .active → 3 ≤ s.eMethod.toNat → s.eMethod.toNat ≤ 7 →
    s.blockSize = 0#16 → s.completes .blkStart b →
    State.completes { b with cmd := s.cmd, blockSize := 1#16 } .decC v →
    exec .decC s = .next { v with blockSize := b.blockSize - 1 }) ∧
  (∀ s : State, s.estate = .active → 4 ≤ s.eMethod.toNat → s.eMethod.toNat ≤ 7 → s.reader.valid = true →
    s.reader.drained → (∀ k, s.reader.bit k = false) → s.np ≠ 0#8 →
    ∃ c p, exec .blkStart s = .next ({ s.skipped (44 + 2 * s.pbit.toNat) with
        blockSize := 0#16, tabC := c, tabPt := p }.ended []) ∧
      c.tabValid = true ∧ c.lenValid = true ∧ c.nchar = 510#10 ∧ (∀ i, i < 4096 → c.getTable i = 0) ∧
      p.tabValid = true ∧ p.lenValid = true ∧ p.nchar = s.np ∧ (∀ i, i < 256 → p.getTable i = 0) ∧
      (∀ i, c.getLen i = 0 ∧ p.getLen i = 0))

/-- R341, R345 (2), R461: a STEP is DEC_C and then WIN_LITERAL of the symbol, or DEC_C, DEC_P and then WIN_MATCH of the
symbol's length at the decoded distance, but for RESULT, and without ARG. Worked out for a literal of lh4 to lh7 inside
a block and away from the window's end, from a source that has nothing left to give (R226, R303). -/
def Obligations.StepIsDecodeThenApply : Prop :=
  (∀ s t : State, s.cmd ≠ none → s.lzEntry = true → exec .decC s = .next t → t.cmd = none → t.estate = .active →
    (∀ u, t.result.toNat ≤ 255 → exec (.winLiteral (BitVec.ofNat 8 t.result.toNat)) { t with cmd := s.cmd } = .next u →
      u.cmd = none → u.estate = .active → exec .step s = .next { u with result := t.result }) ∧
    (∀ p u, 256 ≤ t.result.toNat → t.result.toNat ≤ 540 → exec .decP { t with cmd := s.cmd } = .next p → p.cmd = none →
      p.estate = .active → p.result.toNat < 65536 →
      exec (.winMatch (BitVec.ofNat 9 (t.result.toNat - 253))) { p with cmd := s.cmd, arg := p.result + 1 } = .next u →
      u.cmd = none → u.estate = .active → exec .step s = .next { u with arg := s.arg, result := t.result })) ∧
  (∀ (s : State) (c : Nat), s.estate = .active → 4 ≤ s.eMethod.toNat → s.eMethod.toNat ≤ 7 → s.reader.valid = true →
    s.reader.drained → s.blockSize ≠ 0#16 → s.tabC.tabValid = true →
    s.tabC.lookup .c (s.reader.peek 16) = .ok c → c ≤ 255 → s.window.valid = true →
    s.window.loc.toNat < s.window.mask.toNat →
    exec .step s = .next ({ s.skipped (s.tabC.getLen c) with
      blockSize := s.blockSize - 1
      window := { s.window.write s.window.loc.toNat (BitVec.ofNat 8 c) with loc := s.window.loc + 1 }
      decodeCount := s.decodeCount + 1
      result := BitVec.ofNat 32 c }.ended []))

/-- R342: RUN of a stored entry whose bytes the reader already has: it emits the next bytes of the stream, zeros past the
end included, up to ORIG_SIZE. -/
def Obligations.RunCopiesStoredEntry : Prop :=
  ∀ (s : State) (n : Nat) (bs : List Byte), s.estate = .active → s.eMethod = 0#4 ∨ s.eMethod = 8#4 →
    s.reader.valid = true → s.reader.drained → s.sinkRoom = none → n = s.origSize.toNat - s.decodeCount.toNat →
    s.reader.pos.toNat + 8 * n < 2 ^ 64 →
    bs = (List.range n).map (fun k => BitVec.ofNat 8 (s.reader.bitsAt (s.reader.pos.toNat + 8 * k) 8)) →
    exec .run s = .next ({ (s.skipped (8 * n)).emitted bs with
      decodeCount := s.decodeCount + BitVec.ofNat 64 n
      overrun := decide (s.origSize.toNat < s.decodeCount.toNat)
      done := true
      estate := .finished }.ended (emitEvents bs))

/-- R310, R342, R343, R345 (2), R308, R311: FINISH of an entry, and RUN of an lh1 to lh7 entry that has its ORIG_SIZE
bytes: the bytes of the open window are emitted, each once and in order, OVERRUN compares the counts, and the entry is
finished. RUN of an lh1 to lh7 entry that has not, and whose STEP completes, is RUN from where that STEP ends; for an
ORIG_SIZE that DECODE_COUNT cannot wrap past (log 30). -/
def Obligations.FinishFlushesAndEnds : Prop :=
  (∀ s : State, s.estate = .active → s.sinkRoom = none →
    (1 ≤ s.eMethod.toNat → s.eMethod.toNat ≤ 7 → s.window.valid = true →
      exec .finish s = .next ({ s.emitted (s.window.first s.window.loc.toNat) with
        window := { s.window with valid := false }
        overrun := decide (s.origSize.toNat < s.decodeCount.toNat)
        done := true
        estate := .finished }.ended (emitEvents (s.window.first s.window.loc.toNat))) ∧
      (s.origSize.toNat ≤ s.decodeCount.toNat → exec .run s = exec .finish s)) ∧
    (s.eMethod = 0#4 ∨ s.eMethod = 8#4 →
      exec .finish s = .next ({ s with
        overrun := decide (s.origSize.toNat < s.decodeCount.toNat), done := true, estate := .finished }.ended []))) ∧
  (∀ s u v : State, s.cmd ≠ none → s.estate = .active → 1 ≤ s.eMethod.toNat → s.eMethod.toNat ≤ 7 →
    s.decodeCount.toNat < s.origSize.toNat → s.origSize.toNat + 2 ^ 16 ≤ 2 ^ 64 → s.completes .step u →
    exec .run { u with cmd := s.cmd } = .next v → v.cmd = none → exec .run s = .next v)

/-! ### Bit reader -/

/-- R151, R87, R152, R157: the stream's bits, most significant bit of a byte first, zero past the packed size and past the
source's end; Peek(n) is the n bits after BR_POS as a number, the first bit most significant, and Peek(0) = 0; BR_PEEK
puts it into RESULT and asks for no byte. That the index BR_POS + j does not wrap near BR_POS = 2^64 is the model's
choice (log 19). -/
def Obligations.PeekReadsStreamBits : Prop :=
  (∀ (r : Reader) (k : Nat),
    (k / 8 < r.packed.toNat → (∀ e, r.endAt = some e → k / 8 < e) →
      r.bit k = (r.bytes.getD (k / 8) 0#8).getLsbD (7 - k % 8)) ∧
    (r.packed.toNat ≤ k / 8 → r.bit k = false) ∧ (∀ e, r.endAt = some e → e ≤ k / 8 → r.bit k = false)) ∧
  (∀ (r : Reader) (n : Nat),
    r.peek n = ∑ j ∈ Finset.range n, (if r.bit (r.pos.toNat + j) then 1 else 0) * 2 ^ (n - 1 - j)) ∧
  (∀ (s : State) (n : BitVec 5), s.estate ≠ .failed → s.reader.valid = true → n.toNat ≤ 16 →
    exec (.brPeek n) s = .next ({ s with result := BitVec.ofNat 32 (s.reader.peek n.toNat) }.ended []))

/-- R153, R154, R155, R156, R158, R159: BR_SKIP, BR_GET and BR_INIT, whose requests the source answers with bytes, and BR_SKIP and
BR_GET on a reader that has nothing left to request. -/
def Obligations.BitReaderCommands : Prop :=
  (∀ (s : State) (n : BitVec 5), s.estate ≠ .failed → s.reader.valid = true → n.toNat ≤ 16 →
    (∀ (bs : List Byte) (rest : List Answer), s.reader.endAt = none → s.source = byteAnswers bs ++ rest →
      s.reader.inCount.toNat + bs.length =
        min s.reader.packed.toNat (((s.reader.advance n.toNat).pos.toNat + 16 + 7) / 8) →
      exec (.brSkip n) s = .next ({ s with
        reader := (s.reader.advance n.toNat).receive bs, source := rest
        }.ended (requestEvents s.reader.inCount.toNat bs.length)) ∧
      exec (.brGet n) s = .next ({ s with
        reader := (s.reader.advance n.toNat).receive bs, source := rest
        result := BitVec.ofNat 32 (s.reader.peek n.toNat)
        }.ended (requestEvents s.reader.inCount.toNat bs.length))) ∧
    (s.reader.drained →
      exec (.brSkip n) s = .next ((s.skipped n.toNat).ended []) ∧
      exec (.brGet n) s = .next ({ s.skipped n.toNat with
        result := BitVec.ofNat 32 (s.reader.peek n.toNat) }.ended []))) ∧
  (∀ (s : State) (bs : List Byte) (rest : List Answer), s.estate ≠ .failed → bs.length = min s.packedSize.toNat 2 →
    s.source = byteAnswers bs ++ rest →
    exec .brInit s = .next ({ s with
      reader := { pos := 0#64, packed := s.packedSize, endAt := none, inCount := BitVec.ofNat 64 bs.length,
                  bytes := bs, valid := true }
      source := rest }.ended (requestEvents 0 bs.length)))

/-- R84, R156, R160: what the source's answer to the next request of a BR_SKIP does: `End` ends the stream there and is the
last request, `Fail` fails the command with SOURCE_FAIL, and with no answer the command waits; that a waiting command leaves
the state as it was, but for the request in flight, is the model's form of waiting (log 3). -/
def Obligations.SourceAnswerDecides : Prop :=
  ∀ (s : State) (n : BitVec 5), s.estate ≠ .failed → s.reader.valid = true → n.toNat ≤ 16 → s.reader.endAt = none →
    s.reader.inCount.toNat < min s.reader.packed.toNat (((s.reader.advance n.toNat).pos.toNat + 16 + 7) / 8) →
    (∀ rest, s.source = .finish :: rest →
      exec (.brSkip n) s = .next ({ s with
        reader := { s.reader.advance n.toNat with endAt := some s.reader.inCount.toNat }, source := rest
        }.ended [.request s.reader.inCount.toNat])) ∧
    (∀ rest, s.source = .fail :: rest →
      ∃ t, exec (.brSkip n) s = .next t ∧ t.cmd = none ∧ t.estate = .failed ∧ t.err = true ∧ t.noneValid = true ∧
        t.errcode = (if s.err then s.errcode else some .sourceFail) ∧ t.source = rest ∧
        t.reader.inCount = s.reader.inCount ∧ t.trace = .request s.reader.inCount.toNat :: s.trace) ∧
    (s.source = [] → exec (.brSkip n) s = .next { s with inFlight := [.request s.reader.inCount.toNat] })

/-! ### Checksums -/

/-- R173, R175, R177, R178: the checksum commands; R170, R171: the update functions are the eight shift-and-xor rounds of
their rules, with the check values that the rules give for the ASCII bytes "123456789". -/
def Obligations.ChecksumCommands : Prop :=
  (∀ (c : BitVec 16) (b : Byte), crc16Update c b =
    (fun x : BitVec 16 => if x.getLsbD 0 then (x >>> 1) ^^^ 0xA001#16 else x >>> 1)^[8] (c ^^^ b.zeroExtend 16)) ∧
  (∀ (c : BitVec 32) (b : Byte), crc32Update c b =
    ~~~ ((fun x : BitVec 32 => if x.getLsbD 0 then (x >>> 1) ^^^ 0xEDB88320#32 else x >>> 1)^[8]
      (~~~ c ^^^ b.zeroExtend 32))) ∧
  ([0x31#8, 0x32#8, 0x33#8, 0x34#8, 0x35#8, 0x36#8, 0x37#8, 0x38#8, 0x39#8].foldl crc16Update 0#16 = 0xBB3D#16 ∧
    [0x31#8, 0x32#8, 0x33#8, 0x34#8, 0x35#8, 0x36#8, 0x37#8, 0x38#8, 0x39#8].foldl crc32Update 0#32 = 0xCBF43926#32) ∧
  ∀ s : State, s.estate ≠ .failed →
    (∀ b, exec (.crc16Byte b) s = .next ({ s with crc16 := crc16Update s.crc16 b }.ended [])) ∧
    (∀ b, exec (.crc32Byte b) s = .next ({ s with crc32 := crc32Update s.crc32 b }.ended [])) ∧
    (∀ b, exec (.sumByte b) s = .next ({ s with sum8 := s.sum8 + b }.ended [])) ∧
    (∀ m, exec (.ckClear m) s = .next ({ s with
      crc16 := if m.getLsbD 0 then 0#16 else s.crc16
      crc32 := if m.getLsbD 1 then 0#32 else s.crc32
      sum8 := if m.getLsbD 2 then 0#8 else s.sum8 }.ended []))

/-! ### Tables -/

/-- R200, R201, R202, R207, R208: the commands on the length arrays, and the reads of a table and its tree. -/
def Obligations.LengthAndTableCommands : Prop :=
  (∀ (s : State) (t : Table), s.estate ≠ .failed →
    (∃ h, exec (.lenClear t) s = .next ((s.setTab t h).ended []) ∧
      h = { s.tab t with len := h.len, lenValid := true, tabValid := false } ∧ ∀ i, h.getLen i = 0) ∧
    (∀ i l, Instr.WellFormed (.lenWrite t i l) → (s.tab t).lenValid = true → HuffTable.wf t (s.tab t) = true →
      ∃ h, exec (.lenWrite t i l) s = .next ((s.setTab t h).ended []) ∧
        h = { s.tab t with len := h.len, tabValid := false } ∧
        ∀ j, h.getLen j = if j = i.toNat then l.toNat else (s.tab t).getLen j) ∧
    (∀ i, Instr.WellFormed (.lenRead t i 0#5) → (s.tab t).lenValid = true →
      exec (.lenRead t i 0#5) s = .next ({ s with result := BitVec.ofNat 32 ((s.tab t).getLen i.toNat) }.ended []))) ∧
  (∀ (s : State) (t : Table), s.estate ≠ .failed → (s.tab t).tabValid = true →
    (∀ i, Instr.WellFormed (.tblRead t i) →
      exec (.tblRead t i) s = .next ({ s with result := BitVec.ofNat 32 ((s.tab t).getTable i.toNat) }.ended [])) ∧
    (∀ d i, Instr.WellFormed (.treeRead t d i) → (s.tab t).nchar.toNat ≤ i.toNat → i.toNat < (s.tab t).avail.toNat →
      exec (.treeRead t d i) s = .next ({ s with
        result := BitVec.ofNat 32 (if d = Side.right then (s.tab t).getRight i.toNat else (s.tab t).getLeft i.toNat)
        }.ended [])))

/-- R192, R193, R203: HT_BUILD rejects a length above 16 with LEN_RANGE, whatever the code space, and else a code space
that is not filled exactly with CODE_SPACE. -/
def Obligations.HtBuildChecksLengths : Prop :=
  ∀ (s : State) (t : Table) (c : BitVec 9), s.estate ≠ .failed → Instr.WellFormed (.htBuild t c 0#9) →
    (s.tab t).lenValid = true →
    ((∃ ch, ch < c.toNat ∧ 16 < (s.tab t).getLen ch) →
      ∃ u, exec (.htBuild t c 0#9) s = .next u ∧ s.RefusedAs u .lenRange) ∧
    ((∀ ch, ch < c.toNat → (s.tab t).getLen ch ≤ 16) → kraftSum (s.tab t).getLen c.toNat ≠ 65536 →
      ∃ u, exec (.htBuild t c 0#9) s = .next u ∧ s.RefusedAs u .codeSpace)

/-- R191, R194, R203: HT_BUILD of a complete code whose lengths are all within the direct-lookup width: every table entry
that begins with a symbol's code holds the symbol, and the table has no tree node. -/
def Obligations.HtBuildFillsDirectTable : Prop :=
  ∀ (s : State) (t : Table) (c : BitVec 9), s.estate ≠ .failed → Instr.WellFormed (.htBuild t c 0#9) →
    (s.tab t).lenValid = true → HuffTable.wf t (s.tab t) = true →
    (∀ ch, ch < c.toNat → (s.tab t).getLen ch ≤ tableBits t) → kraftSum (s.tab t).getLen c.toNat = 65536 →
    ∃ h, exec (.htBuild t c 0#9) s = .next ((s.setTab t h).ended []) ∧ h.tabValid = true ∧ h.lenValid = true ∧
      h.len = (s.tab t).len ∧ h.left = (s.tab t).left ∧ h.right = (s.tab t).right ∧ h.nchar.toNat = c.toNat ∧
      h.avail.toNat = c.toNat ∧
      ∀ ch i, ch < c.toNat → 0 < (s.tab t).getLen ch → i < 2 ^ tableBits t →
        i / 2 ^ (tableBits t - (s.tab t).getLen ch) = canonicalCode ((s.tab t).lens c.toNat) ch → h.getTable i = ch

/-- R195, R198, R203: HT_BUILD succeeds on every complete code with lengths up to 16, never for want of a tree node, and
its table decodes: sixteen stream bits that begin with a present symbol's canonical code give that symbol. -/
def Obligations.HtBuildDecodesCanonicalCode : Prop :=
  ∀ (s : State) (t : Table) (c : BitVec 9), s.estate ≠ .failed → Instr.WellFormed (.htBuild t c 0#9) →
    (s.tab t).lenValid = true → HuffTable.wf t (s.tab t) = true →
    (∀ ch, ch < c.toNat → (s.tab t).getLen ch ≤ 16) → kraftSum (s.tab t).getLen c.toNat = 65536 →
    ∃ h, exec (.htBuild t c 0#9) s = .next ((s.setTab t h).ended []) ∧ h.tabValid = true ∧ h.lenValid = true ∧
      h.len = (s.tab t).len ∧ h.nchar.toNat = c.toNat ∧ h.avail.toNat + 1 ≤ 2 * c.toNat ∧
      ∀ ch bits, ch < c.toNat → 0 < (s.tab t).getLen ch → bits < 65536 →
        bits / 2 ^ (16 - (s.tab t).getLen ch) = canonicalCode ((s.tab t).lens c.toNat) ch → h.lookup t bits = .ok ch

/-- R204, R198: HT_FILL makes a table that yields its symbol from every bits and for no bits. -/
def Obligations.HtFillIsConstant : Prop :=
  ∀ (s : State) (t : Table) (c x : BitVec 9), s.estate ≠ .failed → Instr.WellFormed (.htFill t c x) →
    x.toNat < c.toNat →
    ∃ h, exec (.htFill t c x) s = .next ((s.setTab t h).ended []) ∧ h.left = (s.tab t).left ∧
      h.right = (s.tab t).right ∧ h.nchar.toNat = c.toNat ∧ h.avail.toNat = c.toNat ∧ h.lenValid = true ∧
      h.tabValid = true ∧ (∀ i, h.getLen i = 0) ∧ (∀ i, i < tableCount t → h.getTable i = x.toNat) ∧
      ∀ bits, bits < 65536 → h.lookup t bits = .ok x.toNat

/-- R197, R206: HT_DECODE, from a source that has nothing left to give. -/
def Obligations.HtDecodeReadsSymbol : Prop :=
  ∀ (s : State) (t : Table) (j : Nat), s.estate ≠ .failed → s.reader.valid = true → s.reader.drained →
    (s.tab t).tabValid = true → (s.tab t).lookup t (s.reader.peek 16) = .ok j →
    exec (.htDecode t) s = .next ({ s.skipped ((s.tab t).getLen j) with result := BitVec.ofNat 32 j }.ended [])

/-- R240, R241: HT_READY_MADE completes for each table's own alphabet size, with the lengths R240 lists, and fails with
CODE_SPACE for every other; where it completes, its table is the one that HT_BUILD makes of those lengths. -/
def Obligations.ReadyMadeTables : Prop :=
  ∀ (s : State) (m : ReadyTable) (c : BitVec 8), s.estate ≠ .failed → Instr.WellFormed (.htReadyMade m c) →
    HuffTable.wf .pt s.tabPt = true →
    (c.toNat = readyAlphabet m →
      ∃ h, exec (.htReadyMade m c) s = .next ({ s with tabPt := h }.ended []) ∧ h.tabValid = true ∧
        h.lenValid = true ∧ h.nchar = c ∧ (∀ i, h.getLen i = if i < c.toNat then readyLength m i else 0) ∧
        exec (.htBuild .pt (c.zeroExtend 9) 0#9) { s with
          tabPt := s.tabPt.withLens .pt ((List.range c.toNat).map (readyLength m)) } =
          .next ({ s with tabPt := h }.ended [])) ∧
    (c.toNat ≠ readyAlphabet m → ∃ t, exec (.htReadyMade m c) s = .next t ∧ s.RefusedAs t .codeSpace)

/-! ### Static readers -/

/-- R221, R223, R222, R224: NS_READ_PT and NS_READ_C where the count field is 0, from a source that has nothing left to
give: a constant table of the symbol that follows, SYMBOL_RANGE where that is no symbol, and INDEX_OVERFLOW where the
count is above the alphabet. -/
def Obligations.NewStaticConstantTables : Prop :=
  ∀ s : State, s.estate ≠ .failed → s.reader.valid = true → s.reader.drained →
    (∀ (c : BitVec 9) (w x : BitVec 4), Instr.WellFormed (.nsReadPt c w x) →
      (s.reader.peek w.toNat = 0 → (s.reader.advance w.toNat).peek w.toNat < c.toNat →
        exec (.nsReadPt c w x) s = .next ({ s.skipped (2 * w.toNat) with
          tabPt := constantTable .pt c.toNat ((s.reader.advance w.toNat).peek w.toNat) s.tabPt }.ended [])) ∧
      (s.reader.peek w.toNat = 0 → c.toNat ≤ (s.reader.advance w.toNat).peek w.toNat →
        ∃ t, exec (.nsReadPt c w x) s = .next t ∧ s.RefusedAs t .symbolRange) ∧
      (c.toNat < s.reader.peek w.toNat → ∃ t, exec (.nsReadPt c w x) s = .next t ∧ s.RefusedAs t .indexOverflow)) ∧
    (s.tabPt.tabValid = true →
      (s.reader.peek 9 = 0 → (s.reader.advance 9).peek 9 < 510 →
        exec .nsReadC s = .next ({ s.skipped 18 with
          tabC := constantTable .c 510 ((s.reader.advance 9).peek 9) s.tabC }.ended [])) ∧
      (s.reader.peek 9 = 0 → 510 ≤ (s.reader.advance 9).peek 9 →
        ∃ t, exec .nsReadC s = .next t ∧ s.RefusedAs t .symbolRange) ∧
      (510 < s.reader.peek 9 → ∃ t, exec .nsReadC s = .next t ∧ s.RefusedAs t .indexOverflow))

/-- R221, R222: NS_READ_PT reads a count and that many lengths of 0 to 16 in the PT length code, with the 2-bit zero run
after the special index, makes the rest 0, and builds the table as HT_BUILD does, with HT_BUILD's success or failure;
a run past the alphabet fails with INDEX_OVERFLOW, and a unary length that passes 16 with LEN_RANGE; from a source that
has nothing left to give. For complete codes of lengths up to 8 without a special index the outcome is written out. -/
def Obligations.NsReadPtReadsLengths : Prop :=
  (∀ (s : State) (c : BitVec 9) (w : BitVec 4) (ls : List Nat), s.estate ≠ .failed → s.reader.valid = true →
    s.reader.drained → Instr.WellFormed (.nsReadPt c w 15#4) → s.ramsWf = true → ls.length ≤ c.toNat →
    0 < ls.length → ls.length < 2 ^ w.toNat → (∀ l ∈ ls, l ≤ 8) →
    kraftSum (fun i => ls.getD i 0) c.toNat = 65536 →
    s.reader.pos.toNat + (bitsOf w.toNat ls.length ++ ls.flatMap ptLengthBits).length < 2 ^ 64 →
    s.reader.startsWith s.reader.pos.toNat (bitsOf w.toNat ls.length ++ ls.flatMap ptLengthBits) →
    ∃ h, exec (.nsReadPt c w 15#4) s =
        .next ({ s.skipped (bitsOf w.toNat ls.length ++ ls.flatMap ptLengthBits).length with tabPt := h }.ended []) ∧
      h.tabValid = true ∧ h.lenValid = true ∧ h.nchar.toNat = c.toNat ∧ ∀ i, h.getLen i = ls.getD i 0) ∧
  (∀ (s : State) (c : BitVec 9) (w x : BitVec 4) (ls : List Nat) (bits : List Bool), s.estate ≠ .failed →
    s.reader.valid = true → s.reader.drained → Instr.WellFormed (.nsReadPt c w x) → s.ramsWf = true →
    0 < ls.length → ls.length ≤ c.toNat → ls.length < 2 ^ w.toNat → (∀ l ∈ ls, l ≤ 16) →
    x = 15#4 ∨ x = 0#4 ∨ ls.length < x.toNat →
    bits = bitsOf w.toNat ls.length ++ ls.flatMap ptLengthBits → s.reader.pos.toNat + bits.length < 2 ^ 64 →
    s.reader.startsWith s.reader.pos.toNat bits →
    exec (.nsReadPt c w x) s = exec (.htBuild .pt c 0#9) { s.skipped bits.length with tabPt := s.tabPt.withLens .pt ls }) ∧
  (∀ (s : State) (c : BitVec 9) (w x : BitVec 4) (before after : List Nat) (r n : Nat) (bits : List Bool),
    s.estate ≠ .failed → s.reader.valid = true → s.reader.drained → Instr.WellFormed (.nsReadPt c w x) →
    s.ramsWf = true → x ≠ 15#4 → x ≠ 0#4 → before.length = x.toNat → r < 4 → before.length ≤ n →
    after.length = n - (before.length + r) → n ≤ c.toNat → n < 2 ^ w.toNat → (∀ l ∈ before ++ after, l ≤ 16) →
    bits = bitsOf w.toNat n ++ before.flatMap ptLengthBits ++ bitsOf 2 r ++ after.flatMap ptLengthBits →
    s.reader.pos.toNat + bits.length < 2 ^ 64 → s.reader.startsWith s.reader.pos.toNat bits →
    (before.length + r ≤ c.toNat →
      exec (.nsReadPt c w x) s = exec (.htBuild .pt c 0#9) { s.skipped bits.length with
        tabPt := s.tabPt.withLens .pt (before ++ List.replicate r 0 ++ after) }) ∧
    (c.toNat < before.length + r → ∃ t, exec (.nsReadPt c w x) s = .next t ∧ s.RefusedAs t .indexOverflow)) ∧
  (∀ (s : State) (c : BitVec 9) (w : BitVec 4) (ls : List Nat) (n : Nat) (bits : List Bool), s.estate ≠ .failed →
    s.reader.valid = true → s.reader.drained → Instr.WellFormed (.nsReadPt c w 15#4) → ls.length < n → n ≤ c.toNat →
    n < 2 ^ w.toNat → (∀ l ∈ ls, l ≤ 16) →
    bits = bitsOf w.toNat n ++ ls.flatMap ptLengthBits ++ List.replicate 13 true →
    s.reader.pos.toNat + bits.length < 2 ^ 64 → s.reader.startsWith s.reader.pos.toNat bits →
    ∃ t, exec (.nsReadPt c w 15#4) s = .next t ∧ s.RefusedAs t .lenRange)

/-- R223, R224, R192: NS_READ_C with a count above 0 reads pretree symbols until that many lengths are there (0 is one zero
length, 1 and 2 are runs of 3 to 18 and of 20 to 531 zero lengths, c from 3 on is the length c − 2), makes the rest 0,
and builds the C table as HT_BUILD C, 510 does, with its success or failure; a length above 16, however long, fails with
LEN_RANGE, and a run past the alphabet with INDEX_OVERFLOW; from a source that has nothing left to give. -/
def Obligations.NsReadCReadsLengths : Prop :=
  ∀ (s : State) (items : List (Nat × Nat)) (ls : List Nat), s.estate ≠ .failed → s.reader.valid = true →
    s.reader.drained → s.tabPt.tabValid = true → s.ramsWf = true → 0 < s.reader.peek 9 → s.reader.peek 9 ≤ 510 →
    s.reader.pos.toNat + 9 + s.tabPt.itemBits items < 2 ^ 64 →
    s.tabPt.readsItems s.reader (s.reader.pos.toNat + 9) items → ls = items.flatMap pretreeLens →
    (items.dropLast.flatMap pretreeLens).length < s.reader.peek 9 → s.reader.peek 9 ≤ ls.length →
    (ls.length ≤ 510 → (∀ l ∈ ls, l ≤ 16) →
      exec .nsReadC s = exec (.htBuild .c 510#9 0#9) { s.skipped (9 + s.tabPt.itemBits items) with
        tabC := s.tabC.withLens .c ls }) ∧
    (ls.length ≤ 510 → (∃ l ∈ ls, 16 < l) → ∃ t, exec .nsReadC s = .next t ∧ s.RefusedAs t .lenRange) ∧
    (510 < ls.length → ∃ t, exec .nsReadC s = .next t ∧ s.RefusedAs t .indexOverflow)

/-- R229, R230, R231: ST0_READ_C reads 286 lengths, each a presence bit and then four bits plus 1, and ST0_READ_P after a
selector bit 1 reads 128 lengths of four bits, and each builds its table as HT_BUILD does, with its success or failure;
three lengths of 1 first are the escape to a constant table, SYMBOL_RANGE where the 9-bit constant is no C symbol; the
selector bit 0 is the ready-made table, as HT_BUILD makes it of R240's lengths; from a source that has nothing left to
give. -/
def Obligations.St0ReadersReadTables : Prop :=
  ∀ s : State, s.estate ≠ .failed → s.reader.valid = true → s.reader.drained → s.ramsWf = true →
    s.reader.pos.toNat + 2000 < 2 ^ 64 →
    (∀ ls : List Nat, ls.length = 286 → (∀ l ∈ ls, l ≤ 16) → ls.take 3 ≠ [1, 1, 1] →
      s.reader.startsWith s.reader.pos.toNat (ls.flatMap treeLengthBits) →
      exec .st0ReadC s = exec (.htBuild .c 286#9 0#9) { s.skipped (ls.flatMap treeLengthBits).length with
        tabC := s.tabC.withLens .c ls }) ∧
    (∀ x, x < 512 → s.reader.startsWith s.reader.pos.toNat
        ([true, false, false, false, false, true, false, false, false, false, true, false, false, false, false] ++
          bitsOf 9 x) →
      (x < 286 → exec .st0ReadC s = .next ({ s.skipped 24 with tabC := constantTable .c 286 x s.tabC }.ended [])) ∧
      (286 ≤ x → ∃ t, exec .st0ReadC s = .next t ∧ s.RefusedAs t .symbolRange)) ∧
    (∀ ls : List Nat, ls.length = 128 → (∀ l ∈ ls, l ≤ 15) → ls.take 3 ≠ [1, 1, 1] →
      s.reader.startsWith s.reader.pos.toNat (true :: ls.flatMap (bitsOf 4)) →
      exec .st0ReadP s = exec (.htBuild .pt 128#9 0#9) { s.skipped 513 with tabPt := s.tabPt.withLens .pt ls }) ∧
    (∀ x, x < 128 → s.reader.startsWith s.reader.pos.toNat
        ([true, false, false, false, true, false, false, false, true, false, false, false, true] ++ bitsOf 7 x) →
      exec .st0ReadP s = .next ({ s.skipped 20 with tabPt := constantTable .pt 128 x s.tabPt }.ended [])) ∧
    (s.reader.bit s.reader.pos.toNat = false →
      ∃ h, exec .st0ReadP s = .next ({ s.skipped 1 with tabPt := h }.ended []) ∧ h.tabValid = true ∧
        h.lenValid = true ∧ h.nchar = 128#8 ∧ (∀ i, i < 128 → h.getLen i = readyLength .lh3 i) ∧
        exec (.htBuild .pt 128#9 0#9) { s.skipped 1 with
          tabPt := s.tabPt.withLens .pt ((List.range 128).map (readyLength .lh3)) } =
          .next ({ s.skipped 1 with tabPt := h }.ended []))

/-! ### Adaptive trees -/

/-- R260, R261, R262, R263: DYN_START_C puts the leaf of symbol x at node 2·n − 2 − x with weight 1 and node j over the children
2j + 2 and 2j + 1, gives the root the weight n, sets N1 and leaves the P part of the arena; DYN_START_P makes the one
leaf of position 0 and leaves the C part. -/
def Obligations.DynStartBuildsTrees : Prop :=
  (∀ (s : State) (k : BitVec 5) (n : Nat), s.estate ≠ .failed → s.arena.wf = true →
    (k = 0#5 ∧ n = 314 ∨ k = 1#5 ∧ n = 286) →
    ∃ a, exec (.dynStartC k) s = .next ({ s with arena := a }.ended []) ∧ a.validC = true ∧ a.nMax.toNat = n ∧
      a.n1 = (if n = 314 then 512#10 else 285#10) ∧
      (∀ x, x < n → a.getSNode x = 2 * n - 2 - x ∧ a.getFreq (2 * n - 2 - x) = 1 ∧
        a.getChild (2 * n - 2 - x) = -(x : Int) - 1) ∧
      (∀ j, j + 1 < n → a.getChild j = 2 * (j : Int) + 2 ∧ a.getParent (2 * j + 2) = j ∧ a.getParent (2 * j + 1) = j ∧
        a.getFreq j = a.getFreq (2 * j + 2) + a.getFreq (2 * j + 1)) ∧
      a.getFreq 0 = n ∧
      (∀ j, 628 ≤ j → a.getFreq j = s.arena.getFreq j ∧ a.getChild j = s.arena.getChild j ∧
        a.getParent j = s.arena.getParent j) ∧
      (∀ x, 314 ≤ x → a.getSNode x = s.arena.getSNode x) ∧
      a.totalP = s.arena.totalP ∧ a.mostP = s.arena.mostP ∧ a.nn = s.arena.nn ∧ a.nextCount = s.arena.nextCount ∧
      a.validP = s.arena.validP) ∧
  (∀ (s : State) (k : BitVec 5), s.estate ≠ .failed → 1 ≤ k.toNat → k.toNat ≤ 16 → s.arena.wf = true →
    ∃ a, exec (.dynStartP k) s = .next ({ s with arena := a }.ended []) ∧
      (∀ j, a.getFreq j = if j = 628 then 1 else s.arena.getFreq j) ∧
      (∀ j, a.getChild j = if j = 628 then -315 else s.arena.getChild j) ∧
      (∀ x, a.getSNode x = if x = 314 then 628 else s.arena.getSNode x) ∧ a.parent = s.arena.parent ∧
      a.mostP = 628#10 ∧ a.totalP = 0#16 ∧ a.nn.toNat = 2 ^ k.toNat ∧ a.nextCount = 64#32 ∧ a.validP = true ∧
      a.validC = s.arena.validC ∧ a.nMax = s.arena.nMax ∧ a.n1 = s.arena.n1)

/-- R283: DYN_READ, for each field, the flag it requires and the indices that are legal for it. -/
def Obligations.DynReadReturnsField : Prop :=
  ∀ (s : State) (i : BitVec 10), s.estate ≠ .failed →
    (∀ f, f = .freq ∨ f = .child ∨ f = .parent → (if i.toNat < 628 then s.arena.validC else s.arena.validP) = true →
      (i.toNat + 2 ≤ 2 * s.arena.nMax.toNat ∨ 628 ≤ i.toNat ∧ i.toNat ≤ s.arena.mostP.toNat) → i.toNat < 884 →
      (f = .parent → i ≠ 0#10 ∧ i ≠ 628#10) →
      exec (.dynRead f i) s = .next ({ s with result :=
        if f = DynField.freq then (cellGet 0#16 s.arena.freq i.toNat).zeroExtend 32
        else if f = DynField.child then (cellGet 0#16 s.arena.child i.toNat).zeroExtend 32
        else (cellGet 0#10 s.arena.parent i.toNat).zeroExtend 32 }.ended [])) ∧
    ((if i.toNat < 314 then s.arena.validC else s.arena.validP) = true → i.toNat < 442 →
      (i.toNat < s.arena.nMax.toNat ∨
        314 ≤ i.toNat ∧ i.toNat ≤ 314 + (s.arena.mostP.toNat - 628) / 2) →
      exec (.dynRead .sNode i) s = .next ({ s with
        result := (cellGet 0#10 s.arena.sNode i.toNat).zeroExtend 32 }.ended [])) ∧
    (s.arena.validP = true →
      exec (.dynRead .totalP 0#10) s = .next ({ s with result := s.arena.totalP.zeroExtend 32 }.ended []) ∧
      exec (.dynRead .mostP 0#10) s = .next ({ s with result := s.arena.mostP.zeroExtend 32 }.ended []) ∧
      exec (.dynRead .nextCount 0#10) s = .next ({ s with result := s.arena.nextCount }.ended [])) ∧
    (s.arena.validC = true →
      exec (.dynRead .nInfo 0#10) s = .next ({ s with
        result := (s.arena.n1.zeroExtend 32 <<< 16) ||| s.arena.nMax.zeroExtend 32 }.ended []))

/-- R268, R270, R285 (1) to (3), (5): DYN_UPDATE_C on a tree that obeys the laws of R285 and whose root is not saturated
completes; the tree obeys them again, the root and the symbol's leaf weigh one more, every other symbol's leaf weighs
what it did, and the P tree is untouched, its registers included. -/
def Obligations.DynUpdateCKeepsTreeLaws : Prop :=
  ∀ (s : State) (x : BitVec 9), s.estate ≠ .failed → s.arena.validC = true → s.arena.CTree →
    x.toNat < s.arena.nMax.toNat → s.arena.getFreq 0 < 0x8000 →
    ∃ a, exec (.dynUpdateC x) s = .next ({ s with arena := a }.ended []) ∧ a.CTree ∧ a.nMax = s.arena.nMax ∧
      a.n1 = s.arena.n1 ∧ a.validC = true ∧ a.getFreq 0 = s.arena.getFreq 0 + 1 ∧
      (∀ y, y < s.arena.nMax.toNat → a.weight y = if y = x.toNat then s.arena.weight y + 1 else s.arena.weight y) ∧
      s.arena.sameP a

/-- R269, R271, R275, R277, R285 (1) to (3), (5): DYN_UPDATE_P of a present position and DYN_NEW_NODE of the next one, on a
grown P tree that obeys the laws of R285 and is not saturated, complete; the tree obeys them again, TOTAL_P and the
position's leaf count one more (the new position's leaf weighs 1), every other position's leaf weighs what it did, and
the C tree, NN and NEXTCOUNT are untouched. -/
def Obligations.DynUpdatePKeepsTreeLaws : Prop :=
  ∀ (s : State) (x : BitVec 7), s.estate ≠ .failed → s.arena.validP = true → s.arena.PTree →
    s.arena.totalP.toNat < 0x8000 →
    (x.toNat ≤ (s.arena.mostP.toNat - 628) / 2 →
      ∃ a, exec (.dynUpdateP x) s = .next ({ s with arena := a }.ended []) ∧ a.PTree ∧ s.arena.sameC a ∧
        a.mostP = s.arena.mostP ∧ a.totalP = s.arena.totalP + 1 ∧ a.nn = s.arena.nn ∧ a.nextCount = s.arena.nextCount ∧
        a.validP = true ∧
        ∀ y, y ≤ (s.arena.mostP.toNat - 628) / 2 →
          a.weight (314 + y) = if y = x.toNat then s.arena.weight (314 + y) + 1 else s.arena.weight (314 + y)) ∧
    (x.toNat = (s.arena.mostP.toNat - 628) / 2 + 1 → s.arena.mostP.toNat + 2 < 884 →
      ∃ a, exec (.dynNewNode x) s = .next ({ s with arena := a }.ended []) ∧ a.PTree ∧ s.arena.sameC a ∧
        a.mostP = s.arena.mostP + 2 ∧ a.totalP = s.arena.totalP + 1 ∧ a.nn = s.arena.nn ∧
        a.nextCount = s.arena.nextCount ∧ a.validP = true ∧ a.weight (314 + x.toNat) = 1 ∧
        ∀ y, y ≤ (s.arena.mostP.toNat - 628) / 2 → a.weight (314 + y) = s.arena.weight (314 + y))

/-- R279, R280, R281, R276: from a source that has nothing left to give, DYN_DECODE_C reads the bits from the root to a
symbol's leaf and then does what DYN_UPDATE_C of the symbol does, N1 with eight bits more; DYN_DECODE_P without growth
due does so with DYN_UPDATE_P of the position and six bits more. With growth due DYN_DECODE_P is DYN_NEW_NODE of
position NEXTCOUNT div 64, NEXTCOUNT raised by 64 (NEVER from NN on), and DYN_DECODE_P again. -/
def Obligations.DynDecodeWalks : Prop :=
  (∀ (s u : State) (x : BitVec 9) (bits : List Bool), s.reader.valid = true → s.reader.drained →
    x.toNat < s.arena.nMax.toNat → s.arena.spells 0 bits x.toNat → bits.length < 884 →
    s.reader.pos.toNat + bits.length < 2 ^ 64 → s.reader.startsWith s.reader.pos.toNat bits →
    s.completes (.dynUpdateC x) u →
    (x.toNat ≠ s.arena.n1.toNat → exec .dynDecodeC s = .next { u with
      reader := s.reader.advance bits.length, result := BitVec.ofNat 32 x.toNat }) ∧
    (x.toNat = s.arena.n1.toNat → exec .dynDecodeC s = .next { u with
      reader := s.reader.advance (bits.length + 8)
      result := BitVec.ofNat 32 (x.toNat + (s.reader.advance bits.length).peek 8) })) ∧
  (∀ (s u : State) (x : BitVec 7) (bits : List Bool), s.reader.valid = true → s.reader.drained →
    (s.arena.nextCount = 0xFFFFFFFF#32 ∨ s.decodeCount.toNat ≤ s.arena.nextCount.toNat) →
    s.arena.spells 628 bits (314 + x.toNat) → bits.length < 884 → s.reader.pos.toNat + bits.length < 2 ^ 64 →
    s.reader.startsWith s.reader.pos.toNat bits → s.completes (.dynUpdateP x) u →
    exec .dynDecodeP s = .next { u with
      reader := s.reader.advance (bits.length + 6)
      result := BitVec.ofNat 32 (x.toNat * 64 + (s.reader.advance bits.length).peek 6) }) ∧
  (∀ (s u v : State) (x : BitVec 7) (next : BitVec 32), s.cmd ≠ none → s.reader.valid = true →
    s.arena.nextCount ≠ 0xFFFFFFFF#32 → s.arena.nextCount.toNat < s.decodeCount.toNat →
    x.toNat = s.arena.nextCount.toNat / 64 → s.completes (.dynNewNode x) u →
    next = (if s.arena.nn.toNat ≤ (s.arena.nextCount + 64#32).toNat then 0xFFFFFFFF#32
      else s.arena.nextCount + 64#32) →
    exec .dynDecodeP { u with cmd := s.cmd, arena := { u.arena with nextCount := next } } = .next v → v.cmd = none →
    exec .dynDecodeP s = .next v)

/-- R266, R267, R268, R270, R279, R280: DYN_UPDATE_C and DYN_DECODE_C of a symbol whose block leader hangs from the root,
the decoding from a source that has nothing left to give: one bit chooses the leaf, the leaf's weight moves to the
leader, and N1 takes eight bits more. -/
def Obligations.DynDecodeCUnderRoot : Prop :=
  ∀ (s : State) (x : BitVec 9) (n q : Nat) (a : Arena), s.estate ≠ .failed → s.arena.validC = true →
    x.toNat < s.arena.nMax.toNat → x.toNat < 314 → s.arena.getFreq 0 ≠ 0x8000 →
    a = s.arena.setFreq 0 (s.arena.getFreq 0 + 1) → n = a.getSNode x.toNat → q = a.leader n →
    (if q ≠ n then a.swapBelow n q else a).getParent q = 0 →
    exec (.dynUpdateC x) s = .next ({ s with arena := (a.inc n).1 }.ended []) ∧
    (s.reader.valid = true → s.reader.drained → 2 ≤ s.arena.getChild 0 →
      s.arena.getChild 0 - (if s.reader.bit s.reader.pos.toNat then 1 else 0) = (n : Int) →
      s.arena.getChild n = -(x.toNat : Int) - 1 →
      (x.toNat ≠ s.arena.n1.toNat →
        exec .dynDecodeC s = .next ({ s.skipped 1 with
          arena := (a.inc n).1, result := BitVec.ofNat 32 x.toNat }.ended [])) ∧
      (x.toNat = s.arena.n1.toNat →
        exec .dynDecodeC s = .next ({ s.skipped 9 with
          arena := (a.inc n).1
          result := BitVec.ofNat 32 (x.toNat + (s.reader.advance 1).peek 8) }.ended [])))

/-- R269, R271, R275, R277, R281, R285 (5): the P tree of one position: DYN_UPDATE_P counts only in TOTAL_P, DYN_DECODE_P
without growth due reads no tree bit and six position bits, and DYN_NEW_NODE splits the root. At TOTAL_P = 0x8000 each
rebuilds first, so that TOTAL_P is 2 after it: what UpdateP's rebuild makes of a tree of one leaf is the model's reading
(log 26). -/
def Obligations.SinglePositionTree : Prop :=
  ∀ (s : State) (total : BitVec 16), s.estate ≠ .failed → s.arena.validP = true → s.arena.wf = true → s.arena.mostP = 628#10 →
    s.arena.getChild 628 = -315 → s.arena.getSNode 314 = 628 →
    (s.arena.totalP = 0x8000#16 → s.arena.getFreq 628 = 1) →
    total = (if s.arena.totalP = 0x8000#16 then 2#16 else s.arena.totalP + 1) →
    exec (.dynUpdateP 0#7) s = .next ({ s with
      arena := { s.arena with totalP := total } }.ended []) ∧
    (s.reader.valid = true → s.reader.drained →
      (s.arena.nextCount = 0xFFFFFFFF#32 ∨ s.decodeCount.toNat ≤ s.arena.nextCount.toNat) →
      exec .dynDecodeP s = .next ({ s.skipped 6 with
        arena := { s.arena with totalP := total }
        result := BitVec.ofNat 32 (s.reader.peek 6) }.ended [])) ∧
    (1 ≤ s.arena.getFreq 628 →
      ∃ a, exec (.dynNewNode 1#7) s = .next ({ s with arena := a }.ended []) ∧ a.mostP = 630#10 ∧
        a.getChild 628 = 630 ∧ a.getChild 629 = -315 ∧ a.getChild 630 = -316 ∧ a.getFreq 628 = 0xFFFF ∧
        a.getFreq 629 = s.arena.getFreq 628 ∧ a.getFreq 630 = 1 ∧ a.getParent 629 = 628 ∧ a.getParent 630 = 628 ∧
        a.getSNode 314 = 629 ∧ a.getSNode 315 = 630 ∧ a.totalP = total ∧
        a.nextCount = s.arena.nextCount ∧ a.nn = s.arena.nn ∧ a.nMax = s.arena.nMax ∧ a.n1 = s.arena.n1 ∧
        a.validC = s.arena.validC ∧ a.validP = true ∧
        (∀ j, j < 628 → a.getFreq j = s.arena.getFreq j ∧ a.getChild j = s.arena.getChild j ∧
          a.getParent j = s.arena.getParent j) ∧
        (∀ x, x < 314 → a.getSNode x = s.arena.getSNode x))

/-- R268, R269, R273, R274: the rebuild. The update of a saturated C tree (FREQ[0] = 0x8000) and of a grown, saturated P
tree (TOTAL_P = 0x8000) is DYN_RECONST and then the update. DYN_RECONST of a C tree as DYN_START_C leaves it gives the
initial tree again. Of a P tree of two positions it halves the weights, rounded up, TOTAL_P is their sum, the root
holds the sentinel, and the leaves keep their order. -/
def Obligations.DynReconstRebuilds : Prop :=
  (∀ (s u : State) (x : BitVec 9), s.arena.getFreq 0 = 0x8000 → x.toNat < s.arena.nMax.toNat → x.toNat < 314 →
    s.completes (.dynReconst 0#5) u → u.arena.getFreq 0 ≠ 0x8000 →
    exec (.dynUpdateC x) s = exec (.dynUpdateC x) { u with cmd := s.cmd }) ∧
  (∀ (s u : State) (x : BitVec 7), s.arena.totalP = 0x8000#16 → s.arena.mostP ≠ 628#10 →
    x.toNat ≤ (s.arena.mostP.toNat - 628) / 2 → s.completes (.dynReconst 1#5) u → u.arena.totalP ≠ 0x8000#16 →
    exec (.dynUpdateP x) s = exec (.dynUpdateP x) { u with cmd := s.cmd }) ∧
  (∀ (s : State) (a : Arena), s.estate ≠ .failed → a.wf = true →
    s.arena = startC 314 60 a ∨ s.arena = startC 286 256 a →
    exec (.dynReconst 0#5) s = .next (s.ended [])) ∧
  (∀ s : State, s.estate ≠ .failed → s.arena.validP = true → s.arena.wf = true → s.arena.mostP = 630#10 →
    s.arena.getChild 628 = 630 →
    (s.arena.getChild 629 = -315 ∧ s.arena.getChild 630 = -316 ∨
      s.arena.getChild 629 = -316 ∧ s.arena.getChild 630 = -315) →
    ∃ a, exec (.dynReconst 1#5) s = .next ({ s with arena := a }.ended []) ∧ a.mostP = 630#10 ∧
      a.getChild 628 = 630 ∧ a.getChild 629 = s.arena.getChild 629 ∧ a.getChild 630 = s.arena.getChild 630 ∧
      a.getFreq 629 = (s.arena.getFreq 629 + 1) / 2 ∧ a.getFreq 630 = (s.arena.getFreq 630 + 1) / 2 ∧
      a.totalP = BitVec.ofNat 16 (a.getFreq 629 + a.getFreq 630) ∧ a.getFreq 628 = 0xFFFF ∧
      a.getParent 629 = 628 ∧ a.getParent 630 = 628 ∧
      a.getSNode (leafSymbol (s.arena.getChild 629)) = 629 ∧ a.getSNode (leafSymbol (s.arena.getChild 630)) = 630 ∧
      (∀ j, j < 628 → a.getFreq j = s.arena.getFreq j ∧ a.getChild j = s.arena.getChild j ∧
        a.getParent j = s.arena.getParent j) ∧
      (∀ x, x < 314 → a.getSNode x = s.arena.getSNode x))

/-- R273, R274, R285 (1) to (3), (5): DYN_RECONST of a C tree, and of a grown P tree, that obeys the laws of R285 completes;
the tree obeys them again, every symbol's weight is halved, rounded up, the leaves keep their order in the node indices
(the tie-break), TOTAL_P is the sum of the two halves, and the other tree is untouched. -/
def Obligations.DynReconstKeepsTreeLaws : Prop :=
  (∀ s : State, s.estate ≠ .failed → s.arena.validC = true → s.arena.CTree →
    ∃ a, exec (.dynReconst 0#5) s = .next ({ s with arena := a }.ended []) ∧ a.CTree ∧ s.arena.sameP a ∧
      a.nMax = s.arena.nMax ∧ a.n1 = s.arena.n1 ∧ a.validC = true ∧
      (∀ y, y < s.arena.nMax.toNat → a.weight y = (s.arena.weight y + 1) / 2) ∧
      ∀ x y, x < s.arena.nMax.toNat → y < s.arena.nMax.toNat → s.arena.getSNode x < s.arena.getSNode y →
        a.getSNode x < a.getSNode y) ∧
  (∀ s : State, s.estate ≠ .failed → s.arena.validP = true → s.arena.PTree →
    ∃ a, exec (.dynReconst 1#5) s = .next ({ s with arena := a }.ended []) ∧ a.PTree ∧ s.arena.sameC a ∧
      a.mostP = s.arena.mostP ∧ a.totalP = BitVec.ofNat 16 (a.getFreq 629 + a.getFreq 630) ∧ a.nn = s.arena.nn ∧
      a.nextCount = s.arena.nextCount ∧ a.validP = true ∧
      (∀ y, y ≤ s.arena.lastPosition → a.weight (314 + y) = (s.arena.weight (314 + y) + 1) / 2) ∧
      ∀ x y, x ≤ s.arena.lastPosition → y ≤ s.arena.lastPosition →
        s.arena.getSNode (314 + x) < s.arena.getSNode (314 + y) → a.getSNode (314 + x) < a.getSNode (314 + y))

/-! ### Window -/

/-- R301: WIN_INIT. -/
def Obligations.WinInitOpensWindow : Prop :=
  ∀ (s : State) (k : BitVec 5), s.estate ≠ .failed → 1 ≤ k.toNat → k.toNat ≤ 16 → s.ramsWf = true →
    ∃ x, exec (.winInit k) s = .next ({ s with dicbit := k, window := x }.ended []) ∧ x.valid = true ∧
      x.loc = 0#16 ∧ x.mask.toNat + 1 = 2 ^ k.toNat ∧
      ∀ a, x.read a = if a ≤ x.mask.toNat then s.fill else s.window.read a

/-- R302, R303, R307: WIN_LITERAL before the last byte of the window, and at it, where the whole window is emitted. -/
def Obligations.WinLiteralWrites : Prop :=
  ∀ (s : State) (b : BitVec 8) (x : Window), s.estate ≠ .failed → s.window.valid = true → s.ramsWf = true →
    x = s.window.write s.window.loc.toNat b →
    (∀ a, x.read a = if a = s.window.loc.toNat then b else s.window.read a) ∧
    (s.window.loc.toNat < s.window.mask.toNat →
      exec (.winLiteral b) s = .next ({ s with
        window := { x with loc := s.window.loc + 1 }, decodeCount := s.decodeCount + 1 }.ended [])) ∧
    (s.window.loc = s.window.mask → s.sinkRoom = none →
      exec (.winLiteral b) s = .next ({ s.emitted (x.first (s.window.mask.toNat + 1)) with
        window := { x with loc := 0#16 }, decodeCount := s.decodeCount + 1
        }.ended (emitEvents (x.first (s.window.mask.toNat + 1)))))

/-- R302, R304, R305, R312 (1) to (3): WIN_MATCH. Within the window, a byte nearer than the distance comes from the window
as it was, every later one repeats the byte a distance before it, and no other byte of DIC changes. For every length
and every legal distance, masked where it is above the window's size, and with as many wraps as the length makes, where
the sink takes every byte: the bytes written are those of the same rule; the emitted bytes and then the window's bytes
before the cursor are what stood before the cursor and then the bytes written; they come in whole windows; the rest of
the window holds its last lap. DECODE_COUNT grows by the length. -/
def Obligations.WinMatchCopies : Prop :=
  (∀ (s : State) (n : BitVec 9) (d : Nat), s.estate ≠ .failed → s.window.valid = true → s.WindowInv →
    s.ramsWf = true → d = s.arg.toNat % 2 ^ 17 → 1 ≤ d → d ≤ s.window.mask.toNat + 1 →
    s.window.loc.toNat + n.toNat ≤ s.window.mask.toNat →
    ∃ x, exec (.winMatch n) s = .next ({ s with
        window := x, decodeCount := s.decodeCount + BitVec.ofNat 64 n.toNat }.ended []) ∧
      x.valid = true ∧ x.mask = s.window.mask ∧ x.loc.toNat = s.window.loc.toNat + n.toNat ∧
      (∀ a, a < s.window.loc.toNat ∨ s.window.loc.toNat + n.toNat ≤ a → x.read a = s.window.read a) ∧
      ∀ k, k < n.toNat → x.read (s.window.loc.toNat + k) =
        if k < d then s.window.read ((s.window.loc.toNat + (s.window.mask.toNat + 1) - d + k) % (s.window.mask.toNat + 1))
        else x.read (s.window.loc.toNat + k - d)) ∧
  (∀ (s : State) (n : BitVec 9) (size d : Nat), s.estate ≠ .failed → s.window.valid = true → s.WindowInv →
    s.ramsWf = true → s.sinkRoom = none → 1 ≤ s.arg.toNat % 2 ^ 17 → s.arg.toNat % 2 ^ 17 ≤ 65536 →
    size = s.window.mask.toNat + 1 → d = (s.arg.toNat % 2 ^ 17 - 1) % size + 1 →
    ∃ (x : Window) (out written : List Byte),
      exec (.winMatch n) s = .next ({ s.emitted out with
        window := x, decodeCount := s.decodeCount + BitVec.ofNat 64 n.toNat }.ended (emitEvents out)) ∧
      x.valid = true ∧ x.mask = s.window.mask ∧ x.loc.toNat ≤ s.window.mask.toNat ∧ written.length = n.toNat ∧
      (∀ k, k < n.toNat → written.getD k 0#8 =
        if k < d then s.window.read ((s.window.loc.toNat + size - d + k) % size) else written.getD (k - d) 0#8) ∧
      s.window.first s.window.loc.toNat ++ written = out ++ x.first x.loc.toNat ∧ size ∣ out.length ∧
      (∀ a, x.loc.toNat ≤ a → a < size →
        x.read a = if out = [] then s.window.read a else out.getD (out.length - size + a) 0#8) ∧
      ∀ a, size ≤ a → x.read a = s.window.read a)

/-- R308, R309: WIN_FLUSH emits the bytes before the cursor, each once and in order, and closes the window; WIN_READ reads one
byte. -/
def Obligations.WinFlushAndRead : Prop :=
  (∀ s : State, s.estate ≠ .failed → s.window.valid = true → s.sinkRoom = none →
    exec .winFlush s = .next ({ s.emitted (s.window.first s.window.loc.toNat) with
      window := { s.window with valid := false } }.ended (emitEvents (s.window.first s.window.loc.toNat)))) ∧
  (∀ (s : State) (i : BitVec 16), s.estate ≠ .failed → s.window.valid = true → i.toNat ≤ s.window.mask.toNat →
    exec (.winRead i) s = .next ({ s with result := (s.window.read i.toNat).zeroExtend 32 }.ended []))

/-! ### The whole machine -/

/-- R37, R345 (4), R468: whatever a command does, it writes none of the host's registers CTRL, PACKED, ORIG and ARG and
nothing of the host's own; and one that ends without failing leaves ESTATE as it is, but for ENTRY_START, RUN, FINISH
and SOFT_RESET. -/
def Obligations.CommandsKeepHostRegisters : Prop :=
  ∀ (s t : State) (i : Instr), exec i s = .next t →
    s.sameHostRegs t ∧ t.schedule = s.schedule ∧ t.reads = s.reads ∧
    (t.estate ≠ .failed → i ≠ .entryStart → i ≠ .run → i ≠ .finish → i ≠ .softReset → t.estate = s.estate)

/-- R312 (4), R42–R44: the frame of the RAMs: a command that does not fail writes only the RAMs of its own unit. -/
def Obligations.CommandsKeepOtherUnits : Prop :=
  ∀ (s t : State) (i : Instr), exec i s = .next t → t.estate ≠ .failed →
    ((∀ b, i ≠ .winLiteral b) → (∀ n, i ≠ .winMatch n) → (∀ k, i ≠ .winInit k) → i ≠ .entryStart → i ≠ .step →
      i ≠ .run → t.window.dic = s.window.dic) ∧
    ((∀ k, i ≠ .dynStartC k) → (∀ k, i ≠ .dynStartP k) → i ≠ .dynDecodeC → i ≠ .dynDecodeP → (∀ x, i ≠ .dynUpdateC x) →
      (∀ x, i ≠ .dynUpdateP x) → (∀ k, i ≠ .dynReconst k) → (∀ x, i ≠ .dynNewNode x) → i ≠ .entryStart → i ≠ .decC →
      i ≠ .decP → i ≠ .step → i ≠ .run →
      t.arena.freq = s.arena.freq ∧ t.arena.child = s.arena.child ∧ t.arena.parent = s.arena.parent ∧
        t.arena.sNode = s.arena.sNode) ∧
    ((∀ l, i ≠ .lenClear l) → (∀ l j v, i ≠ .lenWrite l j v) → (∀ l c x, i ≠ .htBuild l c x) →
      (∀ l c x, i ≠ .htFill l c x) → (∀ m c, i ≠ .htReadyMade m c) → (∀ c w x, i ≠ .nsReadPt c w x) → i ≠ .nsReadC →
      i ≠ .st0ReadC → i ≠ .st0ReadP → i ≠ .entryStart → i ≠ .decC → i ≠ .blkStart → i ≠ .step → i ≠ .run →
      t.tabC.len = s.tabC.len ∧ t.tabC.table = s.tabC.table ∧ t.tabC.left = s.tabC.left ∧ t.tabC.right = s.tabC.right ∧
        t.tabPt.len = s.tabPt.len ∧ t.tabPt.table = s.tabPt.table ∧ t.tabPt.left = s.tabPt.left ∧
        t.tabPt.right = s.tabPt.right)

/-- R222, R224, R230, R231, R241, R270, R271, R274, R277, R280, R281: the frame of the commands that do not fail: the readers of
lengths change only their own table, the bit reader and its requests; the adaptive commands only the arena and, where
they decode, RESULT, the bit reader and its requests. -/
def Obligations.DecoderUnitsFrame : Prop :=
  (∀ (s t : State) (i : Instr),
    (∃ c w x, i = .nsReadPt c w x) ∨ i = .nsReadC ∨ i = .st0ReadC ∨ i = .st0ReadP ∨ (∃ m c, i = .htReadyMade m c) →
    exec i s = .next t → t.estate ≠ .failed →
    s.sameStatus t ∧ s.sameEntry t ∧ t.result = s.result ∧ t.blockSize = s.blockSize ∧ t.arena = s.arena ∧
      t.window = s.window ∧
      (i = .nsReadC ∨ i = .st0ReadC → t.tabPt = s.tabPt) ∧ (i ≠ .nsReadC → i ≠ .st0ReadC → t.tabC = s.tabC) ∧
      t.reader.packed = s.reader.packed ∧ t.reader.valid = s.reader.valid ∧ t.draws = s.draws) ∧
  (∀ (s t : State) (i : Instr),
    (∃ x, i = .dynUpdateC x) ∨ (∃ x, i = .dynUpdateP x) ∨ (∃ k, i = .dynReconst k) ∨ (∃ x, i = .dynNewNode x) ∨
      i = .dynDecodeC ∨ i = .dynDecodeP →
    exec i s = .next t → t.estate ≠ .failed →
    s.sameStatus t ∧ s.sameEntry t ∧ t.blockSize = s.blockSize ∧ t.tabC = s.tabC ∧ t.tabPt = s.tabPt ∧
      t.window = s.window ∧ t.reader.packed = s.reader.packed ∧ t.reader.valid = s.reader.valid ∧
      t.arena.validC = s.arena.validC ∧ t.arena.validP = s.arena.validP ∧ t.arena.nMax = s.arena.nMax ∧
      t.arena.n1 = s.arena.n1 ∧ t.arena.nn = s.arena.nn ∧
      (i ≠ .dynDecodeC → i ≠ .dynDecodeP → t.result = s.result ∧ t.reader = s.reader ∧ t.source = s.source))

/-- R302, R304, R338, R339, R340, R341: the frame of the window and token commands that do not fail. -/
def Obligations.TokenCommandsFrame : Prop :=
  ∀ (s t : State) (i : Instr), exec i s = .next t → t.estate ≠ .failed →
    ((∃ b, i = .winLiteral b) ∨ (∃ n, i = .winMatch n) →
      s.sameStatus t ∧ t.reader = s.reader ∧ t.tabC = s.tabC ∧ t.tabPt = s.tabPt ∧ t.arena = s.arena ∧
        t.blockSize = s.blockSize ∧ t.result = s.result ∧ t.source = s.source ∧ t.eMethod = s.eMethod ∧
        t.eFill = s.eFill ∧ t.np = s.np ∧ t.pbit = s.pbit ∧ t.dicbit = s.dicbit ∧ t.window.mask = s.window.mask) ∧
    (i = .decC ∨ i = .decP ∨ i = .blkStart →
      s.sameStatus t ∧ s.sameEntry t ∧ t.window = s.window ∧ t.reader.packed = s.reader.packed) ∧
    (i = .step → s.sameStatus t ∧ t.eMethod = s.eMethod ∧ t.eFill = s.eFill ∧ t.np = s.np ∧ t.pbit = s.pbit ∧
      t.dicbit = s.dicbit ∧ t.window.mask = s.window.mask ∧ t.reader.packed = s.reader.packed) ∧
    (i = .run → t.err = s.err ∧ t.errcode = s.errcode ∧ t.dropped = s.dropped ∧ t.eMethod = s.eMethod ∧
      t.eFill = s.eFill ∧ t.np = s.np ∧ t.pbit = s.pbit ∧ t.dicbit = s.dicbit ∧ t.reader.packed = s.reader.packed)

/-- R84, R156, R468: the requests that a command makes are for the next bytes, in increasing order, none twice, none at
or beyond the packed size and none after an `End` answer; BR_INIT and ENTRY_START, which begin an epoch, apart. -/
def Obligations.RequestsInOrder : Prop :=
  ∀ (s t : State) (i : Instr), s.reader.Inv → i ≠ .brInit → i ≠ .entryStart → s.cmd ≠ none → exec i s = .next t →
    t.cmd = none →
    ∃ es n, t.trace = es ++ s.trace ∧ s.reader.inCount.toNat + n ≤ s.reader.packed.toNat ∧
      (s.reader.endAt.isSome = true → n = 0) ∧
      (es.filter fun e => match e with | .request _ => true | .emit _ => false) =
        requestEvents s.reader.inCount.toNat n

/-- R466, R330: every command ends where the sink takes every byte and the source answers every request: at most one answer
for each byte of the packed size that the reader has not received, and at most two for a command that begins an
epoch. -/
def Obligations.EveryCommandEnds : Prop :=
  ∀ (s : State) (i : Instr), s.reader.Inv → s.sinkRoom = none →
    (if i = .brInit ∨ i = .entryStart then 2 ≤ s.source.length
      else s.reader.endAt.isSome = true ∨ s.reader.packed.toNat - s.reader.inCount.toNat ≤ s.source.length) →
    ∃ t, exec i s = .next t ∧ t.cmd = none

/-! ### Invariants -/

/-- R81, R42–R44: every step keeps every RAM in its canonical form, so no element outside a RAM is ever written. The
canonical form is the model's own. -/
def Obligations.StepKeepsRamsCanonical : Prop :=
  ∀ s t : State, s.ramsWf = true → step s = .next t → t.ramsWf = true

/-- R34, R45, R402: every step keeps what the status bits say of each other. -/
def Obligations.StepKeepsStatusConsistent : Prop :=
  ∀ s t : State, s.StatusInv → step s = .next t → t.StatusInv

/-- R44, R300, R84, R156, R46, R195, R261, R276: every step keeps the open window's shape, the reader's count inside the packed
size with the look-ahead held, the registers of the valid tables and of the adaptive trees in range, and np at most 128.
The clause on np is the model's choice: R51 gives np the range 0 to 17 where R334 stores 64 and 128 (log 12), and after
SOFT_RESET and the reset input, where R450 leaves np unspecified, the model has 0 (log 10). -/
def Obligations.StepKeepsUnitsInRange : Prop :=
  ∀ s t : State, step s = .next t →
    (s.WindowInv → t.WindowInv) ∧ (s.reader.Inv → t.reader.Inv) ∧ (s.TablesInv → t.TablesInv) ∧
    (s.arena.Inv → t.arena.Inv)

/-- R450: the invariants hold after reset. That the RAMs are in canonical form there (log 11) and that np is at most 128
(log 10) is the model's choice: R450 leaves both unspecified. -/
def Obligations.ResetMeetsInvariants : Prop :=
  State.reset.ramsWf = true ∧ State.reset.StatusInv ∧ State.reset.WindowInv ∧ State.reset.reader.Inv ∧
    State.reset.TablesInv ∧ State.reset.arena.Inv
end

