-- ==== Sys2Proof/Laws/Cells.lean ====
section
/-! SUPPORT. The laws of the RAM cells: a read after a write, and that every operation keeps the canonical form. -/

namespace Sys2Proof.Laws

open Sys2Proof.Machine

section Cells

variable {α : Type} [DecidableEq α] {size : Nat} {d : α}

omit [DecidableEq α] in
@[simp] theorem cellGet_nil (a : Nat) : cellGet d [] a = d := rfl

@[simp] theorem cellsWfFrom_nil (lo : Nat) : cellsWfFrom size d lo [] = true := rfl

theorem cellsWfFrom_cons {lo a : Nat} {v : α} {m : List (Nat × α)} :
    cellsWfFrom size d lo ((a, v) :: m) = true ↔
      lo ≤ a ∧ a < size ∧ v ≠ d ∧ cellsWfFrom size d (a + 1) m = true := by
  simp [cellsWfFrom, and_assoc]

theorem cellsWfFrom_mono {lo lo' : Nat} {m : List (Nat × α)} (h : lo' ≤ lo) (w : cellsWfFrom size d lo m = true) :
    cellsWfFrom size d lo' m = true := by
  cases m with
  | nil => rfl
  | cons c m =>
    obtain ⟨a, v⟩ := c
    rw [cellsWfFrom_cons] at w ⊢
    exact ⟨h.trans w.1, w.2⟩

/-- Below its first element number a canonical RAM reads as the default. -/
theorem cellGet_below {lo a : Nat} {m : List (Nat × α)} (w : cellsWfFrom size d lo m = true) (h : a < lo) :
    cellGet d m a = d := by
  cases m with
  | nil => rfl
  | cons c m =>
    obtain ⟨b, v⟩ := c
    rw [cellsWfFrom_cons] at w
    have hb : a < b := by omega
    simp [cellGet, hb, Nat.ne_of_lt hb]

/-- At and above its size a canonical RAM reads as the default. -/
theorem cellGet_above {a : Nat} (h : size ≤ a) :
    ∀ {lo : Nat} {m : List (Nat × α)}, cellsWfFrom size d lo m = true → cellGet d m a = d
  | _, [], _ => rfl
  | lo, (b, v) :: m, w => by
    rw [cellsWfFrom_cons] at w
    have hb : ¬ a < b := by omega
    have hn : a ≠ b := by omega
    simp [cellGet, hb, hn, cellGet_above h w.2.2.2]

/-- A read of the element just written. -/
theorem cellGet_cellPut_same {a : Nat} {v : α} :
    ∀ {lo : Nat} {m : List (Nat × α)}, cellsWfFrom size d lo m = true → cellGet d (cellPut d m a v) a = v
  | _, [], _ => by
    unfold cellPut
    split <;> simp_all [cellGet]
  | lo, (b, w) :: m, h => by
    rw [cellsWfFrom_cons] at h
    unfold cellPut
    split
    · rename_i hab
      split
      · rename_i hv
        simp [cellGet, hab, Nat.ne_of_lt hab, hv]
      · simp [cellGet]
    · split
      · rename_i hab
        split
        · rename_i hv
          rw [hv]
          exact cellGet_below h.2.2.2 (by omega)
        · simp [cellGet]
      · rename_i h1 h2
        simp [cellGet, h1, h2, cellGet_cellPut_same h.2.2.2]

/-- A read of another element. -/
theorem cellGet_cellPut_other {a c : Nat} {v : α} (hc : c ≠ a) :
    ∀ {lo : Nat} {m : List (Nat × α)}, cellsWfFrom size d lo m = true →
      cellGet d (cellPut d m a v) c = cellGet d m c
  | _, [], _ => by
    unfold cellPut
    split <;> simp [cellGet, hc]
  | lo, (b, w) :: m, h => by
    rw [cellsWfFrom_cons] at h
    unfold cellPut
    split
    · rename_i hab
      split
      · rfl
      · by_cases h1 : c < a
        · have h2 : c < b := by omega
          simp [cellGet, hc, h1, h2, Nat.ne_of_lt h2]
        · simp [cellGet, hc, h1]
    · split
      · rename_i hab
        subst hab
        split
        · by_cases h1 : c < a
          · rw [cellGet_below h.2.2.2 (by omega)]
            simp [cellGet, hc, h1]
          · simp [cellGet, hc, h1]
        · simp [cellGet, hc]
      · rename_i h1 h2
        simp [cellGet, cellGet_cellPut_other hc h.2.2.2]

/-- A write keeps the canonical form. -/
theorem cellPut_wf {a : Nat} {v : α} (ha : a < size) :
    ∀ {lo : Nat} {m : List (Nat × α)}, lo ≤ a → cellsWfFrom size d lo m = true →
      cellsWfFrom size d lo (cellPut d m a v) = true
  | lo, [], hl, _ => by
    unfold cellPut
    split
    · rfl
    · rename_i hv
      rw [cellsWfFrom_cons]
      exact ⟨hl, ha, hv, rfl⟩
  | lo, (b, w) :: m, hl, h => by
    have h' := h
    rw [cellsWfFrom_cons] at h
    unfold cellPut
    split
    · rename_i hab
      split
      · exact h'
      · rename_i hv
        rw [cellsWfFrom_cons, cellsWfFrom_cons]
        exact ⟨hl, ha, hv, hab, h.2⟩
    · split
      · rename_i hab
        subst hab
        split
        · exact cellsWfFrom_mono (by omega) h.2.2.2
        · rename_i hv
          rw [cellsWfFrom_cons]
          exact ⟨hl, ha, hv, h.2.2.2⟩
      · rw [cellsWfFrom_cons]
        exact ⟨h.1, h.2.1, h.2.2.1, cellPut_wf ha (by omega) h.2.2.2⟩

theorem cellWrite_wf {m : List (Nat × α)} (a : Nat) (v : α) (h : cellsWf size d m = true) :
    cellsWf size d (cellWrite size d m a v) = true := by
  unfold cellWrite
  split
  · rename_i ha
    exact cellPut_wf ha (Nat.zero_le a) h
  · exact h

theorem cellGet_cellWrite_same {m : List (Nat × α)} {a : Nat} {v : α} (ha : a < size)
    (h : cellsWf size d m = true) : cellGet d (cellWrite size d m a v) a = v := by
  simp [cellWrite, ha, cellGet_cellPut_same h]

theorem cellGet_cellWrite_other {m : List (Nat × α)} {a c : Nat} {v : α} (hc : c ≠ a)
    (h : cellsWf size d m = true) : cellGet d (cellWrite size d m a v) c = cellGet d m c := by
  unfold cellWrite
  split
  · exact cellGet_cellPut_other hc h
  · rfl

/-- What a write leaves readable at every element, in one line. -/
theorem cellGet_cellWrite {m : List (Nat × α)} {a c : Nat} {v : α} (h : cellsWf size d m = true) :
    cellGet d (cellWrite size d m a v) c = if c = a ∧ a < size then v else cellGet d m c := by
  by_cases hc : c = a
  · subst hc
    by_cases ha : c < size
    · simp [ha, cellGet_cellWrite_same ha h]
    · simp [ha, cellWrite]
  · simp [hc, cellGet_cellWrite_other hc h]

/-! ### Runs and fills -/

/-- A list whose element numbers all lie in `lo … hi − 1`, in front of one that is canonical from `hi` on. -/
theorem cellsWfFrom_append {hi : Nat} {r : List (Nat × α)} (wr : cellsWfFrom size d hi r = true) :
    ∀ {lo : Nat} {m : List (Nat × α)}, lo ≤ hi → cellsWfFrom (min hi size) d lo m = true →
      cellsWfFrom size d lo (m ++ r) = true
  | lo, [], h, _ => cellsWfFrom_mono h wr
  | lo, (a, v) :: m, h, w => by
    rw [cellsWfFrom_cons] at w
    rw [List.cons_append, cellsWfFrom_cons]
    exact ⟨w.1, by omega, w.2.2.1, cellsWfFrom_append wr (by omega) w.2.2.2⟩

theorem cellGet_append {hi a : Nat} {r : List (Nat × α)} :
    ∀ {lo : Nat} {m : List (Nat × α)}, cellsWfFrom hi d lo m = true → cellsWfFrom size d hi r = true →
      cellGet d (m ++ r) a = if a < hi then cellGet d m a else cellGet d r a
  | lo, [], _, wr => by
    by_cases h : a < hi
    · simp [h, cellGet_below wr h]
    · simp [h]
  | lo, (b, v) :: m, w, wr => by
    rw [cellsWfFrom_cons] at w
    have ih := cellGet_append (a := a) w.2.2.2 wr
    simp only [List.cons_append, cellGet]
    by_cases h1 : a = b
    · simp [h1, w.2.1]
    · by_cases h2 : a < b
      · have h3 : a < hi := by omega
        simp [h1, h2, h3]
      · simp [h1, h2, ih]

theorem cellRun_wf {lo n : Nat} (v : α) : cellsWfFrom (lo + n) d lo (cellRun d lo n v) = true := by
  unfold cellRun
  split
  · rfl
  · rename_i hv
    have key : ∀ k lo', lo' + k = lo + n →
        cellsWfFrom (lo + n) d lo' ((List.range' lo' k).map fun a => (a, v)) = true := by
      intro k
      induction k with
      | zero => intro lo' _; rfl
      | succ k ih =>
        intro lo' h
        rw [List.range'_succ, List.map_cons, cellsWfFrom_cons]
        exact ⟨Nat.le_refl _, by omega, hv, ih (lo' + 1) (by omega)⟩
    exact key n lo rfl

theorem cellGet_cellRun {lo n a : Nat} {v : α} :
    cellGet d (cellRun d lo n v) a = if lo ≤ a ∧ a < lo + n then v else d := by
  unfold cellRun
  split
  · rename_i hv
    simp [hv]
  · have key : ∀ k lo', cellGet d ((List.range' lo' k).map fun a => (a, v)) a =
        if lo' ≤ a ∧ a < lo' + k then v else d := by
      intro k
      induction k with
      | zero => intro lo'; simp
      | succ k ih =>
        intro lo'
        rw [List.range'_succ, List.map_cons]
        simp only [cellGet, ih]
        by_cases h1 : a = lo'
        · simp [h1]
        · by_cases h2 : a < lo'
          · simp [h1, h2]
          · rw [if_neg h1, if_neg h2]
            exact if_congr (by omega) rfl rfl
    exact key n lo

theorem filter_below_wf {hi : Nat} :
    ∀ {lo : Nat} {m : List (Nat × α)}, cellsWfFrom size d lo m = true →
      cellsWfFrom (min hi size) d lo (m.filter fun c => decide (c.1 < hi)) = true
  | _, [], _ => rfl
  | lo, (a, v) :: m, w => by
    rw [cellsWfFrom_cons] at w
    by_cases h : a < hi
    · rw [List.filter_cons_of_pos (by simpa using h), cellsWfFrom_cons]
      exact ⟨w.1, by omega, w.2.2.1, filter_below_wf w.2.2.2⟩
    · rw [List.filter_cons_of_neg (by simpa using h)]
      exact cellsWfFrom_mono (by omega) (filter_below_wf w.2.2.2)

theorem filter_above_wf {hi : Nat} :
    ∀ {lo : Nat} {m : List (Nat × α)}, cellsWfFrom size d lo m = true →
      cellsWfFrom size d (max lo hi) (m.filter fun c => decide (hi ≤ c.1)) = true
  | _, [], _ => rfl
  | lo, (a, v) :: m, w => by
    rw [cellsWfFrom_cons] at w
    by_cases h : hi ≤ a
    · rw [List.filter_cons_of_pos (by simpa using h), cellsWfFrom_cons]
      exact ⟨by omega, w.2.1, w.2.2.1, cellsWfFrom_mono (by omega) (filter_above_wf (hi := hi) w.2.2.2)⟩
    · rw [List.filter_cons_of_neg (by simpa using h)]
      exact cellsWfFrom_mono (by omega) (filter_above_wf (hi := hi) w.2.2.2)

theorem cellGet_filter_below {hi a : Nat} (ha : a < hi) :
    ∀ {lo : Nat} {m : List (Nat × α)}, cellsWfFrom size d lo m = true →
      cellGet d (m.filter fun c => decide (c.1 < hi)) a = cellGet d m a
  | _, [], _ => rfl
  | lo, (b, v) :: m, w => by
    have w' := w
    rw [cellsWfFrom_cons] at w
    by_cases h : b < hi
    · rw [List.filter_cons_of_pos (by simpa using h)]
      simp [cellGet, cellGet_filter_below ha w.2.2.2]
    · rw [List.filter_cons_of_neg (by simpa using h), cellGet_filter_below ha w.2.2.2,
        cellGet_below w.2.2.2 (by omega)]
      have hab : a < b := by omega
      simp [cellGet, hab, Nat.ne_of_lt hab]

theorem cellGet_filter_above {hi a : Nat} (ha : hi ≤ a) :
    ∀ {lo : Nat} {m : List (Nat × α)}, cellsWfFrom size d lo m = true →
      cellGet d (m.filter fun c => decide (hi ≤ c.1)) a = cellGet d m a
  | _, [], _ => rfl
  | lo, (b, v) :: m, w => by
    rw [cellsWfFrom_cons] at w
    by_cases h : hi ≤ b
    · rw [List.filter_cons_of_pos (by simpa using h)]
      simp [cellGet, cellGet_filter_above ha w.2.2.2]
    · rw [List.filter_cons_of_neg (by simpa using h), cellGet_filter_above ha w.2.2.2]
      have h1 : a ≠ b := by omega
      have h2 : ¬ a < b := by omega
      simp [cellGet, h1, h2]

theorem cellFill_wf {m : List (Nat × α)} (lo n : Nat) (v : α) (h : cellsWf size d m = true) :
    cellsWf size d (cellFill size d m lo n v) = true := by
  unfold cellFill
  have hb := filter_below_wf (hi := lo) h
  have ha := filter_above_wf (hi := lo + min n (size - lo)) h
  rw [Nat.zero_max] at ha
  have hr : cellsWfFrom (min (lo + min n (size - lo)) size) d lo (cellRun d lo (min n (size - lo)) v) = true := by
    by_cases hs : lo ≤ size
    · rw [Nat.min_eq_left (by omega)]
      exact cellRun_wf v
    · have hz : min n (size - lo) = 0 := by omega
      rw [hz]
      unfold cellRun
      split <;> rfl
  have h1 := cellsWfFrom_append ha (by omega) hr
  rw [List.append_assoc]
  exact cellsWfFrom_append h1 (Nat.zero_le _) hb

theorem cellGet_cellFill {m : List (Nat × α)} {lo n a : Nat} {v : α} (h : cellsWf size d m = true) :
    cellGet d (cellFill size d m lo n v) a = if lo ≤ a ∧ a < lo + n ∧ a < size then v else cellGet d m a := by
  unfold cellFill
  have hb := filter_below_wf (hi := lo) h
  have ha := filter_above_wf (hi := lo + min n (size - lo)) h
  rw [Nat.zero_max] at ha
  have hr : cellsWfFrom (lo + min n (size - lo)) d lo (cellRun d lo (min n (size - lo)) v) = true := cellRun_wf v
  have hb' : cellsWfFrom lo d 0 (m.filter fun c => decide (c.1 < lo)) = true := by
    have hwiden : ∀ {k : Nat} {l : List (Nat × α)}, cellsWfFrom (min lo size) d k l = true →
        cellsWfFrom lo d k l = true := by
      intro k l
      induction l generalizing k with
      | nil => intro _; rfl
      | cons c l ih =>
        obtain ⟨b, w⟩ := c
        intro hw
        rw [cellsWfFrom_cons] at hw ⊢
        exact ⟨hw.1, by omega, hw.2.2.1, ih hw.2.2.2⟩
    exact hwiden hb
  rw [List.append_assoc]
  by_cases hl : a < lo
  · have hrest : cellsWfFrom (max size (lo + min n (size - lo))) d lo
        (cellRun d lo (min n (size - lo)) v ++ m.filter fun c => decide (lo + min n (size - lo) ≤ c.1)) = true := by
      have hup : ∀ {k : Nat} {l : List (Nat × α)}, cellsWfFrom size d k l = true →
          cellsWfFrom (max size (lo + min n (size - lo))) d k l = true := by
        intro k l
        induction l generalizing k with
        | nil => intro _; rfl
        | cons c l ih =>
          obtain ⟨b, w⟩ := c
          intro hw
          rw [cellsWfFrom_cons] at hw ⊢
          exact ⟨hw.1, by omega, hw.2.2.1, ih hw.2.2.2⟩
      refine cellsWfFrom_append (hup ha) (by omega) ?_
      rw [Nat.min_eq_left (by omega)]
      exact hr
    rw [cellGet_append hb' hrest]
    simp [hl, show ¬ lo ≤ a by omega, cellGet_filter_below hl h]
  · by_cases hs : lo ≤ size
    · have hr2 : cellsWfFrom (min (lo + min n (size - lo)) size) d lo
          (cellRun d lo (min n (size - lo)) v) = true := by
        rw [Nat.min_eq_left (by omega)]
        exact hr
      have hrest := cellsWfFrom_append ha (by omega) hr2
      rw [cellGet_append hb' hrest, if_neg hl, cellGet_append hr ha, cellGet_cellRun]
      by_cases hin : a < lo + min n (size - lo)
      · rw [if_pos hin, if_pos (by omega), if_pos (by omega)]
      · rw [if_neg hin, cellGet_filter_above (by omega) h, if_neg (by omega)]
    · have hz : min n (size - lo) = 0 := by omega
      have hrun : cellRun d lo 0 v = [] := by
        unfold cellRun
        split <;> rfl
      have ha' : cellsWfFrom size d lo (m.filter fun c => decide (lo ≤ c.1)) = true := by
        have := filter_above_wf (hi := lo) h
        rwa [Nat.zero_max] at this
      rw [hz, hrun, List.nil_append, Nat.add_zero, cellGet_append hb' ha', if_neg hl,
        cellGet_filter_above (by omega) h, if_neg (by omega)]

/-! ### A RAM given by a function -/

theorem cellsOf_wf (f : Nat → α) : cellsWf size d (cellsOf d size f) = true := by
  unfold cellsOf cellsWf
  rw [List.range_eq_range']
  have key : ∀ k lo, lo + k = size → cellsWfFrom size d lo
      ((List.range' lo k).filterMap fun a => if f a = d then none else some (a, f a)) = true := by
    intro k
    induction k with
    | zero => intro lo _; rfl
    | succ k ih =>
      intro lo h
      rw [List.range'_succ, List.filterMap_cons]
      split
      · exact cellsWfFrom_mono (by omega) (ih (lo + 1) (by omega))
      · rename_i p hp
        split at hp
        · cases hp
        · rename_i hne
          cases hp
          rw [cellsWfFrom_cons]
          exact ⟨Nat.le_refl _, by omega, hne, ih (lo + 1) (by omega)⟩
  exact key size 0 (by omega)

/-! ### Equal contents are equal data -/

/-- Two canonical RAMs that read alike everywhere are the same list. -/
theorem cells_ext : ∀ {lo : Nat} {m n : List (Nat × α)}, cellsWfFrom size d lo m = true → cellsWfFrom size d lo n = true →
    (∀ a, cellGet d m a = cellGet d n a) → m = n
  | _, [], [], _, _, _ => rfl
  | _, [], (b, v) :: n, _, hn, h => by
    rw [cellsWfFrom_cons] at hn
    have := h b
    simp [cellGet] at this
    exact absurd this.symm hn.2.2.1
  | _, (a, u) :: m, [], hm, _, h => by
    rw [cellsWfFrom_cons] at hm
    have := h a
    simp [cellGet] at this
    exact absurd this hm.2.2.1
  | lo, (a, u) :: m, (b, v) :: n, hm, hn, h => by
    rw [cellsWfFrom_cons] at hm hn
    have hab : a = b := by
      rcases Nat.lt_trichotomy a b with hlt | heq | hlt
      · have := h a
        simp [cellGet, hlt, Nat.ne_of_lt hlt] at this
        exact absurd this hm.2.2.1
      · exact heq
      · have := h b
        simp [cellGet, hlt, Nat.ne_of_lt hlt] at this
        exact absurd this.symm hn.2.2.1
    subst hab
    have huv : u = v := by simpa [cellGet] using h a
    subst huv
    refine congrArg _ (cells_ext hm.2.2.2 hn.2.2.2 fun c => ?_)
    rcases Nat.lt_or_ge c (a + 1) with hc | hc
    · rw [cellGet_below hm.2.2.2 hc, cellGet_below hn.2.2.2 hc]
    · have := h c
      simpa [cellGet, show c ≠ a by omega, show ¬ c < a by omega] using this

/-! ### The least element of a value -/

/-- `cellFirst` answers at most `p`. -/
theorem cellFirst_le {v : α} {p : Nat} : ∀ {lo : Nat} {m : List (Nat × α)}, cellFirst d v p lo m ≤ p
  | lo, [] => by
    unfold cellFirst
    split <;> omega
  | lo, (b, w) :: m => by
    unfold cellFirst
    split
    · exact cellFirst_le
    · split
      · omega
      · split
        · omega
        · exact cellFirst_le

/-- `cellFirst` answers the least element from `lo` on, below `p`, that holds `v`, and `p` where there is none. -/
theorem cellFirst_spec {v : α} {p : Nat} :
    ∀ {lo : Nat} {m : List (Nat × α)}, lo ≤ p → cellsWfFrom size d lo m = true →
      lo ≤ cellFirst d v p lo m ∧
      (cellFirst d v p lo m < p → cellGet d m (cellFirst d v p lo m) = v) ∧
      ∀ x, lo ≤ x → x < cellFirst d v p lo m → cellGet d m x ≠ v
  | lo, [], hp, _ => by
    unfold cellFirst
    split
    · rename_i hv
      exact ⟨by omega, fun _ => by simp [hv], fun x h1 h2 => by omega⟩
    · rename_i hv
      exact ⟨hp, fun h => by omega, fun x _ _ => by simpa using fun h => hv h.symm⟩
  | lo, (b, w) :: m, hp, h => by
    rw [cellsWfFrom_cons] at h
    have hb : ¬ b < lo := by omega
    unfold cellFirst
    rw [if_neg hb]
    split
    · rename_i hv
      refine ⟨by omega, fun _ => ?_, fun x h1 h2 => by omega⟩
      have hlo : min lo p = lo := by omega
      rw [hlo]
      simp [cellGet, hv.1, hv.2, Nat.ne_of_lt hv.2]
    · rename_i hv
      have hbelow : ∀ x, lo ≤ x → x < b → cellGet d ((b, w) :: m) x ≠ v := by
        intro x h1 h2
        have hx : cellGet d ((b, w) :: m) x = d := by simp [cellGet, h2, Nat.ne_of_lt h2]
        rw [hx]
        intro hd
        exact hv ⟨hd.symm, by omega⟩
      split
      · rename_i hw
        refine ⟨by omega, fun hlt => ?_, fun x h1 h2 => hbelow x h1 (by omega)⟩
        have hmin : min b p = b := by omega
        rw [hmin]
        simp [cellGet, hw]
      · rename_i hw
        by_cases hbp : b + 1 ≤ p
        · obtain ⟨i1, i2, i3⟩ := cellFirst_spec (v := v) hbp h.2.2.2
          have hge : ∀ x, b < x → cellGet d ((b, w) :: m) x = cellGet d m x := by
            intro x hx
            simp [cellGet, show ¬ x = b by omega, show ¬ x < b by omega]
          refine ⟨by omega, fun hlt => ?_, fun x h1 h2 => ?_⟩
          · rw [hge _ (by omega)]
            exact i2 hlt
          · by_cases hxb : x < b
            · exact hbelow x h1 hxb
            · by_cases hxe : x = b
              · subst hxe
                simpa [cellGet] using hw
              · rw [hge x (by omega)]
                exact i3 x (by omega) h2
        · have hle : cellFirst d v p (b + 1) m ≤ p := cellFirst_le
          have hp' : ∀ {lo' : Nat} {l : List (Nat × α)}, p < lo' → cellsWfFrom size d lo' l = true →
              cellFirst d v p lo' l = p := by
            intro lo' l hlo hw'
            cases l with
            | nil =>
              unfold cellFirst
              split <;> omega
            | cons c l =>
              obtain ⟨b', w'⟩ := c
              induction l generalizing lo' b' w' with
              | nil =>
                rw [cellsWfFrom_cons] at hw'
                unfold cellFirst
                unfold cellFirst
                split <;> (try omega)
                split <;> (try omega)
                split <;> (try omega)
                split <;> omega
              | cons c' l ih =>
                obtain ⟨b2, w2⟩ := c'
                rw [cellsWfFrom_cons] at hw'
                unfold cellFirst
                split
                · omega
                · split
                  · omega
                  · split
                    · omega
                    · exact ih (lo' := b' + 1) (by omega) b2 w2 hw'.2.2.2
          rw [hp' (by omega) h.2.2.2]
          refine ⟨hp, fun hlt => by omega, fun x h1 h2 => hbelow x h1 (by omega)⟩

end Cells

end Sys2Proof.Laws
end

