-- ==== Sys2Proof/Laws/Engine.lean ====
section
/-! SUPPORT. The laws of the engine's computations: what each primitive answers, what a command answers, and a calculus
for facts that every primitive of a computation keeps (`Moves`). -/

namespace Sys2Proof.Laws

open Sys2Proof.Machine

/-! ### The primitives, applied to a state -/

@[simp] theorem eng_pure {α : Type} (a : α) (s : State) : (pure a : Eng α) s = .ok a s := rfl

@[simp] theorem eng_bind {α β : Type} (m : Eng α) (f : α → Eng β) (s : State) :
    (m >>= f) s = match m s with
      | .ok a t => f a t
      | .error e t => .error e t := by
  change EStateM.bind m f s = _
  unfold EStateM.bind
  cases m s <;> rfl

@[simp] theorem eng_map {α β : Type} (f : α → β) (m : Eng α) (s : State) :
    (f <$> m) s = match m s with
      | .ok a t => .ok (f a) t
      | .error e t => .error e t := by
  change EStateM.map f m s = _
  unfold EStateM.map
  cases m s <;> rfl

@[simp] theorem eng_get (s : State) : (get : Eng State) s = .ok s s := rfl

@[simp] theorem eng_modify (f : State → State) (s : State) : (modify f : Eng Unit) s = .ok () (f s) := rfl

@[simp] theorem eng_throw {α : Type} (e : Stop) (s : State) : (throw e : Eng α) s = .error e s := rfl

@[simp] theorem eng_raiseErr {α : Type} (c : ErrCode) (s : State) : (raiseErr c : Eng α) s = .error (.raise c) s := rfl

@[simp] theorem eng_setResult (v : Nat) (s : State) :
    setResult v s = .ok () { s with result := BitVec.ofNat 32 v } := rfl

theorem eng_require (p : State → Bool) (s : State) :
    require p s = if p s then .ok () s else .error (.raise .badState) s := rfl

@[simp] theorem eng_require_true {p : State → Bool} {s : State} (h : p s = true) : require p s = .ok () s := by
  simp [eng_require, h]

@[simp] theorem eng_require_false {p : State → Bool} {s : State} (h : p s = false) :
    require p s = .error (.raise .badState) s := by
  simp [eng_require, h]

theorem eng_raiseIf (bad : Bool) (c : ErrCode) (s : State) :
    raiseIf bad c s = if bad then .error (.raise c) s else .ok () s := by
  cases bad <;> rfl

@[simp] theorem eng_raiseIf_false (c : ErrCode) (s : State) : raiseIf false c s = .ok () s := rfl

@[simp] theorem eng_raiseIf_true (c : ErrCode) (s : State) : raiseIf true c s = .error (.raise c) s := rfl

/-! ### Commands -/

/-- A command whose operands are legal, in a state that allows it, answers what its body's end makes of the state. -/
theorem command_run {legal : Bool} {allowed : EState → Bool} {body : Eng Unit} {s : State} (hl : legal = true)
    (ha : allowed s.estate = true) :
    command legal allowed body s = settle s (body { s with inFlight := [] }) := by
  subst hl
  simp [command, ha]

/-- A command whose body ends. -/
theorem command_ok {legal : Bool} {allowed : EState → Bool} {body : Eng Unit} {s t : State} (hl : legal = true)
    (ha : allowed s.estate = true) (hb : body { s with inFlight := [] } = .ok () t) :
    command legal allowed body s = .next t.retire := by
  rw [command_run hl ha, hb]
  rfl

/-- A command whose body raises. -/
theorem command_raise {legal : Bool} {allowed : EState → Bool} {body : Eng Unit} {s t : State} {c : ErrCode}
    (hl : legal = true) (ha : allowed s.estate = true) (hb : body { s with inFlight := [] } = .error (.raise c) t) :
    command legal allowed body s = .next (t.failCommand c) := by
  rw [command_run hl ha, hb]
  rfl

/-- A command with an illegal operand. -/
theorem command_illegal {allowed : EState → Bool} {body : Eng Unit} {s : State} :
    command false allowed body s = .next (State.failDecode .badOperand { s with inFlight := [] }) := rfl

/-- A command that the entry state does not allow. -/
theorem command_refused {legal : Bool} {allowed : EState → Bool} {body : Eng Unit} {s : State} (hl : legal = true)
    (ha : allowed s.estate = false) :
    command legal allowed body s = .next (State.failCommand .badState { s with inFlight := [] }) := by
  subst hl
  simp [command, ha, settle]

/-- Everything a command can answer with a next state. -/
theorem command_cases {legal : Bool} {allowed : EState → Bool} {body : Eng Unit} {s u : State}
    (h : command legal allowed body s = .next u) :
    (legal = false ∧ u = State.failDecode .badOperand { s with inFlight := [] }) ∨
    (legal = true ∧ allowed s.estate = false ∧ u = State.failCommand .badState { s with inFlight := [] }) ∨
    (legal = true ∧ allowed s.estate = true ∧
      ((∃ t, body { s with inFlight := [] } = .ok () t ∧ u = t.retire) ∨
       (∃ c t, body { s with inFlight := [] } = .error (.raise c) t ∧ u = t.failCommand c) ∨
       (∃ t, body { s with inFlight := [] } = .error .stall t ∧ u = { s with inFlight := t.inFlight }))) := by
  cases hl : legal with
  | false =>
    subst hl
    rw [command_illegal] at h
    cases h
    exact .inl ⟨rfl, rfl⟩
  | true =>
    cases ha : allowed s.estate with
    | false =>
      rw [command_refused hl ha] at h
      cases h
      exact .inr (.inl ⟨rfl, rfl, rfl⟩)
    | true =>
      rw [command_run hl ha] at h
      refine .inr (.inr ⟨rfl, rfl, ?_⟩)
      unfold settle at h
      split at h
      · rename_i t hb
        cases h
        exact .inl ⟨t, hb, rfl⟩
      · rename_i c t hb
        cases h
        exact .inr (.inl ⟨c, t, hb, rfl⟩)
      · rename_i t hb
        cases h
        exact .inr (.inr ⟨t, hb, rfl⟩)

/-- No command is refused. -/
theorem command_not_refused {legal : Bool} {allowed : EState → Bool} {body : Eng Unit} {s : State} {r : Refusal} :
    command legal allowed body s ≠ .refused r := by
  unfold command
  split
  · unfold settle
    split <;> simp
  · simp

/-! ### What every primitive of a computation keeps -/

/-- Wherever the computation starts, an end is related by `R` to the start and a stop by `Q`. -/
def Moves {α : Type} (R Q : State → State → Prop) (m : Eng α) : Prop :=
  (∀ s a t, m s = .ok a t → R s t) ∧ (∀ s e t, m s = .error e t → Q s t)

section Moves

variable {α β : Type} {R Q : State → State → Prop}

theorem moves_pure (hR : ∀ s, R s s) (a : α) : Moves R Q (pure a : Eng α) := by
  constructor
  · intro s b t h
    cases h
    exact hR s
  · intro s e t h
    cases h

theorem moves_get (hR : ∀ s, R s s) : Moves R Q (get : Eng State) := by
  constructor
  · intro s b t h
    cases h
    exact hR s
  · intro s e t h
    cases h

theorem moves_modify {f : State → State} (h : ∀ s, R s (f s)) : Moves R Q (modify f : Eng Unit) := by
  constructor
  · intro s b t ht
    cases ht
    exact h s
  · intro s e t ht
    cases ht

theorem moves_throw (hQ : ∀ s, Q s s) (e : Stop) : Moves R Q (throw e : Eng α) := by
  constructor
  · intro s b t h
    cases h
  · intro s e t h
    cases h
    exact hQ s

theorem moves_raiseErr (hQ : ∀ s, Q s s) (c : ErrCode) : Moves R Q (raiseErr c : Eng α) := moves_throw hQ _

theorem moves_require (hR : ∀ s, R s s) (hQ : ∀ s, Q s s) (p : State → Bool) : Moves R Q (require p) := by
  constructor
  · intro s b t h
    rw [eng_require] at h
    split at h <;> cases h
    exact hR s
  · intro s e t h
    rw [eng_require] at h
    split at h <;> cases h
    exact hQ s

theorem moves_raiseIf (hR : ∀ s, R s s) (hQ : ∀ s, Q s s) (b : Bool) (c : ErrCode) : Moves R Q (raiseIf b c) := by
  cases b with
  | false => exact moves_pure hR ()
  | true => exact moves_raiseErr hQ c

theorem moves_setResult (h : ∀ s v, R s { s with result := v }) (v : Nat) : Moves R Q (setResult v) :=
  moves_modify fun s => h s _

theorem moves_bind (hRR : ∀ s t u, R s t → R t u → R s u) (hRQ : ∀ s t u, R s t → Q t u → Q s u) {m : Eng α}
    {f : α → Eng β} (hm : Moves R Q m) (hf : ∀ a, Moves R Q (f a)) : Moves R Q (m >>= f) := by
  constructor
  · intro s b u h
    rw [eng_bind] at h
    split at h
    · rename_i a t ht
      exact hRR s t u (hm.1 s a t ht) ((hf a).1 t b u h)
    · cases h
  · intro s e u h
    rw [eng_bind] at h
    split at h
    · rename_i a t ht
      exact hRQ s t u (hm.1 s a t ht) ((hf a).2 t e u h)
    · rename_i e' t ht
      cases h
      exact hm.2 s _ _ ht

/-- `get` hands the computation after it the state it runs in. -/
theorem moves_get_bind {f : State → Eng β} (hf : ∀ s, (∀ b t, f s s = .ok b t → R s t) ∧
    (∀ e t, f s s = .error e t → Q s t)) : Moves R Q ((get : Eng State) >>= f) :=
  ⟨fun s b t h => (hf s).1 b t h, fun s e t h => (hf s).2 e t h⟩

theorem moves_ite {c : Prop} [Decidable c] {m n : Eng α} (hm : Moves R Q m) (hn : Moves R Q n) :
    Moves R Q (if c then m else n) := by
  split
  · exact hm
  · exact hn

/-- What a computation moves is what a weaker relation sees. -/
theorem moves_mono {R' Q' : State → State → Prop} (hR : ∀ s t, R s t → R' s t) (hQ : ∀ s t, Q s t → Q' s t)
    {m : Eng α} (h : Moves R Q m) : Moves R' Q' m :=
  ⟨fun s a t ht => hR s t (h.1 s a t ht), fun s e t ht => hQ s t (h.2 s e t ht)⟩

end Moves

end Sys2Proof.Laws
end

