-- ==== Sys2Proof/Laws/State.lean ====
section
/-! SUPPORT. One lemma per field for each named update of State, and the laws of replacing a table. -/

namespace Sys2Proof.Laws

open Sys2Proof.Machine

/-! ### `State.retire` -/

@[simp] theorem retire_cmd (s : State) : (s.retire).cmd = none := rfl
@[simp] theorem retire_done (s : State) : (s.retire).done = s.done := rfl
@[simp] theorem retire_err (s : State) : (s.retire).err = s.err := rfl
@[simp] theorem retire_errcode (s : State) : (s.retire).errcode = s.errcode := rfl
@[simp] theorem retire_overrun (s : State) : (s.retire).overrun = s.overrun := rfl
@[simp] theorem retire_dropped (s : State) : (s.retire).dropped = s.dropped := rfl
@[simp] theorem retire_estate (s : State) : (s.retire).estate = s.estate := rfl
@[simp] theorem retire_ctrl (s : State) : (s.retire).ctrl = s.ctrl := rfl
@[simp] theorem retire_packedLo (s : State) : (s.retire).packedLo = s.packedLo := rfl
@[simp] theorem retire_packedHi (s : State) : (s.retire).packedHi = s.packedHi := rfl
@[simp] theorem retire_origLo (s : State) : (s.retire).origLo = s.origLo := rfl
@[simp] theorem retire_origHi (s : State) : (s.retire).origHi = s.origHi := rfl
@[simp] theorem retire_arg (s : State) : (s.retire).arg = s.arg := rfl
@[simp] theorem retire_result (s : State) : (s.retire).result = s.result := rfl
@[simp] theorem retire_crc16 (s : State) : (s.retire).crc16 = s.crc16 := rfl
@[simp] theorem retire_crc32 (s : State) : (s.retire).crc32 = s.crc32 := rfl
@[simp] theorem retire_sum8 (s : State) : (s.retire).sum8 = s.sum8 := rfl
@[simp] theorem retire_decodeCount (s : State) : (s.retire).decodeCount = s.decodeCount := rfl
@[simp] theorem retire_outCount (s : State) : (s.retire).outCount = s.outCount := rfl
@[simp] theorem retire_blockSize (s : State) : (s.retire).blockSize = s.blockSize := rfl
@[simp] theorem retire_dicbit (s : State) : (s.retire).dicbit = s.dicbit := rfl
@[simp] theorem retire_eMethod (s : State) : (s.retire).eMethod = s.eMethod := rfl
@[simp] theorem retire_eFill (s : State) : (s.retire).eFill = s.eFill := rfl
@[simp] theorem retire_np (s : State) : (s.retire).np = s.np := rfl
@[simp] theorem retire_pbit (s : State) : (s.retire).pbit = s.pbit := rfl
@[simp] theorem retire_reader (s : State) : (s.retire).reader = s.reader := rfl
@[simp] theorem retire_tabC (s : State) : (s.retire).tabC = s.tabC := rfl
@[simp] theorem retire_tabPt (s : State) : (s.retire).tabPt = s.tabPt := rfl
@[simp] theorem retire_arena (s : State) : (s.retire).arena = s.arena := rfl
@[simp] theorem retire_window (s : State) : (s.retire).window = s.window := rfl
@[simp] theorem retire_source (s : State) : (s.retire).source = s.source := rfl
@[simp] theorem retire_sinkRoom (s : State) : (s.retire).sinkRoom = s.sinkRoom := rfl
@[simp] theorem retire_trace (s : State) : (s.retire).trace = s.inFlight ++ s.trace := rfl
@[simp] theorem retire_inFlight (s : State) : (s.retire).inFlight = [] := rfl
@[simp] theorem retire_reads (s : State) : (s.retire).reads = s.reads := rfl
@[simp] theorem retire_schedule (s : State) : (s.retire).schedule = s.schedule := rfl
@[simp] theorem retire_draws (s : State) : (s.retire).draws = s.draws := rfl

/-! ### `State.ended` -/

@[simp] theorem ended_cmd (s : State) (es : List PortEvent) : (s.ended es).cmd = none := rfl
@[simp] theorem ended_done (s : State) (es : List PortEvent) : (s.ended es).done = s.done := rfl
@[simp] theorem ended_err (s : State) (es : List PortEvent) : (s.ended es).err = s.err := rfl
@[simp] theorem ended_errcode (s : State) (es : List PortEvent) : (s.ended es).errcode = s.errcode := rfl
@[simp] theorem ended_overrun (s : State) (es : List PortEvent) : (s.ended es).overrun = s.overrun := rfl
@[simp] theorem ended_dropped (s : State) (es : List PortEvent) : (s.ended es).dropped = s.dropped := rfl
@[simp] theorem ended_estate (s : State) (es : List PortEvent) : (s.ended es).estate = s.estate := rfl
@[simp] theorem ended_ctrl (s : State) (es : List PortEvent) : (s.ended es).ctrl = s.ctrl := rfl
@[simp] theorem ended_packedLo (s : State) (es : List PortEvent) : (s.ended es).packedLo = s.packedLo := rfl
@[simp] theorem ended_packedHi (s : State) (es : List PortEvent) : (s.ended es).packedHi = s.packedHi := rfl
@[simp] theorem ended_origLo (s : State) (es : List PortEvent) : (s.ended es).origLo = s.origLo := rfl
@[simp] theorem ended_origHi (s : State) (es : List PortEvent) : (s.ended es).origHi = s.origHi := rfl
@[simp] theorem ended_arg (s : State) (es : List PortEvent) : (s.ended es).arg = s.arg := rfl
@[simp] theorem ended_result (s : State) (es : List PortEvent) : (s.ended es).result = s.result := rfl
@[simp] theorem ended_crc16 (s : State) (es : List PortEvent) : (s.ended es).crc16 = s.crc16 := rfl
@[simp] theorem ended_crc32 (s : State) (es : List PortEvent) : (s.ended es).crc32 = s.crc32 := rfl
@[simp] theorem ended_sum8 (s : State) (es : List PortEvent) : (s.ended es).sum8 = s.sum8 := rfl
@[simp] theorem ended_decodeCount (s : State) (es : List PortEvent) : (s.ended es).decodeCount = s.decodeCount := rfl
@[simp] theorem ended_outCount (s : State) (es : List PortEvent) : (s.ended es).outCount = s.outCount := rfl
@[simp] theorem ended_blockSize (s : State) (es : List PortEvent) : (s.ended es).blockSize = s.blockSize := rfl
@[simp] theorem ended_dicbit (s : State) (es : List PortEvent) : (s.ended es).dicbit = s.dicbit := rfl
@[simp] theorem ended_eMethod (s : State) (es : List PortEvent) : (s.ended es).eMethod = s.eMethod := rfl
@[simp] theorem ended_eFill (s : State) (es : List PortEvent) : (s.ended es).eFill = s.eFill := rfl
@[simp] theorem ended_np (s : State) (es : List PortEvent) : (s.ended es).np = s.np := rfl
@[simp] theorem ended_pbit (s : State) (es : List PortEvent) : (s.ended es).pbit = s.pbit := rfl
@[simp] theorem ended_reader (s : State) (es : List PortEvent) : (s.ended es).reader = s.reader := rfl
@[simp] theorem ended_tabC (s : State) (es : List PortEvent) : (s.ended es).tabC = s.tabC := rfl
@[simp] theorem ended_tabPt (s : State) (es : List PortEvent) : (s.ended es).tabPt = s.tabPt := rfl
@[simp] theorem ended_arena (s : State) (es : List PortEvent) : (s.ended es).arena = s.arena := rfl
@[simp] theorem ended_window (s : State) (es : List PortEvent) : (s.ended es).window = s.window := rfl
@[simp] theorem ended_source (s : State) (es : List PortEvent) : (s.ended es).source = s.source := rfl
@[simp] theorem ended_sinkRoom (s : State) (es : List PortEvent) : (s.ended es).sinkRoom = s.sinkRoom := rfl
@[simp] theorem ended_trace (s : State) (es : List PortEvent) : (s.ended es).trace = es ++ s.trace := rfl
@[simp] theorem ended_inFlight (s : State) (es : List PortEvent) : (s.ended es).inFlight = [] := rfl
@[simp] theorem ended_reads (s : State) (es : List PortEvent) : (s.ended es).reads = s.reads := rfl
@[simp] theorem ended_schedule (s : State) (es : List PortEvent) : (s.ended es).schedule = s.schedule := rfl
@[simp] theorem ended_draws (s : State) (es : List PortEvent) : (s.ended es).draws = s.draws := rfl

/-! ### `State.clearValid` -/

@[simp] theorem clearValid_cmd (s : State) : (s.clearValid).cmd = s.cmd := rfl
@[simp] theorem clearValid_done (s : State) : (s.clearValid).done = s.done := rfl
@[simp] theorem clearValid_err (s : State) : (s.clearValid).err = s.err := rfl
@[simp] theorem clearValid_errcode (s : State) : (s.clearValid).errcode = s.errcode := rfl
@[simp] theorem clearValid_overrun (s : State) : (s.clearValid).overrun = s.overrun := rfl
@[simp] theorem clearValid_dropped (s : State) : (s.clearValid).dropped = s.dropped := rfl
@[simp] theorem clearValid_estate (s : State) : (s.clearValid).estate = s.estate := rfl
@[simp] theorem clearValid_ctrl (s : State) : (s.clearValid).ctrl = s.ctrl := rfl
@[simp] theorem clearValid_packedLo (s : State) : (s.clearValid).packedLo = s.packedLo := rfl
@[simp] theorem clearValid_packedHi (s : State) : (s.clearValid).packedHi = s.packedHi := rfl
@[simp] theorem clearValid_origLo (s : State) : (s.clearValid).origLo = s.origLo := rfl
@[simp] theorem clearValid_origHi (s : State) : (s.clearValid).origHi = s.origHi := rfl
@[simp] theorem clearValid_arg (s : State) : (s.clearValid).arg = s.arg := rfl
@[simp] theorem clearValid_result (s : State) : (s.clearValid).result = s.result := rfl
@[simp] theorem clearValid_crc16 (s : State) : (s.clearValid).crc16 = s.crc16 := rfl
@[simp] theorem clearValid_crc32 (s : State) : (s.clearValid).crc32 = s.crc32 := rfl
@[simp] theorem clearValid_sum8 (s : State) : (s.clearValid).sum8 = s.sum8 := rfl
@[simp] theorem clearValid_decodeCount (s : State) : (s.clearValid).decodeCount = s.decodeCount := rfl
@[simp] theorem clearValid_outCount (s : State) : (s.clearValid).outCount = s.outCount := rfl
@[simp] theorem clearValid_blockSize (s : State) : (s.clearValid).blockSize = s.blockSize := rfl
@[simp] theorem clearValid_dicbit (s : State) : (s.clearValid).dicbit = s.dicbit := rfl
@[simp] theorem clearValid_eMethod (s : State) : (s.clearValid).eMethod = s.eMethod := rfl
@[simp] theorem clearValid_eFill (s : State) : (s.clearValid).eFill = s.eFill := rfl
@[simp] theorem clearValid_np (s : State) : (s.clearValid).np = s.np := rfl
@[simp] theorem clearValid_pbit (s : State) : (s.clearValid).pbit = s.pbit := rfl
@[simp] theorem clearValid_reader (s : State) : (s.clearValid).reader = { s.reader with valid := false } := rfl
@[simp] theorem clearValid_tabC (s : State) : (s.clearValid).tabC = s.tabC.invalidate := rfl
@[simp] theorem clearValid_tabPt (s : State) : (s.clearValid).tabPt = s.tabPt.invalidate := rfl
@[simp] theorem clearValid_arena (s : State) : (s.clearValid).arena = s.arena.invalidate := rfl
@[simp] theorem clearValid_window (s : State) : (s.clearValid).window = { s.window with valid := false } := rfl
@[simp] theorem clearValid_source (s : State) : (s.clearValid).source = s.source := rfl
@[simp] theorem clearValid_sinkRoom (s : State) : (s.clearValid).sinkRoom = s.sinkRoom := rfl
@[simp] theorem clearValid_trace (s : State) : (s.clearValid).trace = s.trace := rfl
@[simp] theorem clearValid_inFlight (s : State) : (s.clearValid).inFlight = s.inFlight := rfl
@[simp] theorem clearValid_reads (s : State) : (s.clearValid).reads = s.reads := rfl
@[simp] theorem clearValid_schedule (s : State) : (s.clearValid).schedule = s.schedule := rfl
@[simp] theorem clearValid_draws (s : State) : (s.clearValid).draws = s.draws := rfl

/-! ### `State.recordErr` and `State.failedWith` -/

@[simp] theorem recordErr_cmd (s : State) (c : ErrCode) : (State.recordErr c s).cmd = s.cmd := rfl
@[simp] theorem recordErr_done (s : State) (c : ErrCode) : (State.recordErr c s).done = s.done := rfl
@[simp] theorem recordErr_err (s : State) (c : ErrCode) : (State.recordErr c s).err = true := rfl
@[simp] theorem recordErr_errcode (s : State) (c : ErrCode) : (State.recordErr c s).errcode = if s.err then s.errcode else some c := rfl
@[simp] theorem recordErr_overrun (s : State) (c : ErrCode) : (State.recordErr c s).overrun = s.overrun := rfl
@[simp] theorem recordErr_dropped (s : State) (c : ErrCode) : (State.recordErr c s).dropped = s.dropped := rfl
@[simp] theorem recordErr_estate (s : State) (c : ErrCode) : (State.recordErr c s).estate = .failed := rfl
@[simp] theorem recordErr_ctrl (s : State) (c : ErrCode) : (State.recordErr c s).ctrl = s.ctrl := rfl
@[simp] theorem recordErr_packedLo (s : State) (c : ErrCode) : (State.recordErr c s).packedLo = s.packedLo := rfl
@[simp] theorem recordErr_packedHi (s : State) (c : ErrCode) : (State.recordErr c s).packedHi = s.packedHi := rfl
@[simp] theorem recordErr_origLo (s : State) (c : ErrCode) : (State.recordErr c s).origLo = s.origLo := rfl
@[simp] theorem recordErr_origHi (s : State) (c : ErrCode) : (State.recordErr c s).origHi = s.origHi := rfl
@[simp] theorem recordErr_arg (s : State) (c : ErrCode) : (State.recordErr c s).arg = s.arg := rfl
@[simp] theorem recordErr_result (s : State) (c : ErrCode) : (State.recordErr c s).result = s.result := rfl
@[simp] theorem recordErr_crc16 (s : State) (c : ErrCode) : (State.recordErr c s).crc16 = s.crc16 := rfl
@[simp] theorem recordErr_crc32 (s : State) (c : ErrCode) : (State.recordErr c s).crc32 = s.crc32 := rfl
@[simp] theorem recordErr_sum8 (s : State) (c : ErrCode) : (State.recordErr c s).sum8 = s.sum8 := rfl
@[simp] theorem recordErr_decodeCount (s : State) (c : ErrCode) : (State.recordErr c s).decodeCount = s.decodeCount := rfl
@[simp] theorem recordErr_outCount (s : State) (c : ErrCode) : (State.recordErr c s).outCount = s.outCount := rfl
@[simp] theorem recordErr_blockSize (s : State) (c : ErrCode) : (State.recordErr c s).blockSize = s.blockSize := rfl
@[simp] theorem recordErr_dicbit (s : State) (c : ErrCode) : (State.recordErr c s).dicbit = s.dicbit := rfl
@[simp] theorem recordErr_eMethod (s : State) (c : ErrCode) : (State.recordErr c s).eMethod = s.eMethod := rfl
@[simp] theorem recordErr_eFill (s : State) (c : ErrCode) : (State.recordErr c s).eFill = s.eFill := rfl
@[simp] theorem recordErr_np (s : State) (c : ErrCode) : (State.recordErr c s).np = s.np := rfl
@[simp] theorem recordErr_pbit (s : State) (c : ErrCode) : (State.recordErr c s).pbit = s.pbit := rfl
@[simp] theorem recordErr_reader (s : State) (c : ErrCode) : (State.recordErr c s).reader = { s.reader with valid := false } := rfl
@[simp] theorem recordErr_tabC (s : State) (c : ErrCode) : (State.recordErr c s).tabC = s.tabC.invalidate := rfl
@[simp] theorem recordErr_tabPt (s : State) (c : ErrCode) : (State.recordErr c s).tabPt = s.tabPt.invalidate := rfl
@[simp] theorem recordErr_arena (s : State) (c : ErrCode) : (State.recordErr c s).arena = s.arena.invalidate := rfl
@[simp] theorem recordErr_window (s : State) (c : ErrCode) : (State.recordErr c s).window = { s.window with valid := false } := rfl
@[simp] theorem recordErr_source (s : State) (c : ErrCode) : (State.recordErr c s).source = s.source := rfl
@[simp] theorem recordErr_sinkRoom (s : State) (c : ErrCode) : (State.recordErr c s).sinkRoom = s.sinkRoom := rfl
@[simp] theorem recordErr_trace (s : State) (c : ErrCode) : (State.recordErr c s).trace = s.trace := rfl
@[simp] theorem recordErr_inFlight (s : State) (c : ErrCode) : (State.recordErr c s).inFlight = s.inFlight := rfl
@[simp] theorem recordErr_reads (s : State) (c : ErrCode) : (State.recordErr c s).reads = s.reads := rfl
@[simp] theorem recordErr_schedule (s : State) (c : ErrCode) : (State.recordErr c s).schedule = s.schedule := rfl
@[simp] theorem recordErr_draws (s : State) (c : ErrCode) : (State.recordErr c s).draws = s.draws := rfl

@[simp] theorem failedWith_cmd (s : State) (c : ErrCode) : (s.failedWith c).cmd = s.cmd := rfl
@[simp] theorem failedWith_done (s : State) (c : ErrCode) : (s.failedWith c).done = s.done := rfl
@[simp] theorem failedWith_err (s : State) (c : ErrCode) : (s.failedWith c).err = true := rfl
@[simp] theorem failedWith_errcode (s : State) (c : ErrCode) : (s.failedWith c).errcode = if s.err then s.errcode else some c := rfl
@[simp] theorem failedWith_overrun (s : State) (c : ErrCode) : (s.failedWith c).overrun = s.overrun := rfl
@[simp] theorem failedWith_dropped (s : State) (c : ErrCode) : (s.failedWith c).dropped = s.dropped := rfl
@[simp] theorem failedWith_estate (s : State) (c : ErrCode) : (s.failedWith c).estate = .failed := rfl
@[simp] theorem failedWith_ctrl (s : State) (c : ErrCode) : (s.failedWith c).ctrl = s.ctrl := rfl
@[simp] theorem failedWith_packedLo (s : State) (c : ErrCode) : (s.failedWith c).packedLo = s.packedLo := rfl
@[simp] theorem failedWith_packedHi (s : State) (c : ErrCode) : (s.failedWith c).packedHi = s.packedHi := rfl
@[simp] theorem failedWith_origLo (s : State) (c : ErrCode) : (s.failedWith c).origLo = s.origLo := rfl
@[simp] theorem failedWith_origHi (s : State) (c : ErrCode) : (s.failedWith c).origHi = s.origHi := rfl
@[simp] theorem failedWith_arg (s : State) (c : ErrCode) : (s.failedWith c).arg = s.arg := rfl
@[simp] theorem failedWith_result (s : State) (c : ErrCode) : (s.failedWith c).result = s.result := rfl
@[simp] theorem failedWith_crc16 (s : State) (c : ErrCode) : (s.failedWith c).crc16 = s.crc16 := rfl
@[simp] theorem failedWith_crc32 (s : State) (c : ErrCode) : (s.failedWith c).crc32 = s.crc32 := rfl
@[simp] theorem failedWith_sum8 (s : State) (c : ErrCode) : (s.failedWith c).sum8 = s.sum8 := rfl
@[simp] theorem failedWith_decodeCount (s : State) (c : ErrCode) : (s.failedWith c).decodeCount = s.decodeCount := rfl
@[simp] theorem failedWith_outCount (s : State) (c : ErrCode) : (s.failedWith c).outCount = s.outCount := rfl
@[simp] theorem failedWith_blockSize (s : State) (c : ErrCode) : (s.failedWith c).blockSize = s.blockSize := rfl
@[simp] theorem failedWith_dicbit (s : State) (c : ErrCode) : (s.failedWith c).dicbit = s.dicbit := rfl
@[simp] theorem failedWith_eMethod (s : State) (c : ErrCode) : (s.failedWith c).eMethod = s.eMethod := rfl
@[simp] theorem failedWith_eFill (s : State) (c : ErrCode) : (s.failedWith c).eFill = s.eFill := rfl
@[simp] theorem failedWith_np (s : State) (c : ErrCode) : (s.failedWith c).np = s.np := rfl
@[simp] theorem failedWith_pbit (s : State) (c : ErrCode) : (s.failedWith c).pbit = s.pbit := rfl
@[simp] theorem failedWith_reader (s : State) (c : ErrCode) : (s.failedWith c).reader = { s.reader with valid := false } := rfl
@[simp] theorem failedWith_tabC (s : State) (c : ErrCode) : (s.failedWith c).tabC = s.tabC.invalidate := rfl
@[simp] theorem failedWith_tabPt (s : State) (c : ErrCode) : (s.failedWith c).tabPt = s.tabPt.invalidate := rfl
@[simp] theorem failedWith_arena (s : State) (c : ErrCode) : (s.failedWith c).arena = s.arena.invalidate := rfl
@[simp] theorem failedWith_window (s : State) (c : ErrCode) : (s.failedWith c).window = { s.window with valid := false } := rfl
@[simp] theorem failedWith_source (s : State) (c : ErrCode) : (s.failedWith c).source = s.source := rfl
@[simp] theorem failedWith_sinkRoom (s : State) (c : ErrCode) : (s.failedWith c).sinkRoom = s.sinkRoom := rfl
@[simp] theorem failedWith_trace (s : State) (c : ErrCode) : (s.failedWith c).trace = s.trace := rfl
@[simp] theorem failedWith_inFlight (s : State) (c : ErrCode) : (s.failedWith c).inFlight = s.inFlight := rfl
@[simp] theorem failedWith_reads (s : State) (c : ErrCode) : (s.failedWith c).reads = s.reads := rfl
@[simp] theorem failedWith_schedule (s : State) (c : ErrCode) : (s.failedWith c).schedule = s.schedule := rfl
@[simp] theorem failedWith_draws (s : State) (c : ErrCode) : (s.failedWith c).draws = s.draws := rfl

/-! ### The units' RAMs after a failure: registers and flags stay -/

@[simp] theorem scramble_table_nchar {w : Nat} (t : Table) (k : Nat) (l tb lf rt : RamName) (h : HuffTable w) :
    (h.scramble t k l tb lf rt).nchar = h.nchar := rfl
@[simp] theorem scramble_table_avail {w : Nat} (t : Table) (k : Nat) (l tb lf rt : RamName) (h : HuffTable w) :
    (h.scramble t k l tb lf rt).avail = h.avail := rfl
@[simp] theorem scramble_table_lenValid {w : Nat} (t : Table) (k : Nat) (l tb lf rt : RamName) (h : HuffTable w) :
    (h.scramble t k l tb lf rt).lenValid = h.lenValid := rfl
@[simp] theorem scramble_table_tabValid {w : Nat} (t : Table) (k : Nat) (l tb lf rt : RamName) (h : HuffTable w) :
    (h.scramble t k l tb lf rt).tabValid = h.tabValid := rfl
@[simp] theorem scramble_arena_totalP (a : Arena) (k : Nat) : (a.scramble k).totalP = a.totalP := by rw [Arena.scramble]
@[simp] theorem scramble_arena_mostP (a : Arena) (k : Nat) : (a.scramble k).mostP = a.mostP := by rw [Arena.scramble]
@[simp] theorem scramble_arena_nn (a : Arena) (k : Nat) : (a.scramble k).nn = a.nn := by rw [Arena.scramble]
@[simp] theorem scramble_arena_nextCount (a : Arena) (k : Nat) : (a.scramble k).nextCount = a.nextCount := by rw [Arena.scramble]
@[simp] theorem scramble_arena_nMax (a : Arena) (k : Nat) : (a.scramble k).nMax = a.nMax := by rw [Arena.scramble]
@[simp] theorem scramble_arena_n1 (a : Arena) (k : Nat) : (a.scramble k).n1 = a.n1 := by rw [Arena.scramble]
@[simp] theorem scramble_arena_validC (a : Arena) (k : Nat) : (a.scramble k).validC = a.validC := by rw [Arena.scramble]
@[simp] theorem scramble_arena_validP (a : Arena) (k : Nat) : (a.scramble k).validP = a.validP := by rw [Arena.scramble]
@[simp] theorem scramble_window_loc (x : Window) (k : Nat) : (x.scramble k).loc = x.loc := by rw [Window.scramble]
@[simp] theorem scramble_window_mask (x : Window) (k : Nat) : (x.scramble k).mask = x.mask := by rw [Window.scramble]
@[simp] theorem scramble_window_valid (x : Window) (k : Nat) : (x.scramble k).valid = x.valid := by rw [Window.scramble]

/-! ### `State.scramble` -/

@[simp] theorem scramble_cmd (s : State) : (s.scramble).cmd = s.cmd := rfl
@[simp] theorem scramble_done (s : State) : (s.scramble).done = s.done := rfl
@[simp] theorem scramble_err (s : State) : (s.scramble).err = s.err := rfl
@[simp] theorem scramble_errcode (s : State) : (s.scramble).errcode = s.errcode := rfl
@[simp] theorem scramble_overrun (s : State) : (s.scramble).overrun = s.overrun := rfl
@[simp] theorem scramble_dropped (s : State) : (s.scramble).dropped = s.dropped := rfl
@[simp] theorem scramble_estate (s : State) : (s.scramble).estate = s.estate := rfl
@[simp] theorem scramble_ctrl (s : State) : (s.scramble).ctrl = s.ctrl := rfl
@[simp] theorem scramble_packedLo (s : State) : (s.scramble).packedLo = s.packedLo := rfl
@[simp] theorem scramble_packedHi (s : State) : (s.scramble).packedHi = s.packedHi := rfl
@[simp] theorem scramble_origLo (s : State) : (s.scramble).origLo = s.origLo := rfl
@[simp] theorem scramble_origHi (s : State) : (s.scramble).origHi = s.origHi := rfl
@[simp] theorem scramble_arg (s : State) : (s.scramble).arg = s.arg := rfl
@[simp] theorem scramble_result (s : State) : (s.scramble).result = Config.freeResult s.draws := rfl
@[simp] theorem scramble_crc16 (s : State) : (s.scramble).crc16 = s.crc16 := rfl
@[simp] theorem scramble_crc32 (s : State) : (s.scramble).crc32 = s.crc32 := rfl
@[simp] theorem scramble_sum8 (s : State) : (s.scramble).sum8 = s.sum8 := rfl
@[simp] theorem scramble_decodeCount (s : State) : (s.scramble).decodeCount = s.decodeCount := rfl
@[simp] theorem scramble_outCount (s : State) : (s.scramble).outCount = s.outCount := rfl
@[simp] theorem scramble_blockSize (s : State) : (s.scramble).blockSize = s.blockSize := rfl
@[simp] theorem scramble_dicbit (s : State) : (s.scramble).dicbit = s.dicbit := rfl
@[simp] theorem scramble_eMethod (s : State) : (s.scramble).eMethod = s.eMethod := rfl
@[simp] theorem scramble_eFill (s : State) : (s.scramble).eFill = s.eFill := rfl
@[simp] theorem scramble_np (s : State) : (s.scramble).np = s.np := rfl
@[simp] theorem scramble_pbit (s : State) : (s.scramble).pbit = s.pbit := rfl
@[simp] theorem scramble_reader (s : State) : (s.scramble).reader = { s.reader with pos := Config.freeBitPos s.draws } := rfl
@[simp] theorem scramble_tabC (s : State) : (s.scramble).tabC = s.tabC.scramble .c s.draws .cLen .cTable .cLeft .cRight := rfl
@[simp] theorem scramble_tabPt (s : State) : (s.scramble).tabPt = s.tabPt.scramble .pt s.draws .ptLen .ptTable .ptLeft .ptRight := rfl
@[simp] theorem scramble_arena (s : State) : (s.scramble).arena = s.arena.scramble s.draws := rfl
@[simp] theorem scramble_window (s : State) : (s.scramble).window = s.window.scramble s.draws := rfl
@[simp] theorem scramble_source (s : State) : (s.scramble).source = s.source := rfl
@[simp] theorem scramble_sinkRoom (s : State) : (s.scramble).sinkRoom = s.sinkRoom := rfl
@[simp] theorem scramble_trace (s : State) : (s.scramble).trace = s.trace := rfl
@[simp] theorem scramble_inFlight (s : State) : (s.scramble).inFlight = s.inFlight := rfl
@[simp] theorem scramble_reads (s : State) : (s.scramble).reads = s.reads := rfl
@[simp] theorem scramble_schedule (s : State) : (s.scramble).schedule = s.schedule := rfl
@[simp] theorem scramble_draws (s : State) : (s.scramble).draws = s.draws + 1 := rfl

/-! ### `State.foldChecksums` -/

@[simp] theorem foldChecksums_cmd (s : State) (b : Byte) : (State.foldChecksums b s).cmd = s.cmd := rfl
@[simp] theorem foldChecksums_done (s : State) (b : Byte) : (State.foldChecksums b s).done = s.done := rfl
@[simp] theorem foldChecksums_err (s : State) (b : Byte) : (State.foldChecksums b s).err = s.err := rfl
@[simp] theorem foldChecksums_errcode (s : State) (b : Byte) : (State.foldChecksums b s).errcode = s.errcode := rfl
@[simp] theorem foldChecksums_overrun (s : State) (b : Byte) : (State.foldChecksums b s).overrun = s.overrun := rfl
@[simp] theorem foldChecksums_dropped (s : State) (b : Byte) : (State.foldChecksums b s).dropped = s.dropped := rfl
@[simp] theorem foldChecksums_estate (s : State) (b : Byte) : (State.foldChecksums b s).estate = s.estate := rfl
@[simp] theorem foldChecksums_ctrl (s : State) (b : Byte) : (State.foldChecksums b s).ctrl = s.ctrl := rfl
@[simp] theorem foldChecksums_packedLo (s : State) (b : Byte) : (State.foldChecksums b s).packedLo = s.packedLo := rfl
@[simp] theorem foldChecksums_packedHi (s : State) (b : Byte) : (State.foldChecksums b s).packedHi = s.packedHi := rfl
@[simp] theorem foldChecksums_origLo (s : State) (b : Byte) : (State.foldChecksums b s).origLo = s.origLo := rfl
@[simp] theorem foldChecksums_origHi (s : State) (b : Byte) : (State.foldChecksums b s).origHi = s.origHi := rfl
@[simp] theorem foldChecksums_arg (s : State) (b : Byte) : (State.foldChecksums b s).arg = s.arg := rfl
@[simp] theorem foldChecksums_result (s : State) (b : Byte) : (State.foldChecksums b s).result = s.result := rfl
@[simp] theorem foldChecksums_crc16 (s : State) (b : Byte) : (State.foldChecksums b s).crc16 = if s.autoCrc16 then crc16Update s.crc16 b else s.crc16 := rfl
@[simp] theorem foldChecksums_crc32 (s : State) (b : Byte) : (State.foldChecksums b s).crc32 = if s.autoCrc32 then crc32Update s.crc32 b else s.crc32 := rfl
@[simp] theorem foldChecksums_sum8 (s : State) (b : Byte) : (State.foldChecksums b s).sum8 = if s.autoSum then sum8Update s.sum8 b else s.sum8 := rfl
@[simp] theorem foldChecksums_decodeCount (s : State) (b : Byte) : (State.foldChecksums b s).decodeCount = s.decodeCount := rfl
@[simp] theorem foldChecksums_outCount (s : State) (b : Byte) : (State.foldChecksums b s).outCount = s.outCount := rfl
@[simp] theorem foldChecksums_blockSize (s : State) (b : Byte) : (State.foldChecksums b s).blockSize = s.blockSize := rfl
@[simp] theorem foldChecksums_dicbit (s : State) (b : Byte) : (State.foldChecksums b s).dicbit = s.dicbit := rfl
@[simp] theorem foldChecksums_eMethod (s : State) (b : Byte) : (State.foldChecksums b s).eMethod = s.eMethod := rfl
@[simp] theorem foldChecksums_eFill (s : State) (b : Byte) : (State.foldChecksums b s).eFill = s.eFill := rfl
@[simp] theorem foldChecksums_np (s : State) (b : Byte) : (State.foldChecksums b s).np = s.np := rfl
@[simp] theorem foldChecksums_pbit (s : State) (b : Byte) : (State.foldChecksums b s).pbit = s.pbit := rfl
@[simp] theorem foldChecksums_reader (s : State) (b : Byte) : (State.foldChecksums b s).reader = s.reader := rfl
@[simp] theorem foldChecksums_tabC (s : State) (b : Byte) : (State.foldChecksums b s).tabC = s.tabC := rfl
@[simp] theorem foldChecksums_tabPt (s : State) (b : Byte) : (State.foldChecksums b s).tabPt = s.tabPt := rfl
@[simp] theorem foldChecksums_arena (s : State) (b : Byte) : (State.foldChecksums b s).arena = s.arena := rfl
@[simp] theorem foldChecksums_window (s : State) (b : Byte) : (State.foldChecksums b s).window = s.window := rfl
@[simp] theorem foldChecksums_source (s : State) (b : Byte) : (State.foldChecksums b s).source = s.source := rfl
@[simp] theorem foldChecksums_sinkRoom (s : State) (b : Byte) : (State.foldChecksums b s).sinkRoom = s.sinkRoom := rfl
@[simp] theorem foldChecksums_trace (s : State) (b : Byte) : (State.foldChecksums b s).trace = s.trace := rfl
@[simp] theorem foldChecksums_inFlight (s : State) (b : Byte) : (State.foldChecksums b s).inFlight = s.inFlight := rfl
@[simp] theorem foldChecksums_reads (s : State) (b : Byte) : (State.foldChecksums b s).reads = s.reads := rfl
@[simp] theorem foldChecksums_schedule (s : State) (b : Byte) : (State.foldChecksums b s).schedule = s.schedule := rfl
@[simp] theorem foldChecksums_draws (s : State) (b : Byte) : (State.foldChecksums b s).draws = s.draws := rfl

/-! ### `State.emitted` -/

@[simp] theorem emitted_cmd (s : State) (bs : List Byte) : (s.emitted bs).cmd = s.cmd := rfl
@[simp] theorem emitted_done (s : State) (bs : List Byte) : (s.emitted bs).done = s.done := rfl
@[simp] theorem emitted_err (s : State) (bs : List Byte) : (s.emitted bs).err = s.err := rfl
@[simp] theorem emitted_errcode (s : State) (bs : List Byte) : (s.emitted bs).errcode = s.errcode := rfl
@[simp] theorem emitted_overrun (s : State) (bs : List Byte) : (s.emitted bs).overrun = s.overrun := rfl
@[simp] theorem emitted_dropped (s : State) (bs : List Byte) : (s.emitted bs).dropped = s.dropped := rfl
@[simp] theorem emitted_estate (s : State) (bs : List Byte) : (s.emitted bs).estate = s.estate := rfl
@[simp] theorem emitted_ctrl (s : State) (bs : List Byte) : (s.emitted bs).ctrl = s.ctrl := rfl
@[simp] theorem emitted_packedLo (s : State) (bs : List Byte) : (s.emitted bs).packedLo = s.packedLo := rfl
@[simp] theorem emitted_packedHi (s : State) (bs : List Byte) : (s.emitted bs).packedHi = s.packedHi := rfl
@[simp] theorem emitted_origLo (s : State) (bs : List Byte) : (s.emitted bs).origLo = s.origLo := rfl
@[simp] theorem emitted_origHi (s : State) (bs : List Byte) : (s.emitted bs).origHi = s.origHi := rfl
@[simp] theorem emitted_arg (s : State) (bs : List Byte) : (s.emitted bs).arg = s.arg := rfl
@[simp] theorem emitted_result (s : State) (bs : List Byte) : (s.emitted bs).result = s.result := rfl
@[simp] theorem emitted_crc16 (s : State) (bs : List Byte) : (s.emitted bs).crc16 = if s.autoCrc16 then bs.foldl crc16Update s.crc16 else s.crc16 := rfl
@[simp] theorem emitted_crc32 (s : State) (bs : List Byte) : (s.emitted bs).crc32 = if s.autoCrc32 then bs.foldl crc32Update s.crc32 else s.crc32 := rfl
@[simp] theorem emitted_sum8 (s : State) (bs : List Byte) : (s.emitted bs).sum8 = if s.autoSum then bs.foldl sum8Update s.sum8 else s.sum8 := rfl
@[simp] theorem emitted_decodeCount (s : State) (bs : List Byte) : (s.emitted bs).decodeCount = s.decodeCount := rfl
@[simp] theorem emitted_outCount (s : State) (bs : List Byte) : (s.emitted bs).outCount = s.outCount + BitVec.ofNat 64 bs.length := rfl
@[simp] theorem emitted_blockSize (s : State) (bs : List Byte) : (s.emitted bs).blockSize = s.blockSize := rfl
@[simp] theorem emitted_dicbit (s : State) (bs : List Byte) : (s.emitted bs).dicbit = s.dicbit := rfl
@[simp] theorem emitted_eMethod (s : State) (bs : List Byte) : (s.emitted bs).eMethod = s.eMethod := rfl
@[simp] theorem emitted_eFill (s : State) (bs : List Byte) : (s.emitted bs).eFill = s.eFill := rfl
@[simp] theorem emitted_np (s : State) (bs : List Byte) : (s.emitted bs).np = s.np := rfl
@[simp] theorem emitted_pbit (s : State) (bs : List Byte) : (s.emitted bs).pbit = s.pbit := rfl
@[simp] theorem emitted_reader (s : State) (bs : List Byte) : (s.emitted bs).reader = s.reader := rfl
@[simp] theorem emitted_tabC (s : State) (bs : List Byte) : (s.emitted bs).tabC = s.tabC := rfl
@[simp] theorem emitted_tabPt (s : State) (bs : List Byte) : (s.emitted bs).tabPt = s.tabPt := rfl
@[simp] theorem emitted_arena (s : State) (bs : List Byte) : (s.emitted bs).arena = s.arena := rfl
@[simp] theorem emitted_window (s : State) (bs : List Byte) : (s.emitted bs).window = s.window := rfl
@[simp] theorem emitted_source (s : State) (bs : List Byte) : (s.emitted bs).source = s.source := rfl
@[simp] theorem emitted_sinkRoom (s : State) (bs : List Byte) : (s.emitted bs).sinkRoom = s.sinkRoom := rfl
@[simp] theorem emitted_trace (s : State) (bs : List Byte) : (s.emitted bs).trace = s.trace := rfl
@[simp] theorem emitted_inFlight (s : State) (bs : List Byte) : (s.emitted bs).inFlight = s.inFlight := rfl
@[simp] theorem emitted_reads (s : State) (bs : List Byte) : (s.emitted bs).reads = s.reads := rfl
@[simp] theorem emitted_schedule (s : State) (bs : List Byte) : (s.emitted bs).schedule = s.schedule := rfl
@[simp] theorem emitted_draws (s : State) (bs : List Byte) : (s.emitted bs).draws = s.draws := rfl

/-! ### `State.skipped` -/

@[simp] theorem skipped_cmd (s : State) (n : Nat) : (s.skipped n).cmd = s.cmd := rfl
@[simp] theorem skipped_done (s : State) (n : Nat) : (s.skipped n).done = s.done := rfl
@[simp] theorem skipped_err (s : State) (n : Nat) : (s.skipped n).err = s.err := rfl
@[simp] theorem skipped_errcode (s : State) (n : Nat) : (s.skipped n).errcode = s.errcode := rfl
@[simp] theorem skipped_overrun (s : State) (n : Nat) : (s.skipped n).overrun = s.overrun := rfl
@[simp] theorem skipped_dropped (s : State) (n : Nat) : (s.skipped n).dropped = s.dropped := rfl
@[simp] theorem skipped_estate (s : State) (n : Nat) : (s.skipped n).estate = s.estate := rfl
@[simp] theorem skipped_ctrl (s : State) (n : Nat) : (s.skipped n).ctrl = s.ctrl := rfl
@[simp] theorem skipped_packedLo (s : State) (n : Nat) : (s.skipped n).packedLo = s.packedLo := rfl
@[simp] theorem skipped_packedHi (s : State) (n : Nat) : (s.skipped n).packedHi = s.packedHi := rfl
@[simp] theorem skipped_origLo (s : State) (n : Nat) : (s.skipped n).origLo = s.origLo := rfl
@[simp] theorem skipped_origHi (s : State) (n : Nat) : (s.skipped n).origHi = s.origHi := rfl
@[simp] theorem skipped_arg (s : State) (n : Nat) : (s.skipped n).arg = s.arg := rfl
@[simp] theorem skipped_result (s : State) (n : Nat) : (s.skipped n).result = s.result := rfl
@[simp] theorem skipped_crc16 (s : State) (n : Nat) : (s.skipped n).crc16 = s.crc16 := rfl
@[simp] theorem skipped_crc32 (s : State) (n : Nat) : (s.skipped n).crc32 = s.crc32 := rfl
@[simp] theorem skipped_sum8 (s : State) (n : Nat) : (s.skipped n).sum8 = s.sum8 := rfl
@[simp] theorem skipped_decodeCount (s : State) (n : Nat) : (s.skipped n).decodeCount = s.decodeCount := rfl
@[simp] theorem skipped_outCount (s : State) (n : Nat) : (s.skipped n).outCount = s.outCount := rfl
@[simp] theorem skipped_blockSize (s : State) (n : Nat) : (s.skipped n).blockSize = s.blockSize := rfl
@[simp] theorem skipped_dicbit (s : State) (n : Nat) : (s.skipped n).dicbit = s.dicbit := rfl
@[simp] theorem skipped_eMethod (s : State) (n : Nat) : (s.skipped n).eMethod = s.eMethod := rfl
@[simp] theorem skipped_eFill (s : State) (n : Nat) : (s.skipped n).eFill = s.eFill := rfl
@[simp] theorem skipped_np (s : State) (n : Nat) : (s.skipped n).np = s.np := rfl
@[simp] theorem skipped_pbit (s : State) (n : Nat) : (s.skipped n).pbit = s.pbit := rfl
@[simp] theorem skipped_reader (s : State) (n : Nat) : (s.skipped n).reader = s.reader.advance n := rfl
@[simp] theorem skipped_tabC (s : State) (n : Nat) : (s.skipped n).tabC = s.tabC := rfl
@[simp] theorem skipped_tabPt (s : State) (n : Nat) : (s.skipped n).tabPt = s.tabPt := rfl
@[simp] theorem skipped_arena (s : State) (n : Nat) : (s.skipped n).arena = s.arena := rfl
@[simp] theorem skipped_window (s : State) (n : Nat) : (s.skipped n).window = s.window := rfl
@[simp] theorem skipped_source (s : State) (n : Nat) : (s.skipped n).source = s.source := rfl
@[simp] theorem skipped_sinkRoom (s : State) (n : Nat) : (s.skipped n).sinkRoom = s.sinkRoom := rfl
@[simp] theorem skipped_trace (s : State) (n : Nat) : (s.skipped n).trace = s.trace := rfl
@[simp] theorem skipped_inFlight (s : State) (n : Nat) : (s.skipped n).inFlight = s.inFlight := rfl
@[simp] theorem skipped_reads (s : State) (n : Nat) : (s.skipped n).reads = s.reads := rfl
@[simp] theorem skipped_schedule (s : State) (n : Nat) : (s.skipped n).schedule = s.schedule := rfl
@[simp] theorem skipped_draws (s : State) (n : Nat) : (s.skipped n).draws = s.draws := rfl

/-- Skipping twice. -/
theorem skipped_skipped (s : State) (a b : Nat) : (s.skipped a).skipped b = s.skipped (a + b) := by
  simp [State.skipped, Reader.advance, BitVec.ofNat_add, BitVec.add_assoc]

theorem advance_advance (r : Reader) (a b : Nat) : (r.advance a).advance b = r.advance (a + b) := by
  simp [Reader.advance, BitVec.ofNat_add, BitVec.add_assoc]

/-! ### `State.setTab` -/

@[simp] theorem setTab_cmd (s : State) (t : Table) (h : HuffTable (entryWidth t)) : (s.setTab t h).cmd = s.cmd := by
  cases t <;> rfl
@[simp] theorem setTab_done (s : State) (t : Table) (h : HuffTable (entryWidth t)) : (s.setTab t h).done = s.done := by
  cases t <;> rfl
@[simp] theorem setTab_err (s : State) (t : Table) (h : HuffTable (entryWidth t)) : (s.setTab t h).err = s.err := by
  cases t <;> rfl
@[simp] theorem setTab_errcode (s : State) (t : Table) (h : HuffTable (entryWidth t)) : (s.setTab t h).errcode = s.errcode := by
  cases t <;> rfl
@[simp] theorem setTab_overrun (s : State) (t : Table) (h : HuffTable (entryWidth t)) : (s.setTab t h).overrun = s.overrun := by
  cases t <;> rfl
@[simp] theorem setTab_dropped (s : State) (t : Table) (h : HuffTable (entryWidth t)) : (s.setTab t h).dropped = s.dropped := by
  cases t <;> rfl
@[simp] theorem setTab_estate (s : State) (t : Table) (h : HuffTable (entryWidth t)) : (s.setTab t h).estate = s.estate := by
  cases t <;> rfl
@[simp] theorem setTab_ctrl (s : State) (t : Table) (h : HuffTable (entryWidth t)) : (s.setTab t h).ctrl = s.ctrl := by
  cases t <;> rfl
@[simp] theorem setTab_packedLo (s : State) (t : Table) (h : HuffTable (entryWidth t)) : (s.setTab t h).packedLo = s.packedLo := by
  cases t <;> rfl
@[simp] theorem setTab_packedHi (s : State) (t : Table) (h : HuffTable (entryWidth t)) : (s.setTab t h).packedHi = s.packedHi := by
  cases t <;> rfl
@[simp] theorem setTab_origLo (s : State) (t : Table) (h : HuffTable (entryWidth t)) : (s.setTab t h).origLo = s.origLo := by
  cases t <;> rfl
@[simp] theorem setTab_origHi (s : State) (t : Table) (h : HuffTable (entryWidth t)) : (s.setTab t h).origHi = s.origHi := by
  cases t <;> rfl
@[simp] theorem setTab_arg (s : State) (t : Table) (h : HuffTable (entryWidth t)) : (s.setTab t h).arg = s.arg := by
  cases t <;> rfl
@[simp] theorem setTab_result (s : State) (t : Table) (h : HuffTable (entryWidth t)) : (s.setTab t h).result = s.result := by
  cases t <;> rfl
@[simp] theorem setTab_crc16 (s : State) (t : Table) (h : HuffTable (entryWidth t)) : (s.setTab t h).crc16 = s.crc16 := by
  cases t <;> rfl
@[simp] theorem setTab_crc32 (s : State) (t : Table) (h : HuffTable (entryWidth t)) : (s.setTab t h).crc32 = s.crc32 := by
  cases t <;> rfl
@[simp] theorem setTab_sum8 (s : State) (t : Table) (h : HuffTable (entryWidth t)) : (s.setTab t h).sum8 = s.sum8 := by
  cases t <;> rfl
@[simp] theorem setTab_decodeCount (s : State) (t : Table) (h : HuffTable (entryWidth t)) : (s.setTab t h).decodeCount = s.decodeCount := by
  cases t <;> rfl
@[simp] theorem setTab_outCount (s : State) (t : Table) (h : HuffTable (entryWidth t)) : (s.setTab t h).outCount = s.outCount := by
  cases t <;> rfl
@[simp] theorem setTab_blockSize (s : State) (t : Table) (h : HuffTable (entryWidth t)) : (s.setTab t h).blockSize = s.blockSize := by
  cases t <;> rfl
@[simp] theorem setTab_dicbit (s : State) (t : Table) (h : HuffTable (entryWidth t)) : (s.setTab t h).dicbit = s.dicbit := by
  cases t <;> rfl
@[simp] theorem setTab_eMethod (s : State) (t : Table) (h : HuffTable (entryWidth t)) : (s.setTab t h).eMethod = s.eMethod := by
  cases t <;> rfl
@[simp] theorem setTab_eFill (s : State) (t : Table) (h : HuffTable (entryWidth t)) : (s.setTab t h).eFill = s.eFill := by
  cases t <;> rfl
@[simp] theorem setTab_np (s : State) (t : Table) (h : HuffTable (entryWidth t)) : (s.setTab t h).np = s.np := by
  cases t <;> rfl
@[simp] theorem setTab_pbit (s : State) (t : Table) (h : HuffTable (entryWidth t)) : (s.setTab t h).pbit = s.pbit := by
  cases t <;> rfl
@[simp] theorem setTab_reader (s : State) (t : Table) (h : HuffTable (entryWidth t)) : (s.setTab t h).reader = s.reader := by
  cases t <;> rfl
@[simp] theorem setTab_arena (s : State) (t : Table) (h : HuffTable (entryWidth t)) : (s.setTab t h).arena = s.arena := by
  cases t <;> rfl
@[simp] theorem setTab_window (s : State) (t : Table) (h : HuffTable (entryWidth t)) : (s.setTab t h).window = s.window := by
  cases t <;> rfl
@[simp] theorem setTab_source (s : State) (t : Table) (h : HuffTable (entryWidth t)) : (s.setTab t h).source = s.source := by
  cases t <;> rfl
@[simp] theorem setTab_sinkRoom (s : State) (t : Table) (h : HuffTable (entryWidth t)) : (s.setTab t h).sinkRoom = s.sinkRoom := by
  cases t <;> rfl
@[simp] theorem setTab_trace (s : State) (t : Table) (h : HuffTable (entryWidth t)) : (s.setTab t h).trace = s.trace := by
  cases t <;> rfl
@[simp] theorem setTab_inFlight (s : State) (t : Table) (h : HuffTable (entryWidth t)) : (s.setTab t h).inFlight = s.inFlight := by
  cases t <;> rfl
@[simp] theorem setTab_reads (s : State) (t : Table) (h : HuffTable (entryWidth t)) : (s.setTab t h).reads = s.reads := by
  cases t <;> rfl
@[simp] theorem setTab_schedule (s : State) (t : Table) (h : HuffTable (entryWidth t)) : (s.setTab t h).schedule = s.schedule := by
  cases t <;> rfl
@[simp] theorem setTab_draws (s : State) (t : Table) (h : HuffTable (entryWidth t)) : (s.setTab t h).draws = s.draws := by
  cases t <;> rfl

@[simp] theorem tab_setTab (s : State) (t : Table) (h : HuffTable (entryWidth t)) : (s.setTab t h).tab t = h := by
  cases t <;> rfl

@[simp] theorem setTab_tab (s : State) (t : Table) : s.setTab t (s.tab t) = s := by
  cases t <;> rfl

@[simp] theorem setTab_setTab (s : State) (t : Table) (h k : HuffTable (entryWidth t)) :
    (s.setTab t h).setTab t k = s.setTab t k := by
  cases t <;> rfl

/-- The other table is not touched. -/
theorem tab_setTab_other (s : State) {t u : Table} (h : HuffTable (entryWidth t)) (hu : u ≠ t) :
    (s.setTab t h).tab u = s.tab u := by
  cases t <;> cases u <;> first | rfl | exact absurd rfl hu

/-! ### The valid flags after a failure -/

@[simp] theorem clearValid_noneValid (s : State) : s.clearValid.noneValid = true := rfl

@[simp] theorem recordErr_noneValid (c : ErrCode) (s : State) : (State.recordErr c s).noneValid = true := rfl

@[simp] theorem failCommand_noneValid (c : ErrCode) (s : State) : (State.failCommand c s).noneValid = true := rfl

@[simp] theorem failDecode_noneValid (c : ErrCode) (s : State) : (State.failDecode c s).noneValid = true := rfl

/-- A failed command in one line: R402's lines, the free values of R403, BUSY falling. -/
theorem failCommand_eq (c : ErrCode) (s : State) :
    State.failCommand c s = ((s.failedWith c).scramble).retire := rfl

/-- A decode failure in one line: R402's lines, and BUSY falling. -/
theorem failDecode_eq (c : ErrCode) (s : State) : State.failDecode c s = (s.failedWith c).retire := rfl

/-! ### Ending -/

/-- Ending a command whose port events are known. -/
theorem retire_eq_ended (s : State) : s.retire = { s with inFlight := [] }.ended s.inFlight := rfl

/-- A command whose body ends in `u`, but for the port events `es` that it made. -/
theorem command_ended {legal : Bool} {allowed : EState → Bool} {body : Eng Unit} {s : State} (u : State)
    (es : List PortEvent) (hl : legal = true) (ha : allowed s.estate = true)
    (hb : body { s with inFlight := [] } = .ok () { u with inFlight := es }) :
    command legal allowed body s = .next (u.ended es) :=
  command_ok hl ha hb

/-- What a failure before any effect leaves. -/
theorem failCommand_refusedAs (c : ErrCode) (s : State) :
    s.RefusedAs (State.failCommand c { s with inFlight := [] }) c := by
  rw [failCommand_eq]
  constructor
  · rfl
  · rfl
  · rfl
  · rfl
  · rfl
  · exact ⟨rfl, rfl, rfl⟩
  · exact ⟨rfl, rfl, rfl, rfl, rfl, rfl⟩
  · exact ⟨rfl, rfl, rfl⟩
  · simp [Window.scramble]
  · exact ⟨rfl, rfl, rfl, rfl, rfl⟩
  · exact ⟨rfl, rfl, rfl⟩
  · simp [HuffTable.invalidate]
  · simp [Arena.invalidate]
  · simp
  · exact ⟨rfl, rfl, rfl, rfl⟩
  · exact ⟨rfl, rfl⟩

/-- A command that raises before it has changed anything. -/
theorem command_refusedAs {legal : Bool} {allowed : EState → Bool} {body : Eng Unit} {s : State} {c : ErrCode}
    (hl : legal = true) (ha : allowed s.estate = true)
    (hb : body { s with inFlight := [] } = .error (.raise c) { s with inFlight := [] }) :
    ∃ t, command legal allowed body s = .next t ∧ s.RefusedAs t c :=
  ⟨_, command_raise hl ha hb, failCommand_refusedAs c s⟩

/-- A command that the entry state refuses. -/
theorem command_refused_refusedAs {legal : Bool} {allowed : EState → Bool} {body : Eng Unit} {s : State}
    (hl : legal = true) (ha : allowed s.estate = false) :
    ∃ t, command legal allowed body s = .next t ∧ s.RefusedAs t .badState :=
  ⟨_, command_refused hl ha, failCommand_refusedAs _ s⟩

@[simp] theorem emitted_nil (s : State) : s.emitted [] = s := by
  simp [State.emitted]

/-- Folding two runs of values under one enable bit. -/
theorem fold_enabled {α β : Type} (on : Bool) (f : β → α → β) (c : β) (as bs : List α) :
    (if on then bs.foldl f (if on then as.foldl f c else c) else if on then as.foldl f c else c) =
      if on then (as ++ bs).foldl f c else c := by
  cases on <;> simp

/-- Emitting some bytes and then more is emitting all of them (R181 (1), (4)). -/
theorem emitted_append (s : State) (as bs : List Byte) : (s.emitted as).emitted bs = s.emitted (as ++ bs) := by
  have hc : s.outCount + BitVec.ofNat 64 as.length + BitVec.ofNat 64 bs.length =
      s.outCount + BitVec.ofNat 64 (as ++ bs).length := by
    rw [List.length_append, BitVec.ofNat_add, BitVec.add_assoc]
  have h16 := fold_enabled s.autoCrc16 crc16Update s.crc16 as bs
  have h32 := fold_enabled s.autoCrc32 crc32Update s.crc32 as bs
  have h8 := fold_enabled s.autoSum sum8Update s.sum8 as bs
  unfold State.emitted
  dsimp only
  rw [hc]
  congr 1

end Sys2Proof.Laws
end

