-- ==== Sys2Proof/Laws/Arena.lean ====
section
/-! SUPPORT. The laws of the adaptive arena's operations: each changes only the four RAMs, keeps their canonical form, and
writes one element. -/

namespace Sys2Proof.Laws

open Sys2Proof.Machine

/-! ### Only the RAMs change -/

/-- `b` is `a` but for the contents of its RAMs: every register and flag is the same. -/
def OnlyRams (a b : Arena) : Prop :=
  b = { a with freq := b.freq, child := b.child, parent := b.parent, sNode := b.sNode }

theorem OnlyRams.rfl {a : Arena} : OnlyRams a a := by simp [OnlyRams]

theorem OnlyRams.trans {a b c : Arena} (h : OnlyRams a b) (k : OnlyRams b c) : OnlyRams a c := by
  unfold OnlyRams at *
  rw [k, h]

theorem setFreq_onlyRams (a : Arena) (i v : Nat) : OnlyRams a (a.setFreq i v) := by simp [OnlyRams, Arena.setFreq]

theorem setChild_onlyRams (a : Arena) (i : Nat) (v : Int) : OnlyRams a (a.setChild i v) := by
  simp [OnlyRams, Arena.setChild]

theorem setParent_onlyRams (a : Arena) (i v : Nat) : OnlyRams a (a.setParent i v) := by simp [OnlyRams, Arena.setParent]

theorem setSNode_onlyRams (a : Arena) (i v : Nat) : OnlyRams a (a.setSNode i v) := by simp [OnlyRams, Arena.setSNode]

theorem scramble_onlyRams (a : Arena) (k : Nat) : OnlyRams a (a.scramble k) := by simp only [OnlyRams, Arena.scramble]

theorem linkBelow_onlyRams (a : Arena) (c : Int) (n : Nat) : OnlyRams a (a.linkBelow c n) := by
  unfold Arena.linkBelow
  split
  · exact (setParent_onlyRams _ _ _).trans (setParent_onlyRams _ _ _)
  · exact setSNode_onlyRams _ _ _

theorem linkLeaf_onlyRams (a : Arena) (c : Int) (n : Nat) : OnlyRams a (a.linkLeaf c n) := by
  unfold Arena.linkLeaf
  split
  · exact setSNode_onlyRams _ _ _
  · exact OnlyRams.rfl

theorem swapBelow_onlyRams (a : Arena) (p q : Nat) : OnlyRams a (a.swapBelow p q) :=
  (((setChild_onlyRams _ _ _).trans (setChild_onlyRams _ _ _)).trans (linkBelow_onlyRams _ _ _)).trans
    (linkBelow_onlyRams _ _ _)

theorem inc_onlyRams (a : Arena) (p : Nat) : OnlyRams a (a.inc p).1 := by
  unfold Arena.inc
  refine OnlyRams.trans ?_ (setFreq_onlyRams _ _ _)
  split
  · exact swapBelow_onlyRams _ _ _
  · exact OnlyRams.rfl

theorem climb_onlyRams (root : Nat) : ∀ (turns : Nat) (a : Arena) (q k : Nat),
    OnlyRams a (Arena.climb root turns a q k).1
  | 0, a, _, k => scramble_onlyRams a k
  | turns + 1, a, q, k => by
    unfold Arena.climb
    split
    · exact OnlyRams.rfl
    · exact (inc_onlyRams a q).trans (climb_onlyRams root turns _ _ k)

/-! ### The canonical form -/

theorem arena_wf_iff (a : Arena) : a.wf = true ↔
    cellsWf arenaNodes 0#16 a.freq = true ∧ cellsWf arenaNodes 0#16 a.child = true ∧
      cellsWf arenaNodes 0#10 a.parent = true ∧ cellsWf arenaSymbols 0#10 a.sNode = true := by
  simp [Arena.wf, and_assoc]

theorem setFreq_wf {a : Arena} (h : a.wf = true) (i v : Nat) : (a.setFreq i v).wf = true := by
  rw [arena_wf_iff] at *
  exact ⟨cellWrite_wf _ _ h.1, h.2.1, h.2.2.1, h.2.2.2⟩

theorem setChild_wf {a : Arena} (h : a.wf = true) (i : Nat) (v : Int) : (a.setChild i v).wf = true := by
  rw [arena_wf_iff] at *
  exact ⟨h.1, cellWrite_wf _ _ h.2.1, h.2.2.1, h.2.2.2⟩

theorem setParent_wf {a : Arena} (h : a.wf = true) (i v : Nat) : (a.setParent i v).wf = true := by
  rw [arena_wf_iff] at *
  exact ⟨h.1, h.2.1, cellWrite_wf _ _ h.2.2.1, h.2.2.2⟩

theorem setSNode_wf {a : Arena} (h : a.wf = true) (i v : Nat) : (a.setSNode i v).wf = true := by
  rw [arena_wf_iff] at *
  exact ⟨h.1, h.2.1, h.2.2.1, cellWrite_wf _ _ h.2.2.2⟩

theorem scramble_wf (a : Arena) (k : Nat) : (a.scramble k).wf = true := by
  rw [arena_wf_iff]
  simp only [Arena.scramble, cellsOf_wf, and_self]

theorem linkBelow_wf {a : Arena} (h : a.wf = true) (c : Int) (n : Nat) : (a.linkBelow c n).wf = true := by
  unfold Arena.linkBelow
  split
  · exact setParent_wf (setParent_wf h _ _) _ _
  · exact setSNode_wf h _ _

theorem linkLeaf_wf {a : Arena} (h : a.wf = true) (c : Int) (n : Nat) : (a.linkLeaf c n).wf = true := by
  unfold Arena.linkLeaf
  split
  · exact setSNode_wf h _ _
  · exact h

theorem swapBelow_wf {a : Arena} (h : a.wf = true) (p q : Nat) : (a.swapBelow p q).wf = true :=
  linkBelow_wf (linkBelow_wf (setChild_wf (setChild_wf h _ _) _ _) _ _) _ _

theorem inc_wf {a : Arena} (h : a.wf = true) (p : Nat) : (a.inc p).1.wf = true := by
  unfold Arena.inc
  refine setFreq_wf ?_ _ _
  split
  · exact swapBelow_wf h _ _
  · exact h

theorem climb_wf (root : Nat) : ∀ (turns : Nat) {a : Arena} (q k : Nat), a.wf = true →
    (Arena.climb root turns a q k).1.wf = true
  | 0, a, _, k, _ => scramble_wf a k
  | turns + 1, a, q, k, h => by
    unfold Arena.climb
    split
    · exact h
    · exact climb_wf root turns _ k (inc_wf h q)

/-! ### The engine's update of the arena -/

@[simp] theorem eng_updateArena (f : Arena → Nat → Arena × Nat) (s : State) :
    updateArena f s = .ok () { s with arena := (f s.arena s.draws).1, draws := (f s.arena s.draws).2 } := rfl

/-- A climb that starts at the root changes nothing. -/
@[simp] theorem climb_root (root turns : Nat) (a : Arena) (k : Nat) :
    Arena.climb root (turns + 1) a root k = (a, k) := by
  simp [Arena.climb]

/-- One turn of a climb below the root. -/
theorem climb_step {root q : Nat} (h : q ≠ root) (turns : Nat) (a : Arena) (k : Nat) :
    Arena.climb root (turns + 1) a q k = Arena.climb root turns (a.inc q).1 (a.inc q).2 k := by
  simp [Arena.climb, h]

end Sys2Proof.Laws
end

