-- ==== Sys2Proof/Laws/Forms.lean ====
section
/-! SUPPORT. What the decoder's field extractions read from each format of R111. -/

namespace Sys2Proof.Laws

@[simp] theorem formF0_op (op : BitVec 8) : opField (formF0 op) = op := by
  apply BitVec.eq_of_getLsbD_eq
  intro k hk
  simp only [formF0, opField, BitVec.getLsbD_extractLsb', BitVec.getLsbD_append]
  interval_cases k <;> simp

@[simp] theorem formF0_0_24 (op : BitVec 8) : (formF0 op).extractLsb' 0 24 = 0#24 := by
  apply BitVec.eq_of_getLsbD_eq
  intro k hk
  simp only [formF0, BitVec.getLsbD_extractLsb', BitVec.getLsbD_append]
  interval_cases k <;> simp

@[simp] theorem formLow5_op (op : BitVec 8) (n : BitVec 5) : opField (formLow5 op n) = op := by
  apply BitVec.eq_of_getLsbD_eq
  intro k hk
  simp only [formLow5, opField, BitVec.getLsbD_extractLsb', BitVec.getLsbD_append]
  interval_cases k <;> simp

@[simp] theorem formLow5_5_19 (op : BitVec 8) (n : BitVec 5) : (formLow5 op n).extractLsb' 5 19 = 0#19 := by
  apply BitVec.eq_of_getLsbD_eq
  intro k hk
  simp only [formLow5, BitVec.getLsbD_extractLsb', BitVec.getLsbD_append]
  interval_cases k <;> simp

@[simp] theorem formLow5_0_5 (op : BitVec 8) (n : BitVec 5) : (formLow5 op n).extractLsb' 0 5 = n := by
  apply BitVec.eq_of_getLsbD_eq
  intro k hk
  simp only [formLow5, BitVec.getLsbD_extractLsb', BitVec.getLsbD_append]
  interval_cases k <;> simp

@[simp] theorem formFB_op (op : BitVec 8) (b : BitVec 8) : opField (formFB op b) = op := by
  apply BitVec.eq_of_getLsbD_eq
  intro k hk
  simp only [formFB, opField, BitVec.getLsbD_extractLsb', BitVec.getLsbD_append]
  interval_cases k <;> simp

@[simp] theorem formFB_8_16 (op : BitVec 8) (b : BitVec 8) : (formFB op b).extractLsb' 8 16 = 0#16 := by
  apply BitVec.eq_of_getLsbD_eq
  intro k hk
  simp only [formFB, BitVec.getLsbD_extractLsb', BitVec.getLsbD_append]
  interval_cases k <;> simp

@[simp] theorem formFB_0_8 (op : BitVec 8) (b : BitVec 8) : (formFB op b).extractLsb' 0 8 = b := by
  apply BitVec.eq_of_getLsbD_eq
  intro k hk
  simp only [formFB, BitVec.getLsbD_extractLsb', BitVec.getLsbD_append]
  interval_cases k <;> simp

@[simp] theorem formFM_op (op : BitVec 8) (m : BitVec 3) : opField (formFM op m) = op := by
  apply BitVec.eq_of_getLsbD_eq
  intro k hk
  simp only [formFM, opField, BitVec.getLsbD_extractLsb', BitVec.getLsbD_append]
  interval_cases k <;> simp

@[simp] theorem formFM_3_21 (op : BitVec 8) (m : BitVec 3) : (formFM op m).extractLsb' 3 21 = 0#21 := by
  apply BitVec.eq_of_getLsbD_eq
  intro k hk
  simp only [formFM, BitVec.getLsbD_extractLsb', BitVec.getLsbD_append]
  interval_cases k <;> simp

@[simp] theorem formFM_0_3 (op : BitVec 8) (m : BitVec 3) : (formFM op m).extractLsb' 0 3 = m := by
  apply BitVec.eq_of_getLsbD_eq
  intro k hk
  simp only [formFM, BitVec.getLsbD_extractLsb', BitVec.getLsbD_append]
  interval_cases k <;> simp

@[simp] theorem formFT_op (op : BitVec 8) (t : Table) : opField (formFT op t) = op := by
  apply BitVec.eq_of_getLsbD_eq
  intro k hk
  simp only [formFT, opField, BitVec.getLsbD_extractLsb', BitVec.getLsbD_append]
  interval_cases k <;> simp

@[simp] theorem formFT_23_1 (op : BitVec 8) (t : Table) : (formFT op t).extractLsb' 23 1 = tBit t := by
  apply BitVec.eq_of_getLsbD_eq
  intro k hk
  simp only [formFT, BitVec.getLsbD_extractLsb', BitVec.getLsbD_append]
  interval_cases k <;> simp

@[simp] theorem formFT_0_23 (op : BitVec 8) (t : Table) : (formFT op t).extractLsb' 0 23 = 0#23 := by
  apply BitVec.eq_of_getLsbD_eq
  intro k hk
  simp only [formFT, BitVec.getLsbD_extractLsb', BitVec.getLsbD_append]
  interval_cases k <;> simp

@[simp] theorem formFL_op (op : BitVec 8) (t : Table) (i : BitVec 9) (l : BitVec 5) : opField (formFL op t i l) = op := by
  apply BitVec.eq_of_getLsbD_eq
  intro k hk
  simp only [formFL, opField, BitVec.getLsbD_extractLsb', BitVec.getLsbD_append]
  interval_cases k <;> simp

@[simp] theorem formFL_23_1 (op : BitVec 8) (t : Table) (i : BitVec 9) (l : BitVec 5) : (formFL op t i l).extractLsb' 23 1 = tBit t := by
  apply BitVec.eq_of_getLsbD_eq
  intro k hk
  simp only [formFL, BitVec.getLsbD_extractLsb', BitVec.getLsbD_append]
  interval_cases k <;> simp

@[simp] theorem formFL_21_2 (op : BitVec 8) (t : Table) (i : BitVec 9) (l : BitVec 5) : (formFL op t i l).extractLsb' 21 2 = 0#2 := by
  apply BitVec.eq_of_getLsbD_eq
  intro k hk
  simp only [formFL, BitVec.getLsbD_extractLsb', BitVec.getLsbD_append]
  interval_cases k <;> simp

@[simp] theorem formFL_12_9 (op : BitVec 8) (t : Table) (i : BitVec 9) (l : BitVec 5) : (formFL op t i l).extractLsb' 12 9 = i := by
  apply BitVec.eq_of_getLsbD_eq
  intro k hk
  simp only [formFL, BitVec.getLsbD_extractLsb', BitVec.getLsbD_append]
  interval_cases k <;> simp

@[simp] theorem formFL_5_7 (op : BitVec 8) (t : Table) (i : BitVec 9) (l : BitVec 5) : (formFL op t i l).extractLsb' 5 7 = 0#7 := by
  apply BitVec.eq_of_getLsbD_eq
  intro k hk
  simp only [formFL, BitVec.getLsbD_extractLsb', BitVec.getLsbD_append]
  interval_cases k <;> simp

@[simp] theorem formFL_0_5 (op : BitVec 8) (t : Table) (i : BitVec 9) (l : BitVec 5) : (formFL op t i l).extractLsb' 0 5 = l := by
  apply BitVec.eq_of_getLsbD_eq
  intro k hk
  simp only [formFL, BitVec.getLsbD_extractLsb', BitVec.getLsbD_append]
  interval_cases k <;> simp

@[simp] theorem formFA_op (op : BitVec 8) (t : Table) (c : BitVec 9) (s : BitVec 9) : opField (formFA op t c s) = op := by
  apply BitVec.eq_of_getLsbD_eq
  intro k hk
  simp only [formFA, opField, BitVec.getLsbD_extractLsb', BitVec.getLsbD_append]
  interval_cases k <;> simp

@[simp] theorem formFA_23_1 (op : BitVec 8) (t : Table) (c : BitVec 9) (s : BitVec 9) : (formFA op t c s).extractLsb' 23 1 = tBit t := by
  apply BitVec.eq_of_getLsbD_eq
  intro k hk
  simp only [formFA, BitVec.getLsbD_extractLsb', BitVec.getLsbD_append]
  interval_cases k <;> simp

@[simp] theorem formFA_21_2 (op : BitVec 8) (t : Table) (c : BitVec 9) (s : BitVec 9) : (formFA op t c s).extractLsb' 21 2 = 0#2 := by
  apply BitVec.eq_of_getLsbD_eq
  intro k hk
  simp only [formFA, BitVec.getLsbD_extractLsb', BitVec.getLsbD_append]
  interval_cases k <;> simp

@[simp] theorem formFA_12_9 (op : BitVec 8) (t : Table) (c : BitVec 9) (s : BitVec 9) : (formFA op t c s).extractLsb' 12 9 = c := by
  apply BitVec.eq_of_getLsbD_eq
  intro k hk
  simp only [formFA, BitVec.getLsbD_extractLsb', BitVec.getLsbD_append]
  interval_cases k <;> simp

@[simp] theorem formFA_9_3 (op : BitVec 8) (t : Table) (c : BitVec 9) (s : BitVec 9) : (formFA op t c s).extractLsb' 9 3 = 0#3 := by
  apply BitVec.eq_of_getLsbD_eq
  intro k hk
  simp only [formFA, BitVec.getLsbD_extractLsb', BitVec.getLsbD_append]
  interval_cases k <;> simp

@[simp] theorem formFA_0_9 (op : BitVec 8) (t : Table) (c : BitVec 9) (s : BitVec 9) : (formFA op t c s).extractLsb' 0 9 = s := by
  apply BitVec.eq_of_getLsbD_eq
  intro k hk
  simp only [formFA, BitVec.getLsbD_extractLsb', BitVec.getLsbD_append]
  interval_cases k <;> simp

@[simp] theorem formFI_op (op : BitVec 8) (t : Table) (i : BitVec 12) : opField (formFI op t i) = op := by
  apply BitVec.eq_of_getLsbD_eq
  intro k hk
  simp only [formFI, opField, BitVec.getLsbD_extractLsb', BitVec.getLsbD_append]
  interval_cases k <;> simp

@[simp] theorem formFI_23_1 (op : BitVec 8) (t : Table) (i : BitVec 12) : (formFI op t i).extractLsb' 23 1 = tBit t := by
  apply BitVec.eq_of_getLsbD_eq
  intro k hk
  simp only [formFI, BitVec.getLsbD_extractLsb', BitVec.getLsbD_append]
  interval_cases k <;> simp

@[simp] theorem formFI_12_11 (op : BitVec 8) (t : Table) (i : BitVec 12) : (formFI op t i).extractLsb' 12 11 = 0#11 := by
  apply BitVec.eq_of_getLsbD_eq
  intro k hk
  simp only [formFI, BitVec.getLsbD_extractLsb', BitVec.getLsbD_append]
  interval_cases k <;> simp

@[simp] theorem formFI_0_12 (op : BitVec 8) (t : Table) (i : BitVec 12) : (formFI op t i).extractLsb' 0 12 = i := by
  apply BitVec.eq_of_getLsbD_eq
  intro k hk
  simp only [formFI, BitVec.getLsbD_extractLsb', BitVec.getLsbD_append]
  interval_cases k <;> simp

@[simp] theorem formFR_op (op : BitVec 8) (t : Table) (d : Side) (i : BitVec 10) : opField (formFR op t d i) = op := by
  apply BitVec.eq_of_getLsbD_eq
  intro k hk
  simp only [formFR, opField, BitVec.getLsbD_extractLsb', BitVec.getLsbD_append]
  interval_cases k <;> simp

@[simp] theorem formFR_23_1 (op : BitVec 8) (t : Table) (d : Side) (i : BitVec 10) : (formFR op t d i).extractLsb' 23 1 = tBit t := by
  apply BitVec.eq_of_getLsbD_eq
  intro k hk
  simp only [formFR, BitVec.getLsbD_extractLsb', BitVec.getLsbD_append]
  interval_cases k <;> simp

@[simp] theorem formFR_22_1 (op : BitVec 8) (t : Table) (d : Side) (i : BitVec 10) : (formFR op t d i).extractLsb' 22 1 = dBit d := by
  apply BitVec.eq_of_getLsbD_eq
  intro k hk
  simp only [formFR, BitVec.getLsbD_extractLsb', BitVec.getLsbD_append]
  interval_cases k <;> simp

@[simp] theorem formFR_10_12 (op : BitVec 8) (t : Table) (d : Side) (i : BitVec 10) : (formFR op t d i).extractLsb' 10 12 = 0#12 := by
  apply BitVec.eq_of_getLsbD_eq
  intro k hk
  simp only [formFR, BitVec.getLsbD_extractLsb', BitVec.getLsbD_append]
  interval_cases k <;> simp

@[simp] theorem formFR_0_10 (op : BitVec 8) (t : Table) (d : Side) (i : BitVec 10) : (formFR op t d i).extractLsb' 0 10 = i := by
  apply BitVec.eq_of_getLsbD_eq
  intro k hk
  simp only [formFR, BitVec.getLsbD_extractLsb', BitVec.getLsbD_append]
  interval_cases k <;> simp

@[simp] theorem formFRM_op (op : BitVec 8) (m : ReadyTable) (c : BitVec 8) : opField (formFRM op m c) = op := by
  apply BitVec.eq_of_getLsbD_eq
  intro k hk
  simp only [formFRM, opField, BitVec.getLsbD_extractLsb', BitVec.getLsbD_append]
  interval_cases k <;> simp

@[simp] theorem formFRM_17_7 (op : BitVec 8) (m : ReadyTable) (c : BitVec 8) : (formFRM op m c).extractLsb' 17 7 = 0#7 := by
  apply BitVec.eq_of_getLsbD_eq
  intro k hk
  simp only [formFRM, BitVec.getLsbD_extractLsb', BitVec.getLsbD_append]
  interval_cases k <;> simp

@[simp] theorem formFRM_16_1 (op : BitVec 8) (m : ReadyTable) (c : BitVec 8) : (formFRM op m c).extractLsb' 16 1 = readyBit m := by
  apply BitVec.eq_of_getLsbD_eq
  intro k hk
  simp only [formFRM, BitVec.getLsbD_extractLsb', BitVec.getLsbD_append]
  interval_cases k <;> simp

@[simp] theorem formFRM_8_8 (op : BitVec 8) (m : ReadyTable) (c : BitVec 8) : (formFRM op m c).extractLsb' 8 8 = 0#8 := by
  apply BitVec.eq_of_getLsbD_eq
  intro k hk
  simp only [formFRM, BitVec.getLsbD_extractLsb', BitVec.getLsbD_append]
  interval_cases k <;> simp

@[simp] theorem formFRM_0_8 (op : BitVec 8) (m : ReadyTable) (c : BitVec 8) : (formFRM op m c).extractLsb' 0 8 = c := by
  apply BitVec.eq_of_getLsbD_eq
  intro k hk
  simp only [formFRM, BitVec.getLsbD_extractLsb', BitVec.getLsbD_append]
  interval_cases k <;> simp

@[simp] theorem formFP_op (op : BitVec 8) (c : BitVec 9) (w : BitVec 4) (s : BitVec 4) : opField (formFP op c w s) = op := by
  apply BitVec.eq_of_getLsbD_eq
  intro k hk
  simp only [formFP, opField, BitVec.getLsbD_extractLsb', BitVec.getLsbD_append]
  interval_cases k <;> simp

@[simp] theorem formFP_21_3 (op : BitVec 8) (c : BitVec 9) (w : BitVec 4) (s : BitVec 4) : (formFP op c w s).extractLsb' 21 3 = 0#3 := by
  apply BitVec.eq_of_getLsbD_eq
  intro k hk
  simp only [formFP, BitVec.getLsbD_extractLsb', BitVec.getLsbD_append]
  interval_cases k <;> simp

@[simp] theorem formFP_12_9 (op : BitVec 8) (c : BitVec 9) (w : BitVec 4) (s : BitVec 4) : (formFP op c w s).extractLsb' 12 9 = c := by
  apply BitVec.eq_of_getLsbD_eq
  intro k hk
  simp only [formFP, BitVec.getLsbD_extractLsb', BitVec.getLsbD_append]
  interval_cases k <;> simp

@[simp] theorem formFP_8_4 (op : BitVec 8) (c : BitVec 9) (w : BitVec 4) (s : BitVec 4) : (formFP op c w s).extractLsb' 8 4 = w := by
  apply BitVec.eq_of_getLsbD_eq
  intro k hk
  simp only [formFP, BitVec.getLsbD_extractLsb', BitVec.getLsbD_append]
  interval_cases k <;> simp

@[simp] theorem formFP_4_4 (op : BitVec 8) (c : BitVec 9) (w : BitVec 4) (s : BitVec 4) : (formFP op c w s).extractLsb' 4 4 = 0#4 := by
  apply BitVec.eq_of_getLsbD_eq
  intro k hk
  simp only [formFP, BitVec.getLsbD_extractLsb', BitVec.getLsbD_append]
  interval_cases k <;> simp

@[simp] theorem formFP_0_4 (op : BitVec 8) (c : BitVec 9) (w : BitVec 4) (s : BitVec 4) : (formFP op c w s).extractLsb' 0 4 = s := by
  apply BitVec.eq_of_getLsbD_eq
  intro k hk
  simp only [formFP, BitVec.getLsbD_extractLsb', BitVec.getLsbD_append]
  interval_cases k <;> simp

@[simp] theorem formFS9_op (op : BitVec 8) (s : BitVec 9) : opField (formFS9 op s) = op := by
  apply BitVec.eq_of_getLsbD_eq
  intro k hk
  simp only [formFS9, opField, BitVec.getLsbD_extractLsb', BitVec.getLsbD_append]
  interval_cases k <;> simp

@[simp] theorem formFS9_9_15 (op : BitVec 8) (s : BitVec 9) : (formFS9 op s).extractLsb' 9 15 = 0#15 := by
  apply BitVec.eq_of_getLsbD_eq
  intro k hk
  simp only [formFS9, BitVec.getLsbD_extractLsb', BitVec.getLsbD_append]
  interval_cases k <;> simp

@[simp] theorem formFS9_0_9 (op : BitVec 8) (s : BitVec 9) : (formFS9 op s).extractLsb' 0 9 = s := by
  apply BitVec.eq_of_getLsbD_eq
  intro k hk
  simp only [formFS9, BitVec.getLsbD_extractLsb', BitVec.getLsbD_append]
  interval_cases k <;> simp

@[simp] theorem formFS7_op (op : BitVec 8) (s : BitVec 7) : opField (formFS7 op s) = op := by
  apply BitVec.eq_of_getLsbD_eq
  intro k hk
  simp only [formFS7, opField, BitVec.getLsbD_extractLsb', BitVec.getLsbD_append]
  interval_cases k <;> simp

@[simp] theorem formFS7_7_17 (op : BitVec 8) (s : BitVec 7) : (formFS7 op s).extractLsb' 7 17 = 0#17 := by
  apply BitVec.eq_of_getLsbD_eq
  intro k hk
  simp only [formFS7, BitVec.getLsbD_extractLsb', BitVec.getLsbD_append]
  interval_cases k <;> simp

@[simp] theorem formFS7_0_7 (op : BitVec 8) (s : BitVec 7) : (formFS7 op s).extractLsb' 0 7 = s := by
  apply BitVec.eq_of_getLsbD_eq
  intro k hk
  simp only [formFS7, BitVec.getLsbD_extractLsb', BitVec.getLsbD_append]
  interval_cases k <;> simp

@[simp] theorem formFDR_op (op : BitVec 8) (f : DynField) (i : BitVec 10) : opField (formFDR op f i) = op := by
  apply BitVec.eq_of_getLsbD_eq
  intro k hk
  simp only [formFDR, opField, BitVec.getLsbD_extractLsb', BitVec.getLsbD_append]
  interval_cases k <;> simp

@[simp] theorem formFDR_21_3 (op : BitVec 8) (f : DynField) (i : BitVec 10) : (formFDR op f i).extractLsb' 21 3 = dynFieldBits f := by
  apply BitVec.eq_of_getLsbD_eq
  intro k hk
  simp only [formFDR, BitVec.getLsbD_extractLsb', BitVec.getLsbD_append]
  interval_cases k <;> simp

@[simp] theorem formFDR_10_11 (op : BitVec 8) (f : DynField) (i : BitVec 10) : (formFDR op f i).extractLsb' 10 11 = 0#11 := by
  apply BitVec.eq_of_getLsbD_eq
  intro k hk
  simp only [formFDR, BitVec.getLsbD_extractLsb', BitVec.getLsbD_append]
  interval_cases k <;> simp

@[simp] theorem formFDR_0_10 (op : BitVec 8) (f : DynField) (i : BitVec 10) : (formFDR op f i).extractLsb' 0 10 = i := by
  apply BitVec.eq_of_getLsbD_eq
  intro k hk
  simp only [formFDR, BitVec.getLsbD_extractLsb', BitVec.getLsbD_append]
  interval_cases k <;> simp

@[simp] theorem formFX_op (op : BitVec 8) (i : BitVec 16) : opField (formFX op i) = op := by
  apply BitVec.eq_of_getLsbD_eq
  intro k hk
  simp only [formFX, opField, BitVec.getLsbD_extractLsb', BitVec.getLsbD_append]
  interval_cases k <;> simp

@[simp] theorem formFX_16_8 (op : BitVec 8) (i : BitVec 16) : (formFX op i).extractLsb' 16 8 = 0#8 := by
  apply BitVec.eq_of_getLsbD_eq
  intro k hk
  simp only [formFX, BitVec.getLsbD_extractLsb', BitVec.getLsbD_append]
  interval_cases k <;> simp

@[simp] theorem formFX_0_16 (op : BitVec 8) (i : BitVec 16) : (formFX op i).extractLsb' 0 16 = i := by
  apply BitVec.eq_of_getLsbD_eq
  intro k hk
  simp only [formFX, BitVec.getLsbD_extractLsb', BitVec.getLsbD_append]
  interval_cases k <;> simp

/-! ### The enumerated fields -/

@[simp] theorem tBit_field (t : Table) : (if tBit t = 0#1 then Table.c else Table.pt) = t := by
  cases t <;> rfl

@[simp] theorem dBit_field (d : Side) : (if dBit d = 0#1 then Side.left else Side.right) = d := by
  cases d <;> rfl

@[simp] theorem readyBit_field (m : ReadyTable) : (if readyBit m = 0#1 then ReadyTable.lh1 else ReadyTable.lh3) = m := by
  cases m <;> rfl

@[simp] theorem dynFieldOf_bits (f : DynField) : dynFieldOf (dynFieldBits f) = f := by
  cases f <;> rfl

end Sys2Proof.Laws
end

