-- ==== Sys2Proof/Laws/Output.lean ====
section
/-! SUPPORT. What the window's operations answer where the sink takes every byte, and the laws of the dictionary. -/

namespace Sys2Proof.Laws

open Sys2Proof.Machine

/-! ### The dictionary -/

/-- DIC after one byte is written. -/
theorem window_read_write {x : Window} (h : Memory.wf x.dic = true) {a c : Nat} {b : Byte} :
    (x.write a b).read c = if c = a ∧ a < dicSize then b else x.read c :=
  cellGet_cellWrite h

theorem window_write_wf {x : Window} (h : Memory.wf x.dic = true) (a : Nat) (b : Byte) :
    Memory.wf (x.write a b).dic = true :=
  cellWrite_wf a b h

@[simp] theorem window_write_loc (x : Window) (a : Nat) (b : Byte) : (x.write a b).loc = x.loc := rfl

@[simp] theorem window_write_mask (x : Window) (a : Nat) (b : Byte) : (x.write a b).mask = x.mask := rfl

@[simp] theorem window_write_valid (x : Window) (a : Nat) (b : Byte) : (x.write a b).valid = x.valid := rfl

/-! ### Emission -/

/-- Everything one emission can do. -/
theorem emit_cases (b : Byte) (s : State) :
    (s.sinkRoom = some 0 ∧ emit b s = .error .stall s) ∨
    (s.sinkRoom ≠ some 0 ∧ emit b s = .ok ()
      { s.emitted [b] with inFlight := .emit b :: s.inFlight, sinkRoom := s.sinkRoom.map (· - 1) }) := by
  unfold emit
  by_cases h : s.sinkRoom = some 0
  · exact .inl ⟨h, by simp [h]⟩
  · refine .inr ⟨h, ?_⟩
    simp [h, State.foldChecksums, State.emitted, State.autoCrc16, State.autoCrc32, State.autoSum]

/-- One emission to a sink that takes every byte. -/
theorem emit_open {s : State} (h : s.sinkRoom = none) (b : Byte) :
    emit b s = .ok () { s.emitted [b] with inFlight := .emit b :: s.inFlight } := by
  rcases emit_cases b s with ⟨h', _⟩ | ⟨_, he⟩
  · rw [h] at h'
    cases h'
  · rw [he, h]
    simp [h]

@[simp] theorem emitEvents_nil : emitEvents [] = [] := rfl

theorem emitEvents_cons (b : Byte) (bs : List Byte) : emitEvents (b :: bs) = emitEvents bs ++ [.emit b] := by
  simp [emitEvents]

/-- The bytes that `emitRange` emits. -/
def rangeBytes (x : Window) (i n : Nat) : List Byte := (List.range' i n).map x.read

theorem rangeBytes_zero (x : Window) (n : Nat) : rangeBytes x 0 n = x.first n := by
  simp [rangeBytes, Window.first, List.range_eq_range']

/-- A flush to a sink that takes every byte: each byte once, in order, counted and folded into the checksums. -/
theorem emitRange_open :
    ∀ (n i : Nat) (s : State), s.sinkRoom = none →
      emitRange n i s = .ok ()
        { s.emitted (rangeBytes s.window i n) with
          inFlight := emitEvents (rangeBytes s.window i n) ++ s.inFlight }
  | 0, i, s, _ => by
    simp only [emitRange, eng_pure]
    change _ = EStateM.Result.ok () { s.emitted [] with inFlight := [] ++ s.inFlight }
    rw [emitted_nil]
    rfl
  | n + 1, i, s, h => by
    have hb : rangeBytes s.window i (n + 1) = s.window.read i :: rangeBytes s.window (i + 1) n := by
      simp [rangeBytes, List.range'_succ]
    simp only [emitRange, eng_bind, eng_get, emit_open h]
    rw [emitRange_open n (i + 1) _ (by simpa using h)]
    simp only [hb, emitEvents_cons, emitted_window, List.append_assoc, List.singleton_append]
    congr 1
    change ({ (s.emitted [s.window.read i]).emitted (rangeBytes s.window (i + 1) n) with inFlight := _ } : State) = _
    rw [emitted_append]
    rfl

end Sys2Proof.Laws
end

