-- ==== Sys2Proof/Laws/PerInstr.lean ====
section
/-! SUPPORT. Statements made once for each command: the word of a command has the fixed bits that its row of
spec/opcode_table.json gives it (mask and match), whatever its fields are. -/

namespace Sys2Proof.Laws

/-! ### The fixed bits of each format (R111): the opcode and the reserved zeros -/

theorem formF0_fixed (op : BitVec 8) : formF0 op &&& 0xFFFFFFFF#32 = op ++ 0#24 := by
  (apply BitVec.eq_of_getLsbD_eq
   intro k hk
   simp only [formF0, BitVec.getLsbD_and, BitVec.getLsbD_append]
   interval_cases k <;> simp)

theorem formLow5_fixed (op : BitVec 8) (n : BitVec 5) : formLow5 op n &&& 0xFFFFFFE0#32 = op ++ 0#24 := by
  (apply BitVec.eq_of_getLsbD_eq
   intro k hk
   simp only [formLow5, BitVec.getLsbD_and, BitVec.getLsbD_append]
   interval_cases k <;> simp)

theorem formFB_fixed (op : BitVec 8) (b : BitVec 8) : formFB op b &&& 0xFFFFFF00#32 = op ++ 0#24 := by
  (apply BitVec.eq_of_getLsbD_eq
   intro k hk
   simp only [formFB, BitVec.getLsbD_and, BitVec.getLsbD_append]
   interval_cases k <;> simp)

theorem formFM_fixed (op : BitVec 8) (m : BitVec 3) : formFM op m &&& 0xFFFFFFF8#32 = op ++ 0#24 := by
  (apply BitVec.eq_of_getLsbD_eq
   intro k hk
   simp only [formFM, BitVec.getLsbD_and, BitVec.getLsbD_append]
   interval_cases k <;> simp)

theorem formFT_fixed (op : BitVec 8) (t : Table) : formFT op t &&& 0xFF7FFFFF#32 = op ++ 0#24 := by
  cases t <;>
  (apply BitVec.eq_of_getLsbD_eq
   intro k hk
   simp only [formFT, tBit, BitVec.getLsbD_and, BitVec.getLsbD_append]
   interval_cases k <;> simp)

theorem formFL_fixed (op : BitVec 8) (t : Table) (i : BitVec 9) (l : BitVec 5) : formFL op t i l &&& 0xFF600FE0#32 = op ++ 0#24 := by
  cases t <;>
  (apply BitVec.eq_of_getLsbD_eq
   intro k hk
   simp only [formFL, tBit, BitVec.getLsbD_and, BitVec.getLsbD_append]
   interval_cases k <;> simp)

theorem formFA_fixed (op : BitVec 8) (t : Table) (c : BitVec 9) (s : BitVec 9) : formFA op t c s &&& 0xFF600E00#32 = op ++ 0#24 := by
  cases t <;>
  (apply BitVec.eq_of_getLsbD_eq
   intro k hk
   simp only [formFA, tBit, BitVec.getLsbD_and, BitVec.getLsbD_append]
   interval_cases k <;> simp)

theorem formFI_fixed (op : BitVec 8) (t : Table) (i : BitVec 12) : formFI op t i &&& 0xFF7FF000#32 = op ++ 0#24 := by
  cases t <;>
  (apply BitVec.eq_of_getLsbD_eq
   intro k hk
   simp only [formFI, tBit, BitVec.getLsbD_and, BitVec.getLsbD_append]
   interval_cases k <;> simp)

theorem formFR_fixed (op : BitVec 8) (t : Table) (d : Side) (i : BitVec 10) : formFR op t d i &&& 0xFF3FFC00#32 = op ++ 0#24 := by
  cases t <;>
  cases d <;>
  (apply BitVec.eq_of_getLsbD_eq
   intro k hk
   simp only [formFR, tBit, dBit, BitVec.getLsbD_and, BitVec.getLsbD_append]
   interval_cases k <;> simp)

theorem formFRM_fixed (op : BitVec 8) (m : ReadyTable) (c : BitVec 8) : formFRM op m c &&& 0xFFFEFF00#32 = op ++ 0#24 := by
  cases m <;>
  (apply BitVec.eq_of_getLsbD_eq
   intro k hk
   simp only [formFRM, readyBit, BitVec.getLsbD_and, BitVec.getLsbD_append]
   interval_cases k <;> simp)

theorem formFP_fixed (op : BitVec 8) (c : BitVec 9) (w : BitVec 4) (s : BitVec 4) : formFP op c w s &&& 0xFFE000F0#32 = op ++ 0#24 := by
  (apply BitVec.eq_of_getLsbD_eq
   intro k hk
   simp only [formFP, BitVec.getLsbD_and, BitVec.getLsbD_append]
   interval_cases k <;> simp)

theorem formFS9_fixed (op : BitVec 8) (s : BitVec 9) : formFS9 op s &&& 0xFFFFFE00#32 = op ++ 0#24 := by
  (apply BitVec.eq_of_getLsbD_eq
   intro k hk
   simp only [formFS9, BitVec.getLsbD_and, BitVec.getLsbD_append]
   interval_cases k <;> simp)

theorem formFS7_fixed (op : BitVec 8) (s : BitVec 7) : formFS7 op s &&& 0xFFFFFF80#32 = op ++ 0#24 := by
  (apply BitVec.eq_of_getLsbD_eq
   intro k hk
   simp only [formFS7, BitVec.getLsbD_and, BitVec.getLsbD_append]
   interval_cases k <;> simp)

theorem formFDR_fixed (op : BitVec 8) (f : DynField) (i : BitVec 10) : formFDR op f i &&& 0xFF1FFC00#32 = op ++ 0#24 := by
  cases f <;>
  (apply BitVec.eq_of_getLsbD_eq
   intro k hk
   simp only [formFDR, dynFieldBits, BitVec.getLsbD_and, BitVec.getLsbD_append]
   interval_cases k <;> simp)

theorem formFX_fixed (op : BitVec 8) (i : BitVec 16) : formFX op i &&& 0xFFFF0000#32 = op ++ 0#24 := by
  (apply BitVec.eq_of_getLsbD_eq
   intro k hk
   simp only [formFX, BitVec.getLsbD_and, BitVec.getLsbD_append]
   interval_cases k <;> simp)

/-! ### The rows of the opcode table -/

/-- The mask and the match of the command's row in spec/opcode_table.json. -/
def rowBits : Instr → Word × Word
  | .nop => (0xFFFFFFFF#32, 0x00000000#32)
  | .softReset => (0xFFFFFFFF#32, 0x01000000#32)
  | .entryStart => (0xFFFFFFFF#32, 0x02000000#32)
  | .run => (0xFFFFFFFF#32, 0x03000000#32)
  | .step => (0xFFFFFFFF#32, 0x04000000#32)
  | .finish => (0xFFFFFFFF#32, 0x05000000#32)
  | .decC => (0xFFFFFFFF#32, 0x06000000#32)
  | .decP => (0xFFFFFFFF#32, 0x07000000#32)
  | .blkStart => (0xFFFFFFFF#32, 0x08000000#32)
  | .brInit => (0xFFFFFFFF#32, 0x10000000#32)
  | .brPeek _ => (0xFFFFFFE0#32, 0x11000000#32)
  | .brSkip _ => (0xFFFFFFE0#32, 0x12000000#32)
  | .brGet _ => (0xFFFFFFE0#32, 0x13000000#32)
  | .crc16Byte _ => (0xFFFFFF00#32, 0x18000000#32)
  | .crc32Byte _ => (0xFFFFFF00#32, 0x19000000#32)
  | .sumByte _ => (0xFFFFFF00#32, 0x1A000000#32)
  | .ckClear _ => (0xFFFFFFF8#32, 0x1B000000#32)
  | .lenClear _ => (0xFF7FFFFF#32, 0x20000000#32)
  | .lenWrite _ _ _ => (0xFF600FE0#32, 0x21000000#32)
  | .lenRead _ _ _ => (0xFF600FE0#32, 0x22000000#32)
  | .htBuild _ _ _ => (0xFF600E00#32, 0x23000000#32)
  | .htFill _ _ _ => (0xFF600E00#32, 0x24000000#32)
  | .htDecode _ => (0xFF7FFFFF#32, 0x25000000#32)
  | .tblRead _ _ => (0xFF7FF000#32, 0x26000000#32)
  | .treeRead _ _ _ => (0xFF3FFC00#32, 0x27000000#32)
  | .htReadyMade _ _ => (0xFFFEFF00#32, 0x28000000#32)
  | .nsReadPt _ _ _ => (0xFFE000F0#32, 0x29000000#32)
  | .nsReadC => (0xFFFFFFFF#32, 0x2A000000#32)
  | .st0ReadC => (0xFFFFFFFF#32, 0x2B000000#32)
  | .st0ReadP => (0xFFFFFFFF#32, 0x2C000000#32)
  | .dynStartC _ => (0xFFFFFFE0#32, 0x30000000#32)
  | .dynStartP _ => (0xFFFFFFE0#32, 0x31000000#32)
  | .dynDecodeC => (0xFFFFFFFF#32, 0x32000000#32)
  | .dynDecodeP => (0xFFFFFFFF#32, 0x33000000#32)
  | .dynUpdateC _ => (0xFFFFFE00#32, 0x34000000#32)
  | .dynUpdateP _ => (0xFFFFFF80#32, 0x35000000#32)
  | .dynReconst _ => (0xFFFFFFE0#32, 0x36000000#32)
  | .dynNewNode _ => (0xFFFFFF80#32, 0x37000000#32)
  | .dynRead _ _ => (0xFF1FFC00#32, 0x38000000#32)
  | .winInit _ => (0xFFFFFFE0#32, 0x40000000#32)
  | .winLiteral _ => (0xFFFFFF00#32, 0x41000000#32)
  | .winMatch _ => (0xFFFFFE00#32, 0x42000000#32)
  | .winFlush => (0xFFFFFFFF#32, 0x43000000#32)
  | .winRead _ => (0xFFFF0000#32, 0x44000000#32)

/-- The word of the command, under the mask of its row, is the match of its row. -/
def Encoding.Statement (i : Instr) : Prop := encode i &&& (rowBits i).1 = (rowBits i).2

theorem Encoding.nop : Encoding.Statement .nop := formF0_fixed 0x00#8

theorem Encoding.softReset : Encoding.Statement .softReset := formF0_fixed 0x01#8

theorem Encoding.entryStart : Encoding.Statement .entryStart := formF0_fixed 0x02#8

theorem Encoding.run : Encoding.Statement .run := formF0_fixed 0x03#8

theorem Encoding.step : Encoding.Statement .step := formF0_fixed 0x04#8

theorem Encoding.finish : Encoding.Statement .finish := formF0_fixed 0x05#8

theorem Encoding.decC : Encoding.Statement .decC := formF0_fixed 0x06#8

theorem Encoding.decP : Encoding.Statement .decP := formF0_fixed 0x07#8

theorem Encoding.blkStart : Encoding.Statement .blkStart := formF0_fixed 0x08#8

theorem Encoding.brInit : Encoding.Statement .brInit := formF0_fixed 0x10#8

theorem Encoding.brPeek (n : BitVec 5) : Encoding.Statement (.brPeek n) := formLow5_fixed 0x11#8 n

theorem Encoding.brSkip (n : BitVec 5) : Encoding.Statement (.brSkip n) := formLow5_fixed 0x12#8 n

theorem Encoding.brGet (n : BitVec 5) : Encoding.Statement (.brGet n) := formLow5_fixed 0x13#8 n

theorem Encoding.crc16Byte (b : BitVec 8) : Encoding.Statement (.crc16Byte b) := formFB_fixed 0x18#8 b

theorem Encoding.crc32Byte (b : BitVec 8) : Encoding.Statement (.crc32Byte b) := formFB_fixed 0x19#8 b

theorem Encoding.sumByte (b : BitVec 8) : Encoding.Statement (.sumByte b) := formFB_fixed 0x1A#8 b

theorem Encoding.ckClear (m : BitVec 3) : Encoding.Statement (.ckClear m) := formFM_fixed 0x1B#8 m

theorem Encoding.lenClear (t : Table) : Encoding.Statement (.lenClear t) := formFT_fixed 0x20#8 t

theorem Encoding.lenWrite (t : Table) (i : BitVec 9) (l : BitVec 5) : Encoding.Statement (.lenWrite t i l) := formFL_fixed 0x21#8 t i l

theorem Encoding.lenRead (t : Table) (i : BitVec 9) (l : BitVec 5) : Encoding.Statement (.lenRead t i l) := formFL_fixed 0x22#8 t i l

theorem Encoding.htBuild (t : Table) (c : BitVec 9) (s : BitVec 9) : Encoding.Statement (.htBuild t c s) := formFA_fixed 0x23#8 t c s

theorem Encoding.htFill (t : Table) (c : BitVec 9) (s : BitVec 9) : Encoding.Statement (.htFill t c s) := formFA_fixed 0x24#8 t c s

theorem Encoding.htDecode (t : Table) : Encoding.Statement (.htDecode t) := formFT_fixed 0x25#8 t

theorem Encoding.tblRead (t : Table) (i : BitVec 12) : Encoding.Statement (.tblRead t i) := formFI_fixed 0x26#8 t i

theorem Encoding.treeRead (t : Table) (d : Side) (i : BitVec 10) : Encoding.Statement (.treeRead t d i) := formFR_fixed 0x27#8 t d i

theorem Encoding.htReadyMade (m : ReadyTable) (c : BitVec 8) : Encoding.Statement (.htReadyMade m c) := formFRM_fixed 0x28#8 m c

theorem Encoding.nsReadPt (c : BitVec 9) (w : BitVec 4) (s : BitVec 4) : Encoding.Statement (.nsReadPt c w s) := formFP_fixed 0x29#8 c w s

theorem Encoding.nsReadC : Encoding.Statement .nsReadC := formF0_fixed 0x2A#8

theorem Encoding.st0ReadC : Encoding.Statement .st0ReadC := formF0_fixed 0x2B#8

theorem Encoding.st0ReadP : Encoding.Statement .st0ReadP := formF0_fixed 0x2C#8

theorem Encoding.dynStartC (k : BitVec 5) : Encoding.Statement (.dynStartC k) := formLow5_fixed 0x30#8 k

theorem Encoding.dynStartP (k : BitVec 5) : Encoding.Statement (.dynStartP k) := formLow5_fixed 0x31#8 k

theorem Encoding.dynDecodeC : Encoding.Statement .dynDecodeC := formF0_fixed 0x32#8

theorem Encoding.dynDecodeP : Encoding.Statement .dynDecodeP := formF0_fixed 0x33#8

theorem Encoding.dynUpdateC (s : BitVec 9) : Encoding.Statement (.dynUpdateC s) := formFS9_fixed 0x34#8 s

theorem Encoding.dynUpdateP (s : BitVec 7) : Encoding.Statement (.dynUpdateP s) := formFS7_fixed 0x35#8 s

theorem Encoding.dynReconst (k : BitVec 5) : Encoding.Statement (.dynReconst k) := formLow5_fixed 0x36#8 k

theorem Encoding.dynNewNode (s : BitVec 7) : Encoding.Statement (.dynNewNode s) := formFS7_fixed 0x37#8 s

theorem Encoding.dynRead (f : DynField) (i : BitVec 10) : Encoding.Statement (.dynRead f i) := formFDR_fixed 0x38#8 f i

theorem Encoding.winInit (k : BitVec 5) : Encoding.Statement (.winInit k) := formLow5_fixed 0x40#8 k

theorem Encoding.winLiteral (b : BitVec 8) : Encoding.Statement (.winLiteral b) := formFB_fixed 0x41#8 b

theorem Encoding.winMatch (s : BitVec 9) : Encoding.Statement (.winMatch s) := formFS9_fixed 0x42#8 s

theorem Encoding.winFlush : Encoding.Statement .winFlush := formF0_fixed 0x43#8

theorem Encoding.winRead (i : BitVec 16) : Encoding.Statement (.winRead i) := formFX_fixed 0x44#8 i

end Sys2Proof.Laws
end

