-- ==== Sys2Proof/Laws/Reader.lean ====
section
/-! SUPPORT. What the bit reader's operations answer: requests that the source answers with bytes, and the operations on
a reader that has nothing left to request. -/

namespace Sys2Proof.Laws

open Sys2Proof.Machine

/-! ### One request -/

/-- Everything one request can do. -/
theorem requestByte_cases (s : State) :
    (s.source = [] ∧ requestByte s = .error .stall
      { s with inFlight := .request s.reader.inCount.toNat :: s.inFlight }) ∨
    (∃ b rest, s.source = .byte b :: rest ∧ requestByte s = .ok ()
      { s with
        inFlight := .request s.reader.inCount.toNat :: s.inFlight
        source := rest
        reader := { s.reader with bytes := s.reader.bytes ++ [b], inCount := s.reader.inCount + 1 } }) ∨
    (∃ rest, s.source = .finish :: rest ∧ requestByte s = .ok ()
      { s with
        inFlight := .request s.reader.inCount.toNat :: s.inFlight
        source := rest
        reader := { s.reader with endAt := some s.reader.inCount.toNat } }) ∨
    (∃ rest, s.source = .fail :: rest ∧ requestByte s = .error (.raise .sourceFail)
      { s with inFlight := .request s.reader.inCount.toNat :: s.inFlight, source := rest }) := by
  unfold requestByte
  match h : s.source with
  | [] => exact .inl ⟨rfl, rfl⟩
  | .byte b :: rest => exact .inr (.inl ⟨b, rest, rfl, rfl⟩)
  | .finish :: rest => exact .inr (.inr (.inl ⟨rest, rfl, rfl⟩))
  | .fail :: rest => exact .inr (.inr (.inr ⟨rest, rfl, rfl⟩))

@[simp] theorem requestEvents_zero (first : Nat) : requestEvents first 0 = [] := rfl

/-- The first of some requests happens before the others. -/
theorem requestEvents_succ (first n : Nat) :
    requestEvents first (n + 1) = requestEvents (first + 1) n ++ [.request first] := by
  simp [requestEvents, List.range'_succ]

/-- Requests that the source answers with bytes: all of them are received, in order. -/
theorem requestBytes_received {rest : List Answer} :
    ∀ (bs : List Byte) (s : State), s.source = byteAnswers bs ++ rest → s.reader.endAt = none →
      s.reader.inCount.toNat + bs.length < 2 ^ 64 →
      requestBytes bs.length s = .ok ()
        { s with
          source := rest
          reader := s.reader.receive bs
          inFlight := requestEvents s.reader.inCount.toNat bs.length ++ s.inFlight }
  | [], s, hs, _, _ => by
    have hr : s.reader.receive [] = s.reader := by simp [Reader.receive]
    have hs' : s.source = rest := hs
    subst hs'
    rw [hr]
    rfl
  | b :: bs, s, hs, he, hc => by
    simp only [List.length_cons] at hc
    have hcount : (s.reader.inCount + 1).toNat = s.reader.inCount.toNat + 1 := by
      rw [BitVec.toNat_add]
      exact Nat.mod_eq_of_lt (by simp; omega)
    have hs' : s.source = .byte b :: (byteAnswers bs ++ rest) := hs
    simp only [List.length_cons, requestBytes, eng_bind, eng_get, requestByte, hs', he, Option.isSome_none]
    simp only [Bool.false_eq_true, if_false]
    rw [requestBytes_received (rest := rest) bs _ rfl rfl (by simp only [hcount]; omega)]
    simp only [hcount, requestEvents_succ, List.append_assoc, List.singleton_append]
    congr 2
    simp [Reader.receive, BitVec.ofNat_add, BitVec.add_assoc]
    rw [BitVec.add_comm]
    exact ⟨he.symm, rfl⟩

/-! ### A reader with nothing left to request -/

theorem requests_none {r : Reader} (h : r.drained) (p : Count) :
    { r with pos := p }.requestTarget - { r with pos := p }.requestsMade = 0 := by
  unfold Reader.requestTarget Reader.requestsMade
  rcases h with h | h
  · cases he : r.endAt with
    | none =>
      simp only [Option.isSome_none, Bool.false_eq_true, if_false]
      omega
    | some e =>
      simp only [Option.isSome_some, if_true]
      omega
  · simp only [h, Option.isSome_some, if_true]
    omega

theorem fillLookAhead_drained {s : State} (h : s.reader.drained) : fillLookAhead s = .ok () s := by
  have hz := requests_none h s.reader.pos
  simp [fillLookAhead, hz, requestBytes]

@[simp] theorem drained_advance {r : Reader} (n : Nat) : (r.advance n).drained ↔ r.drained := Iff.rfl

theorem consume_drained {s : State} (h : s.reader.drained) (n : Nat) : consume n s = .ok () (s.skipped n) := by
  simp only [consume, eng_bind, eng_modify]
  exact fillLookAhead_drained (s := s.skipped n) h

theorem getBits_drained {s : State} (h : s.reader.drained) {n : Nat} (hn : n ≤ 16) :
    getBits n s = .ok (s.reader.peek n) (s.skipped n) := by
  simp [getBits, hn, consume_drained h]

/-! ### The bits as numbers -/

@[simp] theorem bitsAt_zero (r : Reader) (k : Nat) : r.bitsAt k 0 = 0 := rfl

theorem bitsAt_lt (r : Reader) : ∀ (n k : Nat), r.bitsAt k n < 2 ^ n
  | 0, _ => by simp
  | n + 1, k => by
    have h := bitsAt_lt r n (k + 1)
    unfold Reader.bitsAt
    rw [Nat.pow_succ]
    split <;> omega

theorem peek_lt (r : Reader) (n : Nat) : r.peek n < 2 ^ n := bitsAt_lt r n _

end Sys2Proof.Laws
end

