-- ==== Sys2Proof/Laws/Tables.lean ====
section
/-! SUPPORT. The laws of a table's length array: what an element reads after a write, and a table given by a list of
lengths. -/

namespace Sys2Proof.Laws

open Sys2Proof.Machine

@[simp] theorem heldLen_toNat (l : Nat) : (heldLen l).toNat = min l 31 := by
  rw [heldLen, BitVec.toNat_ofNat]
  omega

/-- A length of at most 31 is held as it is. -/
theorem heldLen_small {l : Nat} (h : l ≤ 31) : heldLen l = BitVec.ofNat 5 l := by
  rw [heldLen, Nat.min_eq_left h]

/-- A length above 16 stays above 16 in the 5 bits that hold it, so the build's length check sees it (R192). -/
theorem heldLen_out_of_range {l : Nat} : 16 < (heldLen l).toNat ↔ 16 < l := by
  rw [heldLen_toNat]
  omega

theorem setLen_wf {w : Nat} {t : Table} {h : HuffTable w} (i l : Nat) (hw : cellsWf (lenCount t) 0#5 h.len = true) :
    cellsWf (lenCount t) 0#5 (h.setLen t i l).len = true :=
  cellWrite_wf i _ hw

/-- The length array after one length is written. -/
theorem getLen_setLen {w : Nat} {t : Table} {h : HuffTable w} {i l j : Nat}
    (hw : cellsWf (lenCount t) 0#5 h.len = true) :
    (h.setLen t i l).getLen j = if j = i ∧ i < lenCount t then min l 31 else h.getLen j := by
  unfold HuffTable.getLen HuffTable.setLen
  rw [cellGet_cellWrite hw]
  split <;> simp

theorem withLens_wf {w : Nat} (t : Table) (ls : List Nat) (h : HuffTable w) :
    cellsWf (lenCount t) 0#5 (h.withLens t ls).len = true :=
  cellsOf_wf _

end Sys2Proof.Laws
end

