-- ==== Sys2Proof/Tests/Slice0.lean ====
section
/-! SUPPORT. Tests. Every expected value is the spec's: an example of a rule, a vector of 95_test_vectors.md, or a word
written out from the formats of R111. The last part gives, for each statement of Obligations.lean that has hypotheses,
states and operands that meet them. -/

namespace Sys2Proof.Tests

open Sys2Proof Sys2Proof.Machine

set_option Elab.async false

/-! ### Ill-formed commands: one per range of R125 -/

theorem test_illformed_brPeek : ¬ (Instr.brPeek 17#5).WellFormed := by decide
theorem test_illformed_brSkip : ¬ (Instr.brSkip 17#5).WellFormed := by decide
theorem test_illformed_brGet : ¬ (Instr.brGet 31#5).WellFormed := by decide
theorem test_illformed_lenWrite : ¬ (Instr.lenWrite .c 510#9 0#5).WellFormed ∧ ¬ (Instr.lenWrite .pt 128#9 0#5).WellFormed := by decide
theorem test_illformed_lenRead : ¬ (Instr.lenRead .pt 128#9 0#5).WellFormed ∧ ¬ (Instr.lenRead .c 0#9 1#5).WellFormed := by decide
theorem test_illformed_htBuild : ¬ (Instr.htBuild .c 0#9 0#9).WellFormed ∧ ¬ (Instr.htBuild .c 511#9 0#9).WellFormed ∧
    ¬ (Instr.htBuild .pt 129#9 0#9).WellFormed ∧ ¬ (Instr.htBuild .pt 4#9 1#9).WellFormed := by decide
theorem test_illformed_htFill : ¬ (Instr.htFill .pt 129#9 0#9).WellFormed ∧ ¬ (Instr.htFill .c 0#9 0#9).WellFormed := by decide
theorem test_illformed_tblRead : ¬ (Instr.tblRead .pt 256#12).WellFormed ∧ (Instr.tblRead .c 4095#12).WellFormed := by decide
theorem test_illformed_treeRead : ¬ (Instr.treeRead .c .left 1019#10).WellFormed ∧ ¬ (Instr.treeRead .pt .right 255#10).WellFormed := by decide
theorem test_illformed_htReadyMade : ¬ (Instr.htReadyMade .lh1 0#8).WellFormed ∧ ¬ (Instr.htReadyMade .lh3 129#8).WellFormed := by decide
theorem test_illformed_nsReadPt : ¬ (Instr.nsReadPt 129#9 5#4 3#4).WellFormed ∧ ¬ (Instr.nsReadPt 0#9 5#4 3#4).WellFormed ∧
    ¬ (Instr.nsReadPt 19#9 0#4 3#4).WellFormed ∧ ¬ (Instr.nsReadPt 19#9 10#4 3#4).WellFormed := by decide
theorem test_illformed_dynStartC : ¬ (Instr.dynStartC 2#5).WellFormed := by decide
theorem test_illformed_dynStartP : ¬ (Instr.dynStartP 0#5).WellFormed ∧ ¬ (Instr.dynStartP 17#5).WellFormed := by decide
theorem test_illformed_dynReconst : ¬ (Instr.dynReconst 2#5).WellFormed := by decide
theorem test_illformed_dynUpdateC : ¬ (Instr.dynUpdateC 314#9).WellFormed := by decide
theorem test_illformed_dynRead : ¬ (Instr.dynRead .freq 884#10).WellFormed ∧ ¬ (Instr.dynRead .child 884#10).WellFormed ∧
    ¬ (Instr.dynRead .parent 884#10).WellFormed ∧ ¬ (Instr.dynRead .sNode 442#10).WellFormed ∧
    ¬ (Instr.dynRead .totalP 1#10).WellFormed ∧ ¬ (Instr.dynRead .nInfo 1#10).WellFormed := by decide
theorem test_illformed_winInit : ¬ (Instr.winInit 0#5).WellFormed ∧ ¬ (Instr.winInit 17#5).WellFormed := by decide

/-! ### Decoding: a word of every command, from R111 and R114–R120 -/

theorem test_decode_nop : decode 0x00000000#32 = .ok .nop := by decide
theorem test_decode_softReset : decode 0x01000000#32 = .ok .softReset := by decide
theorem test_decode_entryStart : decode 0x02000000#32 = .ok .entryStart := by decide
theorem test_decode_run : decode 0x03000000#32 = .ok .run := by decide
theorem test_decode_step : decode 0x04000000#32 = .ok .step := by decide
theorem test_decode_finish : decode 0x05000000#32 = .ok .finish := by decide
theorem test_decode_decC : decode 0x06000000#32 = .ok .decC := by decide
theorem test_decode_decP : decode 0x07000000#32 = .ok .decP := by decide
theorem test_decode_blkStart : decode 0x08000000#32 = .ok .blkStart := by decide
theorem test_decode_brInit : decode 0x10000000#32 = .ok .brInit := by decide
theorem test_decode_brPeek : decode 0b00010001_0000000000000000000_10000#32 = .ok (.brPeek 16#5) := by decide
theorem test_decode_brSkip : decode 0x12000008#32 = .ok (.brSkip 8#5) := by decide
theorem test_decode_brGet : decode 0x1300000D#32 = .ok (.brGet 13#5) := by decide
theorem test_decode_crc16Byte : decode 0b00011000_0000000000000000_01000001#32 = .ok (.crc16Byte 0x41#8) := by decide
theorem test_decode_crc32Byte : decode 0x190000FF#32 = .ok (.crc32Byte 0xFF#8) := by decide
theorem test_decode_sumByte : decode 0x1A000080#32 = .ok (.sumByte 0x80#8) := by decide
theorem test_decode_ckClear : decode 0b00011011_000000000000000000000_101#32 = .ok (.ckClear 5#3) := by decide
theorem test_decode_lenClear : decode 0b00100000_1_00000000000000000000000#32 = .ok (.lenClear .pt) := by decide
theorem test_decode_lenWrite : decode 0b00100001_0_00_001100001_0000000_00001#32 = .ok (.lenWrite .c 97#9 1#5) := by decide
theorem test_decode_lenRead : decode 0b00100010_1_00_001111111_0000000_00000#32 = .ok (.lenRead .pt 127#9 0#5) := by decide
theorem test_decode_htBuild : decode 0b00100011_1_00_000000100_000_000000000#32 = .ok (.htBuild .pt 4#9 0#9) := by decide
theorem test_decode_htFill : decode 0b00100100_0_00_111111110_000_001000001#32 = .ok (.htFill .c 510#9 0x41#9) := by decide
theorem test_decode_htDecode : decode 0x25800000#32 = .ok (.htDecode .pt) := by decide
theorem test_decode_tblRead : decode 0b00100110_1_00000000000_000011111111#32 = .ok (.tblRead .pt 0xFF#12) := by decide
theorem test_decode_treeRead : decode 0b00100111_1_1_000000000000_0000011000#32 = .ok (.treeRead .pt .right 24#10) := by decide
theorem test_decode_htReadyMade : decode 0b00101000_0000000_1_00000000_10000000#32 = .ok (.htReadyMade .lh3 128#8) := by decide
theorem test_decode_nsReadPt : decode 0b00101001_000_000010011_0101_0000_0011#32 = .ok (.nsReadPt 19#9 5#4 3#4) := by decide
theorem test_decode_nsReadC : decode 0x2A000000#32 = .ok .nsReadC := by decide
theorem test_decode_st0ReadC : decode 0x2B000000#32 = .ok .st0ReadC := by decide
theorem test_decode_st0ReadP : decode 0x2C000000#32 = .ok .st0ReadP := by decide
theorem test_decode_dynStartC : decode 0x30000001#32 = .ok (.dynStartC 1#5) := by decide
theorem test_decode_dynStartP : decode 0x3100000D#32 = .ok (.dynStartP 13#5) := by decide
theorem test_decode_dynDecodeC : decode 0x32000000#32 = .ok .dynDecodeC := by decide
theorem test_decode_dynDecodeP : decode 0x33000000#32 = .ok .dynDecodeP := by decide
theorem test_decode_dynUpdateC : decode 0b00110100_000000000000000_100111001#32 = .ok (.dynUpdateC 313#9) := by decide
theorem test_decode_dynUpdateP : decode 0b00110101_00000000000000000_1111111#32 = .ok (.dynUpdateP 127#7) := by decide
theorem test_decode_dynReconst : decode 0x36000001#32 = .ok (.dynReconst 1#5) := by decide
theorem test_decode_dynNewNode : decode 0x37000002#32 = .ok (.dynNewNode 2#7) := by decide
theorem test_decode_dynRead : decode 0b00111000_011_00000000000_0100111010#32 = .ok (.dynRead .sNode 314#10) := by decide
theorem test_decode_dynRead_fields : decode 0x38000000#32 = .ok (.dynRead .freq 0#10) ∧
    decode 0x38200000#32 = .ok (.dynRead .child 0#10) ∧ decode 0x38400001#32 = .ok (.dynRead .parent 1#10) ∧
    decode 0x38800000#32 = .ok (.dynRead .totalP 0#10) ∧ decode 0x38A00000#32 = .ok (.dynRead .mostP 0#10) ∧
    decode 0x38C00000#32 = .ok (.dynRead .nextCount 0#10) ∧ decode 0x38E00000#32 = .ok (.dynRead .nInfo 0#10) := by decide
theorem test_decode_winInit : decode 0x40000010#32 = .ok (.winInit 16#5) := by decide
theorem test_decode_winLiteral : decode 0x41000061#32 = .ok (.winLiteral 0x61#8) := by decide
theorem test_decode_winMatch : decode 0b01000010_000000000000000_111111111#32 = .ok (.winMatch 511#9) := by decide
theorem test_decode_winFlush : decode 0x43000000#32 = .ok .winFlush := by decide
theorem test_decode_winRead : decode 0b01000100_00000000_0001111111111011#32 = .ok (.winRead 8187#16) := by decide

/-- The first and last opcode of each reserved range (R121). -/
theorem test_reserved_opcodes : ([0x09#8, 0x0F#8, 0x14#8, 0x17#8, 0x1C#8, 0x1F#8, 0x2D#8, 0x2F#8, 0x39#8, 0x3F#8, 0x45#8, 0xFF#8].all
    fun op => decide (decode (op ++ 0#24) = .error .badOpcode)) = true := by decide

/-- V-CK14 and other reserved-zero bits that are 1 (R122). -/
theorem test_reserved_bits : ([0x1B000008#32, 0x00000001#32, 0x21061021#32, 0x23004200#32, 0x26801000#32, 0x27000400#32,
    0x28100040#32, 0x29013513#32, 0x38000400#32, 0x44010000#32, 0x25000001#32].all
    fun w => decide (decode w = .error .badOperand)) = true := by decide

/-- R123: the three-way verdict, on V-BR15 and V-ERR10. -/
theorem test_verdict_range : verdict 0x13000011#32 = .error .badOperand ∧ verdict 0x40000000#32 = .error .badOperand ∧
    verdict 0x13000010#32 = .ok (.brGet 16#5) ∧ verdict 0x09000001#32 = .error .badOpcode := by decide

/-! ### Assembly (R126–R129) -/

theorem test_asm_lenWrite : (assembleLine "LEN_WRITE C, 97, 1").map encode = some 0x21061001#32 := by decide +kernel
theorem test_asm_nsReadPt : (assembleLine "NS_READ_PT 19, 5, 3").map encode = some 0x29013503#32 := by decide +kernel
theorem test_asm_brGet : (assembleLine "BR_GET 16").map encode = some 0x13000010#32 := by decide +kernel
theorem test_asm_none : (assembleLine "NS_READ_PT 14, 4, NONE").map encode = some 0x2900E40F#32 := by decide +kernel
theorem test_disassemble : disassemble 0x21061001#32 = "LEN_WRITE C, 97, 1" ∧
    disassemble 0x09000000#32 = ".word 0x09000000 ; BAD_OPCODE" := by decide +kernel
theorem test_brSkip32 : brSkip32 32 = [.brSkip 16#5, .brSkip 16#5] := by decide

/-! ### Small states -/

/-- What a function of the next state gives; nothing where the step faults or is refused. -/
def after {α : Type} (o : Host.Outcome State Fault Refusal) (f : State → α) : Option α :=
  match o with
  | .next t => some (f t)
  | .fault _ => none
  | .refused _ => none

/-- After reset, with a command latched. -/
def r0 : State := { State.reset with cmd := some 0#32 }

/-- `r0` with an initialised reader that has these bytes, the whole packed size, and has used `pos` bits. -/
def fed (bs : List Byte) (pos : Nat) : State :=
  { r0 with reader := { pos := BitVec.ofNat 64 pos, packed := BitVec.ofNat 64 bs.length, endAt := none,
                        inCount := BitVec.ofNat 64 bs.length, bytes := bs, valid := true } }

/-- The bytes A5 3C FF of the bit reader's vectors, the reader two bytes in. -/
def a5 : State :=
  { r0 with
    source := [.byte 0xFF#8]
    reader := { pos := 0#64, packed := 3#64, endAt := none, inCount := 2#64, bytes := [0xA5#8, 0x3C#8], valid := true } }

/-- A PT table with these lengths and nothing built. -/
def ptLens (ls : List Nat) : State :=
  { r0 with tabPt := { (HuffTable.reset : HuffTable 8) with
      len := cellsOf 0#5 128 fun i => BitVec.ofNat 5 (ls.getD i 0), lenValid := true } }

/-- The tree part of V-HT2's 17-symbol PT table. -/
def ht2 : HuffTable 8 :=
  { (HuffTable.reset : HuffTable 8) with
    len := cellsOf 0#5 128 fun i => BitVec.ofNat 5 (if i < 16 then i + 1 else if i = 16 then 16 else 0)
    table := [(0xFE, 7#8), (0xFF, 17#8)]
    left := (List.range 8).map fun k => (17 + k, BitVec.ofNat 8 (8 + k))
    right := (List.range 8).map fun k => (17 + k, BitVec.ofNat 8 (if k = 7 then 16 else 18 + k))
    nchar := 17#8, avail := 25#8, lenValid := true, tabValid := true }

/-- The pretree of V-NS2: symbol 2 = 0, 3 = 10, 4 = 11. -/
def pretree : HuffTable 8 :=
  { (HuffTable.reset : HuffTable 8) with
    len := [(2, 1#5), (3, 2#5), (4, 2#5)]
    table := cellsOf 0#8 256 fun i => if i < 128 then 2#8 else if i < 192 then 3#8 else 4#8
    nchar := 20#8, avail := 20#8, lenValid := true, tabValid := true }

/-- The stream of V-NS2. -/
def ns2 : List Byte := [0x00#8, 0x03#8, 0x28#8, 0x04#8, 0x4A#8, 0x04#8, 0x26#8, 0xD9#8, 0x15#8, 0x80#8, 0xAC#8]

/-- An lh5 entry with these bytes read in and `pos` of their bits used, before its first block. -/
def lh5 (bs : List Byte) (pos : Nat) : State :=
  { fed bs pos with
    estate := .active, eMethod := 5#4, np := 14#8, pbit := 4#3, dicbit := 4#5
    window := { dic := [], loc := 0#16, mask := 15#16, valid := true }
    tabC := { (HuffTable.reset : HuffTable 10) with lenValid := true }
    tabPt := { (HuffTable.reset : HuffTable 8) with lenValid := true } }

/-- The third token of V-NS2: a block with one symbol left, whose code is symbol 257 in no bits, position symbol 1 in
no bits, and 'a', 'b' in the window. -/
def lh5Match : State :=
  { lh5 ns2 86 with
    blockSize := 1#16, decodeCount := 2#64
    tabC := constantTable .c 510 257 HuffTable.reset
    tabPt := constantTable .pt 14 1 HuffTable.reset
    window := { dic := [(0, 0x61#8), (1, 0x62#8)], loc := 2#16, mask := 15#16, valid := true } }

/-- A window of 16 bytes that begins with these. -/
def windowOf (bs : List Byte) : State :=
  { r0 with
    dicbit := 4#5, decodeCount := BitVec.ofNat 64 bs.length
    window := { dic := cellsOf dicUnlisted 16 fun i => bs.getD i dicUnlisted
                loc := BitVec.ofNat 16 bs.length, mask := 15#16, valid := true } }

/-- Seven bytes 'A' in a window of eight, with AUTO_CRC16 and AUTO_SUM. -/
def sevenOfEight : State :=
  { windowOf (List.replicate 7 0x41#8) with
    dicbit := 3#5, ctrl := 0x2050#16
    window := { (windowOf (List.replicate 7 0x41#8)).window with mask := 7#16 } }

/-- `r0` with the P tree of DYN_START_P 13. -/
def treeP : State := { fed [0#8] 0 with arena := startP 13 Arena.reset }

/-- The C tree that R261 makes of four symbols, whose nodes 3 to 6 are the leaves of 3, 2, 1, 0, and whose N1 is 3. -/
def fourC (bs : List Byte) : State := { fed bs 0 with arena := startC 4 256 Arena.reset }

/-- The registers of DYN_START_C 1, and 'A' at node 505 as in V-DY0. -/
def c286 : State :=
  { r0 with arena := { Arena.reset.setChild 505 (-66) with nMax := 286#9, n1 := 285#10, validC := true } }

/-! ### One step of each command -/

-- R336, V-CTL6
theorem test_nop : after (exec .nop r0) (fun t => (t.cmd, t.status)) = some (none, 0x00000200#32) := by decide +kernel
theorem test_nop_failed : after (exec .nop (r0.failedWith .codeSpace)) (fun t => t.status) = some 0x00001A54#32 := by decide +kernel
-- R337's example
theorem test_softReset : after (exec .softReset (r0.failedWith .codeSpace)) (fun t => t.status) = some 0x00000200#32 := by
  decide +kernel
-- V-CTL1, V-ERR12
theorem test_entryStart : after (exec .entryStart { r0 with ctrl := 0x2015#16, packedLo := 7#32, source := [.byte 0#8, .byte 4#8] })
    (fun t => (t.status, t.dicbit, t.reader.inCount, t.blockSize)) = some (0x00000A00#32, 13#5, 2#64, 0#16) := by decide +kernel
theorem test_entryStart_reserved : after (exec .entryStart { r0 with ctrl := 0x2019#16 }) (fun t => t.status) =
    some 0x00001A34#32 := by decide +kernel
-- V-CTL2, V-CTL3
theorem test_run : after (exec .run { fed [0x61#8, 0x62#8, 0x63#8] 0 with estate := .active, origLo := 5#32 })
    (fun t => (t.decodeCount, t.outCount, t.crc16, t.trace, t.status)) =
    some (5#64, 5#64, 0x6E52#16, [.emit 0#8, .emit 0#8, .emit 0x63#8, .emit 0x62#8, .emit 0x61#8], 0x00001202#32) := by
  decide +kernel
theorem test_run_empty : after (exec .run { r0 with estate := .active, ctrl := 0x2095#16 }) (fun t => (t.trace, t.done, t.irq)) =
    some ([], true, true) := by decide +kernel
-- V-NS2, step 3
theorem test_step : after (exec .step lh5Match) (fun t => (t.result, t.decodeCount, t.window.loc, t.window.read 5, t.reader.pos)) =
    some (0x101#32, 6#64, 6#16, 0x62#8, 86#64) := by decide +kernel
-- R343's example
theorem test_finish : after (exec .finish { windowOf (List.replicate 8 0x41#8) with estate := .active, eMethod := 2#4, origLo := 8#32 })
    (fun t => (t.outCount, t.crc16, t.status)) = some (8#64, 0xAE13#16, 0x00001202#32) := by decide +kernel
-- V-CTL5
theorem test_finish_closed : after (exec .finish { r0 with estate := .active, eMethod := 5#4 }) (fun t => t.errcode) =
    some (some .badState) := by decide +kernel
-- R338, R339, R340: V-NS2
theorem test_decC : after (exec .decC lh5Match) (fun t => (t.result, t.reader.pos, t.blockSize)) = some (257#32, 86#64, 0#16) := by
  decide +kernel
theorem test_decC_idle : after (exec .decC r0) (fun t => t.errcode) = some (some .badState) := by decide +kernel
theorem test_decP : after (exec .decP lh5Match) (fun t => (t.result, t.reader.pos)) = some (1#32, 86#64) := by decide +kernel
theorem test_blkStart : after (exec .blkStart (lh5 ns2 0)) (fun t => (t.reader.pos, t.blockSize, t.tabC.getLen 257)) =
    some (81#64, 3#16, 2) := by decide +kernel
-- V-BR1, V-BR16
theorem test_brInit : after (exec .brInit { r0 with packedLo := 3#32, source := [.byte 0xA5#8, .byte 0x3C#8, .byte 0xFF#8] })
    (fun t => (t.reader.pos, t.reader.inCount, t.trace)) = some (0#64, 2#64, [.request 1, .request 0]) := by decide +kernel
theorem test_brInit_fail : after (exec .brInit { r0 with packedLo := 1#32, source := [.fail] })
    (fun t => (t.errcode, t.reader.valid)) = some (some .sourceFail, false) := by decide +kernel
-- V-BR2, V-BR3
theorem test_brPeek : after (exec (.brPeek 4#5) a5) (fun t => t.result) = some 0xA#32 := by decide +kernel
theorem test_brPeek_16 : after (exec (.brPeek 16#5) a5) (fun t => t.result) = some 0xA53C#32 := by decide +kernel
-- V-BR10
theorem test_brSkip : after (exec (.brSkip 8#5) (fed [0xA5#8, 0x3C#8] 0)) (fun t => (t.reader.pos, t.reader.inCount, t.reader.peek 16)) =
    some (8#64, 2#64, 0x3C00) := by decide +kernel
-- V-BR5, V-BR15
theorem test_brGet : after (exec (.brGet 3#5) a5) (fun t => (t.result, t.reader.pos, t.reader.inCount)) = some (5#32, 3#64, 3#64) := by
  decide +kernel
theorem test_brGet_17 : after (exec (.brGet 17#5) a5) (fun t => t.errcode) = some (some .badOperand) := by decide +kernel
-- V-CK2, V-CK3, V-CK12, V-CK13
theorem test_crc16 : (([0x31, 0x32, 0x33, 0x34, 0x35, 0x36, 0x37, 0x38, 0x39].map (BitVec.ofNat 8)).foldl crc16Update 0#16) = 0xBB3D#16 := by
  decide +kernel
theorem test_crc32 : (([0x31, 0x32, 0x33, 0x34, 0x35, 0x36, 0x37, 0x38, 0x39].map (BitVec.ofNat 8)).foldl crc32Update 0#32) =
    0xCBF43926#32 := by decide +kernel
theorem test_crc16Byte : after (exec (.crc16Byte 0x41#8) r0) (fun t => t.crc16) = some 0x30C0#16 := by decide +kernel
theorem test_crc32Byte : after (exec (.crc32Byte 0x41#8) r0) (fun t => t.crc32) = some 0xD3D99E8B#32 := by decide +kernel
theorem test_sumByte : after (exec (.sumByte 0xFF#8) { r0 with sum8 := 0x41#8 }) (fun t => t.sum8) = some 0x40#8 := by decide +kernel
theorem test_ckClear : after (exec (.ckClear 2#3) { r0 with crc16 := 0x30C0#16, crc32 := 0xD3D99E8B#32, sum8 := 0x41#8 })
    (fun t => (t.crc16, t.crc32, t.sum8)) = some (0x30C0#16, 0#32, 0x41#8) := by decide +kernel
-- V-HT3, V-HT4, R201
theorem test_lenClear : after (exec (.lenClear .pt) { ptLens (List.replicate 128 3) with cmd := some 0#32 })
    (fun t => (t.tabPt.getLen 127, t.tabPt.lenValid)) = some (0, true) := by decide +kernel
theorem test_lenWrite : after (exec (.lenWrite .pt 3#9 31#5) (ptLens [2, 1])) (fun t => [0, 1, 2, 3].map t.tabPt.getLen) =
    some [2, 1, 0, 31] := by decide +kernel
theorem test_lenRead : after (exec (.lenRead .pt 1#9 0#5) (ptLens [2, 1, 3, 3])) (fun t => t.result) = some 1#32 := by decide +kernel
-- V-HT1, V-ERR4
theorem test_htBuild : after (exec (.htBuild .pt 4#9 0#9) (ptLens [2, 1, 3, 3]))
    (fun t => [0, 0x7F, 0x80, 0xBF, 0xC0, 0xDF, 0xE0, 0xFF].map t.tabPt.getTable) = some [1, 1, 0, 0, 2, 2, 3, 3] := by decide +kernel
theorem test_htBuild_17 : after (exec (.htBuild .pt 2#9 0#9) (ptLens [17, 1])) (fun t => t.errcode) = some (some .lenRange) := by
  decide +kernel
-- V-HT2: the nodes 17 and 24
theorem test_buildTable_tree : (buildTable .pt 17 (ptLens ((List.range 17).map fun i => min (i + 1) 16)).tabPt).toOption.map
    (fun h => (h.getTable 0xFE, h.getTable 0xFF, [17, 24].map h.getLeft, [17, 24].map h.getRight, h.avail)) =
    some (7, 17, [8, 15], [18, 16], 25#8) := by decide +kernel
-- V-HT5, V-HT11
theorem test_htFill : after (exec (.htFill .pt 4#9 3#9) (ptLens [2, 1])) (fun t => (t.tabPt.getLen 0, t.tabPt.getTable 255, t.tabPt.tabValid)) =
    some (0, 3, true) := by decide +kernel
theorem test_htFill_range : after (exec (.htFill .pt 4#9 4#9) r0) (fun t => t.errcode) = some (some .symbolRange) := by decide +kernel
-- V-HT2
theorem test_htDecode : after (exec (.htDecode .pt) { fed [0xFF#8, 0#8] 0 with tabPt := ht2 }) (fun t => (t.result, t.reader.pos)) =
    some (8#32, 9#64) := by decide +kernel
theorem test_htDecode_16 : after (exec (.htDecode .pt) { fed [0xFF#8, 0xFF#8] 0 with tabPt := ht2 }) (fun t => (t.result, t.reader.pos)) =
    some (16#32, 16#64) := by decide +kernel
theorem test_tblRead : after (exec (.tblRead .pt 0xFF#12) { r0 with tabPt := ht2 }) (fun t => t.result) = some 17#32 := by decide +kernel
theorem test_treeRead : after (exec (.treeRead .pt .left 17#10) { r0 with tabPt := ht2 }) (fun t => t.result) = some 8#32 ∧
    after (exec (.treeRead .pt .right 24#10) { r0 with tabPt := ht2 }) (fun t => t.result) = some 16#32 := by decide +kernel
theorem test_treeRead_symbol : after (exec (.treeRead .pt .left 16#10) { r0 with tabPt := ht2 }) (fun t => t.errcode) =
    some (some .badOperand) := by decide +kernel
-- V-HT6
theorem test_htReadyMade : after (exec (.htReadyMade .lh1 64#8) r0)
    (fun t => ([0, 1, 3, 4, 11, 12, 23, 24, 47, 48, 63].map t.tabPt.getLen, t.tabPt.getTable 255)) =
    some ([3, 4, 4, 5, 5, 6, 6, 7, 7, 8, 8], 63) := by decide +kernel
-- R222's example; V-ERR5
theorem test_nsReadPt : after (exec (.nsReadPt 20#9 5#4 3#4) (fed [0x28#8, 0x04#8, 0x48#8] 0))
    (fun t => (t.reader.pos, [0, 1, 2, 3, 4, 5].map t.tabPt.getLen, [0, 128, 192].map t.tabPt.getTable)) =
    some (22#64, [0, 0, 1, 2, 2, 0], [2, 3, 4]) := by decide +kernel
theorem test_nsReadPt_17 : after (exec (.nsReadPt 20#9 5#4 3#4) (fed [0x0F#8, 0xFF#8, 0xFF#8] 0)) (fun t => t.errcode) =
    some (some .lenRange) := by decide +kernel
-- V-NS2
theorem test_nsReadC : after (exec .nsReadC { fed ns2 38 with tabPt := pretree })
    (fun t => (t.reader.pos, [96, 97, 98, 99, 257].map t.tabC.getLen)) = some (73#64, [0, 1, 2, 0, 2]) := by decide +kernel
-- R192, R223: a pretree symbol of 35 stands for a length of 33, which no array may hold cut to 1
theorem test_nsReadC_33 : after (exec .nsReadC { fed [0x00#8, 0x80#8] 0 with tabPt := constantTable .pt 64 35 HuffTable.reset })
    (fun t => t.errcode) = some (some .lenRange) := by decide +kernel
-- V-ST1
theorem test_st0ReadC : after (exec .st0ReadC (fed [0x84#8, 0x20#8, 0x5A#8, 0#8] 0)) (fun t => (t.reader.pos, t.tabC.getTable 4095)) =
    some (24#64, 0x5A) := by decide +kernel
theorem test_st0ReadP : after (exec .st0ReadP (fed [0#8] 0)) (fun t => (t.reader.pos, [0, 1, 127].map t.tabPt.getLen)) =
    some (1#64, [2, 4, 9]) := by decide +kernel
-- V-DY0
theorem test_dynStartC_1 : after (exec (.dynStartC 1#5) r0) (fun t => ([0, 1, 2].map t.arena.getFreq, t.arena.getSNode 65)) =
    some ([286, 158, 128], 505) := by decide +kernel
-- R263's example
theorem test_dynStartP : after (exec (.dynStartP 13#5) r0)
    (fun t => (t.arena.getFreq 628, cellGet 0#16 t.arena.child 628, t.arena.mostP, t.arena.nextCount, t.arena.nn)) =
    some (1, 0xFEC5#16, 628#10, 64#32, 8192#17) := by decide +kernel
-- By hand from R261, R268 and R280: bits 1, 1 reach the leaf of 3 = N1, and the next eight are 5
theorem test_dynDecodeC : after (exec .dynDecodeC (fourC [0xC1#8, 0x40#8])) (fun t => (t.result, t.reader.pos, t.arena.getFreq 3)) =
    some (8#32, 10#64, 2) := by decide +kernel
-- V-DY9
theorem test_dynDecodeP : after (exec .dynDecodeP { treeP with decodeCount := 1#64 }) (fun t => (t.result, t.reader.pos, t.arena.totalP)) =
    some (0#32, 6#64, 1#16) := by decide +kernel
-- By hand from R266–R268: the leaf of 0 goes to its block's leader, node 3. V-DY6
theorem test_dynUpdateC : after (exec (.dynUpdateC 0#9) (fourC []))
    (fun t => ((List.range 7).map t.arena.getFreq, (List.range 4).map t.arena.getSNode)) =
    some ([5, 3, 2, 2, 1, 1, 1], [3, 5, 4, 6]) := by decide +kernel
theorem test_dynUpdateC_range : after (exec (.dynUpdateC 300#9) c286) (fun t => t.errcode) = some (some .symbolRange) := by
  decide +kernel
-- V-DY4
theorem test_dynNewNode : after (exec (.dynNewNode 1#7) treeP)
    (fun t => (t.arena.mostP, t.arena.getChild 628, [628, 629, 630].map t.arena.getFreq, t.arena.totalP)) =
    some (630#10, 630, [0xFFFF, 1, 1], 1#16) := by decide +kernel
theorem test_dynUpdateP : after (exec (.dynUpdateP 0#7) { treeP with arena := (treeP.arena.makeNewNode 1 0).1 })
    (fun t => (t.arena.getFreq 629, t.arena.totalP)) = some (2, 2#16) := by decide +kernel
-- R269, R271, R285 (5): at TOTAL_P = 0x8000 the one leaf's weight, halved and rounded up, is 1, and TOTAL_P 1 + 1
theorem test_dynUpdateP_single : after (exec (.dynUpdateP 0#7) { treeP with arena := { treeP.arena with totalP := 0x8000#16 } })
    (fun t => (t.arena.totalP, t.arena.getFreq 628, t.arena.getSNode 314)) = some (2#16, 1, 628) := by decide +kernel
-- V-DY5, V-DY7
theorem test_dynNewNode_range : after (exec (.dynNewNode 3#7) treeP) (fun t => t.errcode) = some (some .symbolRange) := by decide +kernel
theorem test_dynReconst_single : after (exec (.dynReconst 1#5) treeP) (fun t => t.errcode) = some (some .badState) := by decide +kernel
-- R283's example and corner case
theorem test_dynRead : after (exec (.dynRead .nInfo 0#10) c286) (fun t => t.result) = some 0x011D011E#32 := by decide +kernel
theorem test_dynRead_leaf : after (exec (.dynRead .child 505#10) c286) (fun t => t.result) = some 0xFFBE#32 := by decide +kernel
-- V-WIN1
theorem test_winInit : after (exec (.winInit 13#5) r0) (fun t => (t.dicbit, t.window.loc, t.window.mask, t.window.read 8187)) =
    some (13#5, 0#16, 8191#16, 0x20#8) := by decide +kernel
-- R303's corner case, with V-CK6's sum
theorem test_winLiteral_wrap : after (exec (.winLiteral 0x41#8) sevenOfEight)
    (fun t => (t.window.loc, t.outCount, t.crc16, t.sum8)) = some (0#16, 8#64, 0xAE13#16, 0x08#8) := by decide +kernel
theorem test_winLiteral_closed : after (exec (.winLiteral 0x41#8) r0) (fun t => t.errcode) = some (some .badState) := by decide +kernel
-- V-WIN3
theorem test_winMatch : after (exec (.winMatch 5#9) { windowOf [0x61#8, 0x62#8] with arg := 2#32 })
    (fun t => ((List.range 7).map t.window.read, t.window.loc, t.decodeCount)) =
    some ([0x61#8, 0x62#8, 0x61#8, 0x62#8, 0x61#8, 0x62#8, 0x61#8], 7#16, 7#64) := by decide +kernel
-- V-ERR8
theorem test_winMatch_zero : after (exec (.winMatch 3#9) (windowOf [])) (fun t => t.errcode) = some (some .badOperand) := by decide +kernel
theorem test_winFlush : after (exec .winFlush (windowOf [0x61#8, 0x62#8, 0x61#8, 0x62#8, 0x61#8, 0x62#8, 0x61#8]))
    (fun t => (t.outCount, t.crc16, t.window.valid)) = some (7#64, 0xA263#16, false) := by decide +kernel
theorem test_winRead : after (exec (.winRead 1#16) (windowOf [0x61#8, 0x62#8])) (fun t => t.result) = some 0x62#32 := by decide +kernel
theorem test_winRead_range : after (exec (.winRead 16#16) (windowOf [])) (fun t => t.errcode) = some (some .badOperand) := by decide +kernel

/-! ### Decode failures, the ports and the other agents -/

-- V-ERR1, V-ERR13
theorem test_badOpcode : after (step (State.reset.withFetchWord 32 0x09000000)) (fun t => t.status) = some 0x00001A14#32 := by
  decide +kernel
theorem test_badOperand : after (step (State.reset.withFetchWord 32 0x1B000008)) (fun t => t.status) = some 0x00001A24#32 := by
  decide +kernel
-- R332, R83, R82
theorem test_dropped : after (step { r0 with schedule := [.write .word 0x00#7 1#32] }) (fun t => (t.cmd, t.dropped)) =
    some (some 0#32, true) := by decide +kernel
theorem test_write_crc16 : after (step { State.reset with schedule := [.write .word 0x24#7 0xFFFF1234#32] }) (fun t => t.crc16) =
    some 0x1234#16 := by decide +kernel
theorem test_read_id : after (step { State.reset with schedule := [.read .word 0x58#7] }) (fun t => t.reads) =
    some [(0x58#7, 0x4C480001#32)] := by decide +kernel
-- R90, R463: ID while BUSY, and no free value but the read's own is drawn, so a waiting command runs again as before
theorem test_read_busy : after (step { r0 with schedule := [.read .word 0x58#7] }) (fun t => (t.reads, t.draws)) =
    some ([(0x58#7, 0x4C480001#32)], 0) := by decide +kernel
-- R86: a sink that is not ready
theorem test_sink_waits : after (exec .winFlush { windowOf [0x61#8, 0x62#8] with sinkRoom := some 1 })
    (fun t => (t.cmd, t.outCount, t.inFlight)) = some (some 0#32, 0#64, [.emit 0x61#8]) := by decide +kernel
-- R450: the reset input stops a command that waits
theorem test_reset_input : after (step { r0 with source := [], inFlight := [.request 0], schedule := [.reset] })
    (fun t => (t.cmd, t.status, t.trace)) = some (none, 0x00000200#32, [.request 0]) := by decide +kernel

/-! ### Witnesses: states and operands that meet the hypotheses of a statement of Obligations.lean

Where a statement's clauses have hypotheses of their own there is one witness for each, at the boundary of its range. -/

/-- The step goes on. -/
def goesOn (o : Host.Outcome State Fault Refusal) : Bool :=
  match o with
  | .next _ => true
  | .fault _ => false
  | .refused _ => false

/-- The next state, or reset's where there is none. -/
def nextOf (o : Host.Outcome State Fault Refusal) : State :=
  match o with
  | .next t => t
  | .fault _ => State.reset
  | .refused _ => State.reset

theorem next_of_goesOn {o : Host.Outcome State Fault Refusal} (h : goesOn o = true) : o = .next (nextOf o) := by
  cases o <;> simp_all [goesOn, nextOf]

/-- The state after a command. -/
def ran (i : Instr) (s : State) : State := nextOf (exec i s)

/-- The state after a command, with the command of `s` latched again. -/
def again (i : Instr) (s : State) : State := { ran i s with cmd := s.cmd }

/-- The command completes, as a check. -/
def completing (i : Instr) (s : State) : Bool :=
  goesOn (exec i s) && decide ((ran i s).cmd = none) && decide ((ran i s).estate ≠ .failed)

theorem completes_of {i : Instr} {s : State} (h : completing i s = true) : s.completes i (ran i s) := by
  simp only [completing, Bool.and_eq_true, decide_eq_true_eq] at h
  exact ⟨next_of_goesOn h.1.1, h.1.2, h.2⟩

theorem ok_of_toOption {ε : Type} {r : Except ε Nat} {j : Nat} (h : r.toOption = some j) : r = .ok j := by
  cases r <;> simp_all [Except.toOption]

/-- After reset, with this command word latched. -/
def latched (w : Word) : State := { State.reset with cmd := some w }

/-- `r0` with one move to come. -/
def busyWith (e : Event) : State := { r0 with schedule := [e] }

/-- Reset with one move to come. -/
def idleWith (e : Event) : State := { State.reset with schedule := [e] }

theorem witness_NonCommandWordsFail_opcode : ∀ w ∈ ({0x09000000#32, 0x0FFFFFFF#32, 0x14000000#32, 0x17000000#32, 0x1C000000#32,
      0x1F000000#32, 0x2D000000#32, 0x2F000000#32, 0x39000000#32, 0x3F000000#32, 0x45000000#32, 0xFFFFFFFF#32} : List Word),
    (latched w).schedule = [] ∧ (latched w).cmd = some w ∧
    ((0x09 ≤ (opField w).toNat ∧ (opField w).toNat ≤ 0x0F) ∨ (0x14 ≤ (opField w).toNat ∧ (opField w).toNat ≤ 0x17) ∨
      (0x1C ≤ (opField w).toNat ∧ (opField w).toNat ≤ 0x1F) ∨ (0x2D ≤ (opField w).toNat ∧ (opField w).toNat ≤ 0x2F) ∨
      (0x39 ≤ (opField w).toNat ∧ (opField w).toNat ≤ 0x3F) ∨ 0x45 ≤ (opField w).toNat) := by
  intro w hw
  refine ⟨rfl, rfl, ?_⟩
  fin_cases hw <;> decide

theorem witness_NonCommandWordsFail_bits : (latched 0x1B000008#32).schedule = [] ∧ (∃ i : Instr, opField 0x1B000008#32 = opField (encode i)) ∧
    ∀ i : Instr, i.WellFormed → 0x1B000008#32 ≠ encode i := by
  refine ⟨rfl, ⟨.ckClear 0#3, by decide⟩, fun i hi h => ?_⟩
  clear hi
  have h1 : opField 0x1B000008#32 = 0x1B#8 := by decide
  rw [h] at h1
  cases i <;> simp [encode] at h1
  case ckClear m => revert m; decide

theorem witness_NonCommandWordsFail_range : (latched 0x40000000#32).schedule = [] ∧ (∃ i : Instr, opField 0x40000000#32 = opField (encode i)) ∧
    ∀ i : Instr, i.WellFormed → 0x40000000#32 ≠ encode i := by
  refine ⟨rfl, ⟨.winInit 1#5, by decide⟩, fun i hi h => ?_⟩
  have h1 : opField 0x40000000#32 = 0x40#8 := by decide
  rw [h] at h1
  cases i <;> simp [encode] at h1
  case winInit k => revert k; decide

theorem witness_StepRunsDecodedCommand : (idleWith (.write .word 0x00#7 5#32)).cmd = none ∧
    (idleWith (.write .word 0x00#7 5#32)).schedule = .write .word 0x00#7 5#32 :: [] ∧
    r0.cmd = some 0#32 ∧ decode 0#32 = .ok .nop ∧ r0.schedule = [] ∧ (busyWith .engine).schedule = .engine :: [] := by decide

theorem witness_BusyWritesDropped : (busyWith (.write .word 0x7C#7 1#32)).busy = true ∧ (0x7C#7).toNat % 4 = 0 ∧
    (busyWith (.write .word 0x7C#7 1#32)).schedule = .write .word 0x7C#7 1#32 :: [] := by decide

theorem witness_IdleBlockChangesNothing : State.reset.busy = false ∧ State.reset.schedule = [] ∧ (idleWith .engine).busy = false ∧
    (idleWith .engine).schedule = .engine :: [] := by decide

theorem witness_RegisterWritesStoreNamedBits : ∀ o ∈ ({0x04#7, 0x08#7, 0x24#7, 0x2C#7, 0x58#7, 0x7C#7} : List (BitVec 7)),
    (idleWith (.write .word o 1#32)).busy = false ∧ o.toNat % 4 = 0 ∧ o ≠ 0#7 ∧
    (idleWith (.write .word o 1#32)).schedule = .write .word o 1#32 :: [] := by
  intro o ho
  refine ⟨rfl, ?_, ?_, rfl⟩ <;> fin_cases ho <;> decide

theorem witness_RegisterAccesses_read : (idleWith (.read .word 0x7C#7)).busy = false ∧ (busyWith (.read .word 0x04#7)).busy = true ∧
    (0x7C#7).toNat % 4 = 0 ∧ (0x04#7).toNat % 4 = 0 ∧
    (idleWith (.read .word 0x7C#7)).schedule = .read .word 0x7C#7 :: [] ∧
    (busyWith (.read .word 0x04#7)).schedule = .read .word 0x04#7 :: [] := by decide

theorem witness_RegisterAccesses_refused : (AccessSize.byte ≠ .word) ∧ (0x7F#7).toNat % 4 ≠ 0 ∧
    (idleWith (.write .half 0x00#7 0#32)).schedule = .write .half 0x00#7 0#32 :: [] ∧
    (idleWith (.read .word 0x7F#7)).schedule = .read .word 0x7F#7 :: [] := by decide

theorem witness_RequirementsFail_state : ((r0.failedWith .badOpcode).estate = .failed ∧ always .brInit = false ∧ Instr.brInit.WellFormed) ∧
    (r0.estate ≠ .active ∧ entryOnly .step = true ∧ Instr.step.WellFormed) := by decide

theorem witness_RequirementsFail_flag : ∀ i ∈ ({.brPeek 0#5, .lenRead .pt 127#9 0#5, .htBuild .c 510#9 0#9, .htDecode .c, .tblRead .c 4095#12,
      .treeRead .pt .left 254#10, .nsReadC, .dynDecodeC, .dynDecodeP, .dynUpdateC 313#9, .dynUpdateP 127#7, .dynNewNode 0#7,
      .dynReconst 0#5, .dynReconst 1#5, .dynRead .freq 627#10, .dynRead .child 628#10, .dynRead .sNode 313#10,
      .dynRead .sNode 314#10, .dynRead .totalP 0#10, .dynRead .nInfo 0#10, .winLiteral 0#8, .winMatch 0#9, .winFlush,
      .winRead 0#16} : List Instr), i.WellFormed ∧ requiredFlags i r0 = false := by
  intro i hi
  fin_cases hi <;> decide

theorem witness_ResetValues : (busyWith .reset).schedule = .reset :: [] ∧ (busyWith .reset).busy = true := by decide

/-- `r0` after a failure that `i` met. -/
def failing (i : Instr) : State := nextOf (exec i r0)

theorem witness_FirstFailureKept_first : Instr.winFlush ≠ .nop ∧ r0.cmd ≠ none ∧ exec .winFlush r0 = .next (failing .winFlush) ∧
    (failing .winFlush).cmd = none ∧ (failing .winFlush).estate = .failed ∧ r0.err = false :=
  ⟨by decide, by decide, next_of_goesOn (by decide +kernel), by decide +kernel, by decide +kernel, by decide⟩

/-- `r0` in FAILED with a code. -/
def failed0 : State := r0.failedWith .lenRange

theorem witness_FirstFailureKept_second : Instr.brInit ≠ .nop ∧ failed0.cmd ≠ none ∧ exec .brInit failed0 = .next (nextOf (exec .brInit failed0)) ∧
    (nextOf (exec .brInit failed0)).cmd = none ∧ (nextOf (exec .brInit failed0)).estate = .failed ∧ failed0.err = true ∧
    Instr.brInit ≠ .entryStart :=
  ⟨by decide, by decide, next_of_goesOn (by decide +kernel), by decide +kernel, by decide +kernel, by decide, by decide⟩

/-- `failed0` with a reserved METHOD. -/
def failed9 : State := { failed0 with ctrl := 0x2019#16 }

theorem witness_FirstFailureKept_start : Instr.entryStart ≠ .nop ∧ failed9.cmd ≠ none ∧
    exec .entryStart failed9 = .next (nextOf (exec .entryStart failed9)) ∧ (nextOf (exec .entryStart failed9)).cmd = none ∧
    (nextOf (exec .entryStart failed9)).estate = .failed :=
  ⟨by decide, by decide, next_of_goesOn (by decide +kernel), by decide +kernel, by decide +kernel⟩

theorem witness_ExecutionChecksFail : r0.estate ≠ .failed ∧
    ((Instr.htFill .pt 128#9 128#9).WellFormed ∧ (128#9).toNat ≤ (128#9).toNat) ∧
    ((Instr.treeRead .pt .left 16#10).WellFormed ∧ ht2.tabValid = true ∧ (16#10).toNat < ht2.nchar.toNat) ∧
    ((Instr.treeRead .pt .right 25#10).WellFormed ∧ ht2.avail.toNat ≤ (25#10).toNat) ∧
    ((Instr.dynUpdateC 286#9).WellFormed ∧ c286.arena.validC = true ∧ c286.arena.nMax.toNat ≤ (286#9).toNat) ∧
    (treeP.arena.validP = true ∧ (treeP.arena.mostP.toNat - 628) / 2 < (1#7).toNat) ∧
    (treeP.arena.validP = true ∧ treeP.arena.mostP = 628#10) ∧
    (treeP.arena.validP = true ∧ (2#7).toNat ≠ (treeP.arena.mostP.toNat - 628) / 2 + 1) := by decide +kernel

theorem witness_ExecutionChecksFail_window : (windowOf []).estate ≠ .failed ∧ (windowOf []).window.valid = true ∧
    (windowOf []).arg.toNat % 2 ^ 17 = 0 ∧ ({ windowOf [] with arg := 65537#32 } : State).arg.toNat % 2 ^ 17 = 65537 ∧
    (windowOf []).window.mask.toNat < (16#16).toNat := by decide +kernel

/-- R283: the first node after each tree, a root's PARENT, and the first symbol after each tree. -/
theorem witness_ExecutionChecksFail_read : c286.estate ≠ .failed ∧ treeP.estate ≠ .failed ∧
    (∀ i ∈ [571, 627], i < 628 ∧ c286.arena.validC = true ∧ ¬ (i + 2 ≤ 2 * c286.arena.nMax.toNat) ∧ ¬ 628 ≤ i) ∧
    (∀ i ∈ [629, 883], i < 884 ∧ ¬ i < 628 ∧ treeP.arena.validP = true ∧ ¬ i ≤ treeP.arena.mostP.toNat ∧
      ¬ (i + 2 ≤ 2 * treeP.arena.nMax.toNat)) ∧
    (∀ i ∈ [286, 313], i < 314 ∧ c286.arena.validC = true ∧ ¬ i < c286.arena.nMax.toNat) ∧
    (∀ i ∈ [315, 441], i < 442 ∧ ¬ i < 314 ∧ treeP.arena.validP = true ∧ ¬ i < treeP.arena.nMax.toNat ∧
      ¬ i ≤ 314 + (treeP.arena.mostP.toNat - 628) / 2) := by decide +kernel

/-- A source for ENTRY_START, with a METHOD and a packed size. -/
def starting (m p : Nat) : State :=
  { r0 with ctrl := BitVec.ofNat 16 (0x2010 + m), packedLo := BitVec.ofNat 32 p, source := byteAnswers [1#8, 2#8] ++ [.finish] }

theorem witness_EntryStartBegins : ∀ m ∈ List.range 9, (starting m 7).method.toNat ≤ 8 ∧ (starting m 7).method.toNat = m ∧
    [1#8, 2#8].length = min (starting m 7).packedSize.toNat 2 ∧ (starting m 7).source = byteAnswers [1#8, 2#8] ++ [.finish] := by
  decide

theorem witness_EntryStartBegins_short : [1#8].length = min (starting 1 1).packedSize.toNat 2 ∧
    (starting 1 1).source = byteAnswers [1#8] ++ [.byte 2#8, .finish] ∧
    ([] : List Byte).length = min (starting 0 0).packedSize.toNat 2 := by decide

theorem witness_EntryStartBegins_reserved : 9 ≤ (starting 9 0).method.toNat ∧ 9 ≤ (starting 15 0).method.toNat := by decide

theorem witness_EntryStartBegins_lh1 : HuffTable.wf .pt (starting 1 7).tabPt = true := by decide

/-- An entry of a method, with nothing else done. -/
def entryOf (m : BitVec 4) : State := { r0 with estate := .active, eMethod := m }

theorem witness_DispatchByMethod : ([0#4, 1#4, 2#4, 8#4].all fun m =>
    decide ((entryOf m).estate = .active) && decide ((entryOf m).eMethod = m)) = true := by decide

/-- Inside a block, all bits zero, with constant tables. -/
def inBlock (m : BitVec 4) (c p : Nat) : State :=
  { lh5 [0#8] 0 with
    eMethod := m, blockSize := 2#16
    tabC := constantTable .c 510 c HuffTable.reset
    tabPt := constantTable .pt 64 p HuffTable.reset }

theorem lh5_drained (bs : List Byte) (pos : Nat) : (fed bs pos).reader.drained := Or.inl (le_refl _)

theorem witness_DecCDecodesStaticSymbol : ∀ m ∈ [4, 7],
    (inBlock (BitVec.ofNat 4 m) 65 0).estate = .active ∧ (inBlock (BitVec.ofNat 4 m) 65 0).reader.valid = true ∧
    (inBlock (BitVec.ofNat 4 m) 65 0).reader.drained ∧ (inBlock (BitVec.ofNat 4 m) 65 0).blockSize ≠ 0#16 ∧
    (inBlock (BitVec.ofNat 4 m) 65 0).tabC.tabValid = true ∧
    ((inBlock (BitVec.ofNat 4 m) 65 0).tabC.lookup .c ((inBlock (BitVec.ofNat 4 m) 65 0).reader.peek 16)).toOption = some 65 ∧
    4 ≤ (inBlock (BitVec.ofNat 4 m) 65 0).eMethod.toNat ∧ (inBlock (BitVec.ofNat 4 m) 65 0).eMethod.toNat ≤ 7 := by
  intro m hm
  refine ⟨rfl, rfl, lh5_drained _ _, ?_, rfl, ?_, ?_, ?_⟩ <;> fin_cases hm <;> decide +kernel

theorem witness_DecCDecodesStaticSymbol_lh3 : (inBlock 3#4 285 0).eMethod.toNat = 3 ∧ (inBlock 3#4 285 0).reader.drained ∧
    ((inBlock 3#4 285 0).tabC.lookup .c ((inBlock 3#4 285 0).reader.peek 16)).toOption = some 285 ∧
    ((inBlock 3#4 284 0).tabC.lookup .c ((inBlock 3#4 284 0).reader.peek 16)).toOption = some 284 :=
  ⟨by decide, lh5_drained _ _, by decide +kernel, by decide +kernel⟩

theorem witness_DecPDecodesStaticPosition : ∀ j ∈ [0, 1, 2, 17],
    (inBlock 4#4 65 j).estate = .active ∧ (inBlock 4#4 65 j).reader.valid = true ∧ (inBlock 4#4 65 j).reader.drained ∧
    (inBlock 4#4 65 j).tabPt.tabValid = true ∧
    ((inBlock 4#4 65 j).tabPt.lookup .pt ((inBlock 4#4 65 j).reader.peek 16)).toOption = some j ∧
    (inBlock 1#4 65 j).eMethod.toNat = 1 ∧ (inBlock 3#4 65 j).eMethod.toNat = 3 ∧ (inBlock 7#4 65 j).eMethod.toNat = 7 := by
  intro j hj
  refine ⟨rfl, rfl, lh5_drained _ _, rfl, ?_, rfl, rfl, rfl⟩
  fin_cases hj <;> decide +kernel

theorem witness_BlockHeaders_zeros : (lh5 [] 0).estate = .active ∧ 4 ≤ (lh5 [] 0).eMethod.toNat ∧ (lh5 [] 0).eMethod.toNat ≤ 7 ∧
    (lh5 [] 0).reader.valid = true ∧ (lh5 [] 0).reader.drained ∧ (∀ k, (lh5 [] 0).reader.bit k = false) ∧ (lh5 [] 0).np ≠ 0#8 :=
  ⟨by decide, by decide, by decide, by decide, lh5_drained _ _, fun k => by simp [Reader.bit, Reader.srcByte, lh5, fed], by decide⟩

theorem witness_StepIsDecodeThenApply_worked : (inBlock 7#4 255 0).estate = .active ∧ 4 ≤ (inBlock 7#4 255 0).eMethod.toNat ∧
    (inBlock 7#4 255 0).eMethod.toNat ≤ 7 ∧ (inBlock 7#4 255 0).reader.valid = true ∧ (inBlock 7#4 255 0).reader.drained ∧
    (inBlock 7#4 255 0).blockSize ≠ 0#16 ∧ (inBlock 7#4 255 0).tabC.tabValid = true ∧
    ((inBlock 7#4 255 0).tabC.lookup .c ((inBlock 7#4 255 0).reader.peek 16)).toOption = some 255 ∧
    (inBlock 7#4 255 0).window.valid = true ∧ (inBlock 7#4 255 0).window.loc.toNat < (inBlock 7#4 255 0).window.mask.toNat :=
  ⟨by decide, by decide, by decide, by decide, lh5_drained _ _, by decide, by decide, by decide +kernel, by decide, by decide⟩

/-- V-NS2's header at its first bit. -/
theorem witness_BlockHeaders_new (s a b c : State) (hs : s = lh5 ns2 0) (ha : a = ran (.brGet 16#5) s)
    (hb : b = ran (.nsReadPt 20#9 5#4 3#4) { a with cmd := s.cmd, blockSize := a.result.extractLsb' 0 16, result := s.result })
    (hc : c = ran .nsReadC { b with cmd := s.cmd }) : s.cmd ≠ none ∧ s.estate = .active ∧ 4 ≤ s.eMethod.toNat ∧
    s.eMethod.toNat ≤ 7 ∧ Instr.WellFormed (.nsReadPt (s.np.zeroExtend 9) (s.pbit.zeroExtend 4) 15#4) ∧
    s.completes (.brGet 16#5) a ∧
    State.completes { a with cmd := s.cmd, blockSize := a.result.extractLsb' 0 16, result := s.result }
      (.nsReadPt 20#9 5#4 3#4) b ∧ State.completes { b with cmd := s.cmd } .nsReadC c ∧
    State.completes { c with cmd := s.cmd } (.nsReadPt (s.np.zeroExtend 9) (s.pbit.zeroExtend 4) 15#4)
      (ran (.nsReadPt (s.np.zeroExtend 9) (s.pbit.zeroExtend 4) 15#4) { c with cmd := s.cmd }) := by
  subst hc hb ha hs
  exact ⟨by decide, by decide, by decide, by decide, by decide, completes_of (by decide +kernel),
    completes_of (by decide +kernel), completes_of (by decide +kernel), completes_of (by decide +kernel)⟩

/-- A count of two, V-ST1's escape tree, and the selector bit 0. -/
def lh3 : State := { lh5 [0x00#8, 0x02#8, 0x84#8, 0x20#8, 0x5A#8, 0x00#8] 0 with eMethod := 3#4, np := 128#8 }

theorem witness_BlockHeaders_lh3 (a b : State) (ha : a = ran (.brGet 16#5) lh3)
    (hb : b = ran .st0ReadC { a with cmd := lh3.cmd, blockSize := a.result.extractLsb' 0 16, result := lh3.result }) :
    lh3.cmd ≠ none ∧ lh3.estate = .active ∧ lh3.eMethod.toNat = 3 ∧ lh3.completes (.brGet 16#5) a ∧
    State.completes { a with cmd := lh3.cmd, blockSize := a.result.extractLsb' 0 16, result := lh3.result } .st0ReadC b ∧
    State.completes { b with cmd := lh3.cmd } .st0ReadP (ran .st0ReadP { b with cmd := lh3.cmd }) := by
  subst hb ha
  exact ⟨by decide, by decide, by decide, completes_of (by decide +kernel), completes_of (by decide +kernel),
    completes_of (by decide +kernel)⟩

theorem witness_BlockHeaders_decC (s b : State) (hs : s = lh3 ∨ s = lh5 ns2 0) (hb : b = ran .blkStart s) :
    s.cmd ≠ none ∧ s.estate = .active ∧ 3 ≤ s.eMethod.toNat ∧ s.eMethod.toNat ≤ 7 ∧ s.blockSize = 0#16 ∧
    s.completes .blkStart b ∧ State.completes { b with cmd := s.cmd, blockSize := 1#16 } .decC
      (ran .decC { b with cmd := s.cmd, blockSize := 1#16 }) := by
  subst hb
  rcases hs with rfl | rfl
  all_goals
    exact ⟨by decide, by decide, by decide, by decide, by decide, completes_of (by decide +kernel), completes_of (by decide +kernel)⟩

/-- The state after DEC_C, with the command latched again. -/
def decoded (s : State) : State := again .decC s

/-- A flag of each kind that is 0, where the entry's command enters a procedure that requires it. -/
theorem witness_RequirementsFail_entry :
    (∀ m ∈ [1#4, 7#4], (entryOf m).estate = .active ∧ 1 ≤ (entryOf m).eMethod.toNat ∧ (entryOf m).eMethod.toNat ≤ 7 ∧
      (entryOf m).reader.valid = false ∧ (entryOf m).window.valid = false ∧
      (entryOf m).origSize.toNat ≤ (entryOf m).decodeCount.toNat) ∧
    (∀ m ∈ [1#4, 2#4], (entryOf m).eMethod.toNat ≤ 2 ∧ (entryOf m).arena.validC = false) ∧
    ((entryOf 2#4).eMethod.toNat = 2 ∧ (entryOf 2#4).arena.validP = false) ∧
    ((entryOf 7#4).eMethod.toNat ≠ 2 ∧ (entryOf 7#4).tabPt.tabValid = false) ∧
    (({ entryOf 3#4 with blockSize := 1#16, origLo := 1#32 } : State).blockSize ≠ 0#16 ∧
      3 ≤ (entryOf 3#4).eMethod.toNat ∧ (entryOf 3#4).tabC.tabValid = false ∧
      ({ entryOf 3#4 with origLo := 1#32 } : State).decodeCount.toNat < ({ entryOf 3#4 with origLo := 1#32 } : State).origSize.toNat) ∧
    ((entryOf 8#4).eMethod = 8#4 ∧ (entryOf 8#4).reader.valid = false) := by decide

/-- The window of `s` closed. -/
def closed (s : State) : State := { s with window := { s.window with valid := false } }

theorem witness_RequirementsFail_window : ((closed (inBlock 7#4 255 0)).estate = .active ∧ (closed (inBlock 7#4 255 0)).cmd ≠ none ∧
      (closed (inBlock 7#4 255 0)).window.valid = false ∧
      (closed (inBlock 7#4 255 0)).completes .decC (ran .decC (closed (inBlock 7#4 255 0))) ∧
      (ran .decC (closed (inBlock 7#4 255 0))).result.toNat = 255) ∧
    ((closed lh5Match).estate = .active ∧ (closed lh5Match).completes .decC (ran .decC (closed lh5Match)) ∧
      256 ≤ (ran .decC (closed lh5Match)).result.toNat ∧
      State.completes (decoded (closed lh5Match)) .decP (ran .decP (decoded (closed lh5Match)))) :=
  ⟨⟨by decide, by decide, by decide, completes_of (by decide +kernel), by decide +kernel⟩,
    ⟨by decide, completes_of (by decide +kernel), by decide +kernel, completes_of (by decide +kernel)⟩⟩

/-- The state after WIN_LITERAL of the decoded symbol. -/
def literal (s : State) : State := nextOf (exec (.winLiteral (BitVec.ofNat 8 (nextOf (exec .decC s)).result.toNat)) (decoded s))

theorem witness_StepIsDecodeThenApply_literal : (inBlock 7#4 255 0).cmd ≠ none ∧ (inBlock 7#4 255 0).lzEntry = true ∧
    exec .decC (inBlock 7#4 255 0) = .next (nextOf (exec .decC (inBlock 7#4 255 0))) ∧
    (nextOf (exec .decC (inBlock 7#4 255 0))).cmd = none ∧ (nextOf (exec .decC (inBlock 7#4 255 0))).estate = .active ∧
    (nextOf (exec .decC (inBlock 7#4 255 0))).result.toNat = 255 ∧
    exec (.winLiteral (BitVec.ofNat 8 (nextOf (exec .decC (inBlock 7#4 255 0))).result.toNat)) (decoded (inBlock 7#4 255 0)) =
      .next (literal (inBlock 7#4 255 0)) ∧
    (literal (inBlock 7#4 255 0)).cmd = none ∧ (literal (inBlock 7#4 255 0)).estate = .active :=
  ⟨by decide, by decide, next_of_goesOn (by decide +kernel), by decide +kernel, by decide +kernel, by decide +kernel,
    next_of_goesOn (by decide +kernel), by decide +kernel, by decide +kernel⟩

/-- The state after DEC_P, the distance in ARG, and the state after WIN_MATCH of symbol 257's length. -/
def placed (s : State) : State := nextOf (exec .decP (decoded s))

/-- The match of the decoded symbol, with the distance in ARG. -/
def matched (s : State) : State := nextOf (exec (.winMatch 4#9) { placed s with cmd := s.cmd, arg := (placed s).result + 1 })

theorem witness_StepIsDecodeThenApply_match : lh5Match.cmd ≠ none ∧ lh5Match.lzEntry = true ∧
    exec .decC lh5Match = .next (nextOf (exec .decC lh5Match)) ∧ (nextOf (exec .decC lh5Match)).cmd = none ∧
    (nextOf (exec .decC lh5Match)).estate = .active ∧ (nextOf (exec .decC lh5Match)).result.toNat = 257 ∧
    exec .decP (decoded lh5Match) = .next (placed lh5Match) ∧ (placed lh5Match).cmd = none ∧
    (placed lh5Match).estate = .active ∧ (placed lh5Match).result.toNat < 65536 ∧
    exec (.winMatch (BitVec.ofNat 9 (257 - 253))) { placed lh5Match with cmd := lh5Match.cmd, arg := (placed lh5Match).result + 1 } =
      .next (matched lh5Match) ∧
    (matched lh5Match).cmd = none ∧ (matched lh5Match).estate = .active :=
  ⟨by decide, by decide, next_of_goesOn (by decide +kernel), by decide +kernel, by decide +kernel, by decide +kernel,
    next_of_goesOn (by decide +kernel), by decide +kernel, by decide +kernel, by decide +kernel,
    next_of_goesOn (by decide +kernel), by decide +kernel, by decide +kernel⟩

/-- A stored entry of three bytes and an original size of five. -/
def stored (m : BitVec 4) : State := { fed [0x61#8, 0x62#8, 0x63#8] 0 with estate := .active, eMethod := m, origLo := 5#32 }

theorem witness_RunCopiesStoredEntry : ([0#4, 8#4].all fun m => decide ((stored m).estate = .active) &&
    decide ((stored m).eMethod = m) && (stored m).reader.valid && decide ((stored m).sinkRoom = none) &&
    decide ((stored m).reader.pos.toNat + 8 * ((stored m).origSize.toNat - (stored m).decodeCount.toNat) < 2 ^ 64)) = true ∧
    (stored 8#4).reader.drained := ⟨by decide, lh5_drained _ _⟩

theorem witness_FinishFlushesAndEnds : ([1#4, 7#4].all fun m => decide ((inBlock m 65 0).estate = .active) &&
    decide ((inBlock m 65 0).sinkRoom = none) && decide (1 ≤ (inBlock m 65 0).eMethod.toNat) &&
    decide ((inBlock m 65 0).eMethod.toNat ≤ 7) && (inBlock m 65 0).window.valid &&
    decide ((inBlock m 65 0).origSize.toNat ≤ (inBlock m 65 0).decodeCount.toNat)) = true ∧
    (entryOf 0#4).estate = .active ∧ (entryOf 0#4).sinkRoom = none ∧ (entryOf 8#4).eMethod = 8#4 := by decide

/-- `lh5Match` in an entry of six bytes, two of them decoded. -/
def running : State := { lh5Match with origLo := 6#32 }

theorem witness_FinishFlushesAndEnds_run : running.cmd ≠ none ∧ running.estate = .active ∧ 1 ≤ running.eMethod.toNat ∧
    running.eMethod.toNat ≤ 7 ∧ running.decodeCount.toNat < running.origSize.toNat ∧
    running.origSize.toNat + 2 ^ 16 ≤ 2 ^ 64 ∧ running.completes .step (ran .step running) ∧
    exec .run (again .step running) = .next (ran .run (again .step running)) ∧ (ran .run (again .step running)).cmd = none :=
  ⟨by decide, by decide, by decide, by decide, by decide, by decide, completes_of (by decide +kernel),
    next_of_goesOn (by decide +kernel), by decide +kernel⟩

/-- A reader that `End` cut off after one byte. -/
def cutOff : Reader := { pos := 0#64, packed := 4#64, endAt := some 1, inCount := 1#64, bytes := [0xA5#8], valid := true }

theorem witness_PeekReadsStreamBits : (7 / 8 < cutOff.packed.toNat ∧ ∀ e, cutOff.endAt = some e → 7 / 8 < e) ∧
    cutOff.packed.toNat ≤ 32 / 8 ∧ (cutOff.endAt = some 1 ∧ 1 ≤ 8 / 8) ∧ a5.estate ≠ .failed ∧ a5.reader.valid = true ∧
    (16#5).toNat ≤ 16 := by
  refine ⟨⟨by decide, fun e he => ?_⟩, by decide, by decide, by decide, by decide, by decide⟩
  simp only [cutOff, Option.some.injEq] at he
  omega

theorem witness_BitReaderCommands : a5.estate ≠ .failed ∧ a5.reader.valid = true ∧ (16#5).toNat ≤ 16 ∧ a5.reader.endAt = none ∧
    a5.source = byteAnswers [0xFF#8] ++ [] ∧
    a5.reader.inCount.toNat + [0xFF#8].length = min a5.reader.packed.toNat (((a5.reader.advance 16).pos.toNat + 16 + 7) / 8) ∧
    (fed [0xA5#8] 0).reader.drained :=
  ⟨by decide, by decide, by decide, by decide, by decide, by decide, lh5_drained _ _⟩

theorem witness_BitReaderCommands_init : (starting 0 7).estate ≠ .failed ∧ [1#8, 2#8].length = min (starting 0 7).packedSize.toNat 2 ∧
    (starting 0 7).source = byteAnswers [1#8, 2#8] ++ [.finish] := by decide

/-- `a5` with another source. -/
def a5From (source : List Answer) : State := { a5 with source := source }

theorem witness_SourceAnswerDecides : ([[], [.finish], [.fail, .byte 0#8]].all fun l => decide ((a5From l).estate ≠ .failed) &&
    (a5From l).reader.valid && decide ((a5From l).reader.endAt = none) && decide ((a5From l).source = l) &&
    decide ((a5From l).reader.inCount.toNat <
      min (a5From l).reader.packed.toNat ((((a5From l).reader.advance 1).pos.toNat + 16 + 7) / 8))) = true := by decide

theorem witness_ChecksumCommands : r0.estate ≠ .failed := by decide

theorem witness_LengthAndTableCommands : r0.estate ≠ .failed ∧ (ptLens [1, 1]).estate ≠ .failed ∧
    (Instr.lenWrite .pt 127#9 31#5).WellFormed ∧ (Instr.lenWrite .c 509#9 31#5).WellFormed ∧
    ((ptLens [1, 1]).tab .pt).lenValid = true ∧ HuffTable.wf .pt ((ptLens [1, 1]).tab .pt) = true ∧
    (Instr.lenRead .pt 127#9 0#5).WellFormed ∧ ht2.tabValid = true ∧ (Instr.tblRead .pt 255#12).WellFormed ∧
    ((Instr.treeRead .pt .left 17#10).WellFormed ∧ ht2.nchar.toNat ≤ (17#10).toNat ∧ (17#10).toNat < ht2.avail.toNat) ∧
    (24#10).toNat < ht2.avail.toNat := by decide +kernel

theorem witness_HtBuildChecksLengths : (ptLens [17, 1]).estate ≠ .failed ∧ (Instr.htBuild .pt 2#9 0#9).WellFormed ∧
    ((ptLens [17, 1]).tab .pt).lenValid = true ∧ (∃ ch, ch < (2#9).toNat ∧ 16 < ((ptLens [17, 1]).tab .pt).getLen ch) ∧
    (∀ ch, ch < (3#9).toNat → ((ptLens [1, 1, 1]).tab .pt).getLen ch ≤ 16) ∧
    kraftSum ((ptLens [1, 1, 1]).tab .pt).getLen (3#9).toNat ≠ 65536 := by
  refine ⟨by decide, by decide, by decide, ⟨0, by decide, by decide +kernel⟩, ?_, by decide +kernel⟩
  intro ch h
  have h' : ch < 3 := h
  interval_cases ch <;> decide +kernel

theorem witness_HtBuildFillsDirectTable : (ptLens [2, 1, 3, 3]).estate ≠ .failed ∧ (Instr.htBuild .pt 4#9 0#9).WellFormed ∧
    ((ptLens [2, 1, 3, 3]).tab .pt).lenValid = true ∧ HuffTable.wf .pt ((ptLens [2, 1, 3, 3]).tab .pt) = true ∧
    (∀ ch, ch < (4#9).toNat → ((ptLens [2, 1, 3, 3]).tab .pt).getLen ch ≤ tableBits .pt) ∧
    kraftSum ((ptLens [2, 1, 3, 3]).tab .pt).getLen (4#9).toNat = 65536 := by
  refine ⟨by decide, by decide, by decide, by decide +kernel, ?_, by decide +kernel⟩
  intro ch h
  have h' : ch < 4 := h
  interval_cases ch <;> decide +kernel

theorem witness_HtBuildFillsDirectTable_entry : 3 < (4#9).toNat ∧ 0 < ((ptLens [2, 1, 3, 3]).tab .pt).getLen 3 ∧ 255 < 2 ^ tableBits .pt ∧
    255 / 2 ^ (tableBits .pt - ((ptLens [2, 1, 3, 3]).tab .pt).getLen 3) =
      canonicalCode (((ptLens [2, 1, 3, 3]).tab .pt).lens 4) 3 := by decide +kernel

/-- The lengths of V-HT2: 1 to 16, and 16 again. -/
def ladder : State := ptLens [1, 2, 3, 4, 5, 6, 7, 8, 9, 10, 11, 12, 13, 14, 15, 16, 16]

theorem witness_HtBuildDecodesCanonicalCode : ladder.estate ≠ .failed ∧ (Instr.htBuild .pt 17#9 0#9).WellFormed ∧
    (ladder.tab .pt).lenValid = true ∧ HuffTable.wf .pt (ladder.tab .pt) = true ∧
    (∀ ch, ch < (17#9).toNat → (ladder.tab .pt).getLen ch ≤ 16) ∧ kraftSum (ladder.tab .pt).getLen (17#9).toNat = 65536 ∧
    (16 < (17#9).toNat ∧ 0 < (ladder.tab .pt).getLen 16 ∧
      65535 / 2 ^ (16 - (ladder.tab .pt).getLen 16) = canonicalCode ((ladder.tab .pt).lens 17) 16) := by
  refine ⟨by decide, by decide, by decide, by decide +kernel, ?_, by decide +kernel, by decide, by decide +kernel, by decide +kernel⟩
  intro ch h
  have h' : ch < 17 := h
  interval_cases ch <;> decide +kernel

theorem witness_HtFillIsConstant : r0.estate ≠ .failed ∧ (Instr.htFill .c 510#9 509#9).WellFormed ∧ (509#9).toNat < (510#9).toNat ∧
    (Instr.htFill .pt 1#9 0#9).WellFormed ∧ (0#9).toNat < (1#9).toNat := by decide

/-- A reader with the whole stream FF FF and V-HT2's table. -/
def ladderTable : State := { fed [0xFF#8, 0xFF#8] 0 with tabPt := ht2 }

theorem witness_HtDecodeReadsSymbol : ladderTable.estate ≠ .failed ∧ ladderTable.reader.valid = true ∧ ladderTable.reader.drained ∧
    (ladderTable.tab .pt).tabValid = true ∧ ((ladderTable.tab .pt).lookup .pt (ladderTable.reader.peek 16)).toOption = some 16 :=
  ⟨by decide, by decide, lh5_drained _ _, by decide, by decide +kernel⟩

theorem witness_ReadyMadeTables : r0.estate ≠ .failed ∧ (Instr.htReadyMade .lh1 64#8).WellFormed ∧ (Instr.htReadyMade .lh3 128#8).WellFormed ∧
    HuffTable.wf .pt r0.tabPt = true ∧ (64#8).toNat = readyAlphabet .lh1 ∧ (128#8).toNat = readyAlphabet .lh3 ∧
    (Instr.htReadyMade .lh1 63#8).WellFormed ∧ (63#8).toNat ≠ readyAlphabet .lh1 := by decide

/-- A pretree that is valid, and these bytes. -/
def withPretree (bs : List Byte) : State := { fed bs 0 with tabPt := pretree }

theorem witness_NewStaticConstantTables_pt : (withPretree []).estate ≠ .failed ∧ (withPretree []).reader.valid = true ∧
    (Instr.nsReadPt 1#9 9#4 15#4).WellFormed ∧
    ((fed [] 0).reader.peek 9 = 0 ∧ ((fed [] 0).reader.advance 9).peek 9 < 1) ∧
    -- V-ERR7: 00000 10100
    ((fed [0x05#8, 0x00#8] 0).reader.peek 5 = 0 ∧ 20 ≤ ((fed [0x05#8, 0x00#8] 0).reader.advance 5).peek 5) ∧
    -- V-ERR6: 10101
    20 < (fed [0xA8#8, 0x00#8] 0).reader.peek 5 := by decide +kernel

theorem witness_NewStaticConstantTables_drained (bs : List Byte) : (withPretree bs).reader.drained := lh5_drained bs 0

theorem witness_NewStaticConstantTables_c : (withPretree []).tabPt.tabValid = true ∧
    -- 000000000 111111101: the last symbol, 509
    ((withPretree [0x00#8, 0x7F#8, 0x40#8]).reader.peek 9 = 0 ∧
      ((withPretree [0x00#8, 0x7F#8, 0x40#8]).reader.advance 9).peek 9 = 509) ∧
    -- 000000000 111111110
    ((withPretree [0x00#8, 0x7F#8, 0x80#8]).reader.peek 9 = 0 ∧
      ((withPretree [0x00#8, 0x7F#8, 0x80#8]).reader.advance 9).peek 9 = 510) ∧
    -- 111111111
    510 < (withPretree [0xFF#8, 0x80#8]).reader.peek 9 := by decide +kernel

/-- The bits 0010 001 001: two lengths of 1, with a count of four bits. -/
def twoOnes : State := fed [0x22#8, 0x40#8] 0

theorem witness_NsReadPtReadsLengths : twoOnes.estate ≠ .failed ∧ twoOnes.reader.valid = true ∧ twoOnes.reader.drained ∧
    (Instr.nsReadPt 2#9 4#4 15#4).WellFormed ∧ twoOnes.ramsWf = true ∧ [1, 1].length ≤ (2#9).toNat ∧ 0 < [1, 1].length ∧
    [1, 1].length < 2 ^ (4#4).toNat ∧ (∀ l ∈ [1, 1], l ≤ 8) ∧ kraftSum (fun i => [1, 1].getD i 0) (2#9).toNat = 65536 ∧
    twoOnes.reader.pos.toNat + (bitsOf 4 2 ++ [1, 1].flatMap ptLengthBits).length < 2 ^ 64 ∧
    twoOnes.reader.startsWith twoOnes.reader.pos.toNat (bitsOf 4 2 ++ [1, 1].flatMap ptLengthBits) := by
  refine ⟨by decide, by decide, lh5_drained _ _, by decide, by decide, by decide, by decide, by decide, by decide, by decide,
    by decide, fun j hj => ?_⟩
  have h' : j < 10 := hj
  interval_cases j <;> decide

/-- A count of 2 in five bits and a length of 16 in 111 1111 1111 0, and one of 0: a code that HT_BUILD refuses. -/
theorem witness_NsReadPtReadsLengths_long : (Instr.nsReadPt 20#9 5#4 3#4).WellFormed ∧ [16, 0].length ≤ (20#9).toNat ∧
    [16, 0].length < 2 ^ (5#4).toNat ∧ (∀ l ∈ [16, 0], l ≤ 16) ∧ [16, 0].length < (3#4).toNat ∧
    (fed [0x17#8, 0xFF#8, 0x80#8] 0).ramsWf = true ∧
    (fed [0x17#8, 0xFF#8, 0x80#8] 0).reader.startsWith 0 (bitsOf 5 2 ++ [16, 0].flatMap ptLengthBits) := by
  refine ⟨by decide, by decide, by decide, by decide, by decide, by decide, fun j hj => ?_⟩
  have h' : j < 21 := hj
  interval_cases j <;> decide

/-- Special index 2: a count of 3 with a run of 0 and one length after it, and a count of 3 with a run of 3, past the
count and, in an alphabet of 4, past the alphabet. -/
theorem witness_NsReadPtReadsLengths_special : (Instr.nsReadPt 20#9 4#4 2#4).WellFormed ∧ (Instr.nsReadPt 4#9 4#4 2#4).WellFormed ∧
    [1, 2].length = (2#4).toNat ∧ ([2] : List Nat).length = 3 - ([1, 2].length + 0) ∧
    ([] : List Nat).length = 3 - ([1, 2].length + 3) ∧ [1, 2].length + 3 ≤ (20#9).toNat ∧
    (4#9).toNat < [1, 2].length + 3 ∧ 3 ≤ (4#9).toNat ∧
    (fed [0x32#8, 0x84#8] 0).reader.startsWith 0
      (bitsOf 4 3 ++ [1, 2].flatMap ptLengthBits ++ bitsOf 2 0 ++ [2].flatMap ptLengthBits) ∧
    (fed [0x32#8, 0xB0#8] 0).reader.startsWith 0
      (bitsOf 4 3 ++ [1, 2].flatMap ptLengthBits ++ bitsOf 2 3 ++ ([] : List Nat).flatMap ptLengthBits) := by
  refine ⟨by decide, by decide, by decide, by decide, by decide, by decide, by decide, by decide, fun j hj => ?_, fun j hj => ?_⟩
  · have h' : j < 15 := hj
    interval_cases j <;> decide
  · have h' : j < 12 := hj
    interval_cases j <;> decide

/-- A count of 2, a length of 16, and then 111 and ten more ones. -/
theorem witness_NsReadPtReadsLengths_range : (Instr.nsReadPt 20#9 5#4 15#4).WellFormed ∧ [16].length < 2 ∧ 2 ≤ (20#9).toNat ∧
    2 < 2 ^ (5#4).toNat ∧ (fed [0x17#8, 0xFF#8, 0xBF#8, 0xFE#8] 0).reader.startsWith 0
      (bitsOf 5 2 ++ [16].flatMap ptLengthBits ++ List.replicate 13 true) := by
  refine ⟨by decide, by decide, by decide, by decide, fun j hj => ?_⟩
  have h' : j < 31 := hj
  interval_cases j <;> decide

/-- V-NS2's C lengths, from bit 38 on: 97 zeros, 1, 2, 158 zeros, 2. -/
def ns2C : State := { fed ns2 38 with tabPt := pretree }

/-- The pretree symbols of `ns2C`. -/
def ns2Items : List (Nat × Nat) := [(2, 77), (3, 0), (4, 0), (2, 138), (4, 0)]

theorem witness_NsReadCReadsLengths : ns2C.estate ≠ .failed ∧ ns2C.reader.valid = true ∧ ns2C.reader.drained ∧
    ns2C.tabPt.tabValid = true ∧ ns2C.ramsWf = true ∧ 0 < ns2C.reader.peek 9 ∧ ns2C.reader.peek 9 ≤ 510 ∧
    ns2C.reader.pos.toNat + 9 + ns2C.tabPt.itemBits ns2Items < 2 ^ 64 ∧
    ns2C.tabPt.readsItems ns2C.reader (ns2C.reader.pos.toNat + 9) ns2Items ∧
    (ns2Items.dropLast.flatMap pretreeLens).length < ns2C.reader.peek 9 ∧
    ns2C.reader.peek 9 ≤ (ns2Items.flatMap pretreeLens).length ∧ (ns2Items.flatMap pretreeLens).length ≤ 510 ∧
    (∀ l ∈ ns2Items.flatMap pretreeLens, l ≤ 16) :=
  ⟨by decide, by decide, lh5_drained _ _, by decide, by decide +kernel, by decide +kernel, by decide +kernel,
    by decide +kernel,
    ⟨ok_of_toOption (by decide +kernel), by decide +kernel, ok_of_toOption (by decide +kernel), by decide +kernel,
      ok_of_toOption (by decide +kernel), by decide +kernel, ok_of_toOption (by decide +kernel), by decide +kernel,
      ok_of_toOption (by decide +kernel), by decide +kernel, trivial⟩,
    by decide +kernel, by decide +kernel, by decide +kernel, by decide +kernel⟩

/-- A pretree of one symbol, in no bits. -/
def pretreeOf (bs : List Byte) (c : Nat) : State := { fed bs 0 with tabPt := constantTable .pt 64 c HuffTable.reset }

/-- A count of 1 and the pretree symbol 35; a count of 510 and a run of 531. -/
theorem witness_NsReadCReadsLengths_fails :
    (0 < (pretreeOf [0x00#8, 0x80#8] 35).reader.peek 9 ∧ (pretreeOf [0x00#8, 0x80#8] 35).ramsWf = true ∧
      (pretreeOf [0x00#8, 0x80#8] 35).tabPt.readsItems (pretreeOf [0x00#8, 0x80#8] 35).reader 9 [(35, 0)] ∧
      [(35, 0)].flatMap pretreeLens = [33] ∧ (pretreeOf [0x00#8, 0x80#8] 35).reader.peek 9 ≤ 1) ∧
    ((pretreeOf [0xFF#8, 0x7F#8, 0xC0#8] 2).reader.peek 9 = 510 ∧ (pretreeOf [0xFF#8, 0x7F#8, 0xC0#8] 2).ramsWf = true ∧
      (pretreeOf [0xFF#8, 0x7F#8, 0xC0#8] 2).tabPt.readsItems (pretreeOf [0xFF#8, 0x7F#8, 0xC0#8] 2).reader 9 [(2, 511)] ∧
      510 < ([(2, 511)].flatMap pretreeLens).length) :=
  ⟨⟨by decide +kernel, by decide +kernel, ⟨ok_of_toOption (by decide +kernel), by decide +kernel, trivial⟩, by decide, by decide +kernel⟩,
    ⟨by decide +kernel, by decide +kernel, ⟨ok_of_toOption (by decide +kernel), by decide +kernel, trivial⟩, by decide +kernel⟩⟩

-- V-ST1's escape of 'Z'
theorem witness_St0ReadersReadTables_c : (fed [0x84#8, 0x20#8, 0x5A#8] 0).estate ≠ .failed ∧ (fed [0x84#8, 0x20#8, 0x5A#8] 0).reader.valid = true ∧
    (fed [0x84#8, 0x20#8, 0x5A#8] 0).reader.drained ∧ (fed [0x84#8, 0x20#8, 0x5A#8] 0).ramsWf = true ∧ 0x5A < 286 ∧
    (fed [0x84#8, 0x20#8, 0x5A#8] 0).reader.startsWith 0 ([true, false, false, false, false, true, false, false, false, false, true,
      false, false, false, false] ++ bitsOf 9 0x5A) := by
  refine ⟨by decide, by decide, lh5_drained _ _, by decide, by decide, fun j hj => ?_⟩
  have h' : j < 24 := hj
  interval_cases j <;> decide

-- 1 0001 0001 0001 1111111, and a single 0
theorem witness_St0ReadersReadTables_p : 127 < 128 ∧
    (fed [0x88#8, 0x8F#8, 0xF0#8] 0).reader.startsWith 0 ([true, false, false, false, true, false, false, false, true, false, false,
      false, true] ++ bitsOf 7 127) ∧ (fed [0x00#8] 0).reader.bit 0 = false := by
  refine ⟨by decide, fun j hj => ?_, by decide⟩
  have h' : j < 20 := hj
  interval_cases j <;> decide

-- The escape with the constant 286, and 511
theorem witness_St0ReadersReadTables_range : 286 ≤ 511 ∧ 511 < 512 ∧
    (fed [0x84#8, 0x21#8, 0xFF#8] 0).reader.startsWith 0 ([true, false, false, false, false, true, false, false, false, false, true,
      false, false, false, false] ++ bitsOf 9 511) := by
  refine ⟨by decide, by decide, fun j hj => ?_⟩
  have h' : j < 24 := hj
  interval_cases j <;> decide

/-- Lengths of 1 for the first and the last of 286 symbols: 1 0000, 284 zeros, 1 0000. -/
def lens286 : List Nat := [1] ++ List.replicate 284 0 ++ [1]

theorem witness_St0ReadersReadTables_lens286 : lens286.length = 286 ∧ (∀ l ∈ lens286, l ≤ 16) ∧ lens286.take 3 ≠ [1, 1, 1] ∧
    (fed ([0x80#8] ++ List.replicate 35 0#8 ++ [0x40#8, 0#8]) 0).reader.startsWith 0 (lens286.flatMap treeLengthBits) := by
  refine ⟨by decide +kernel, by decide +kernel, by decide +kernel, ?_⟩
  have h : ((List.range 294).all fun j =>
      (fed ([0x80#8] ++ List.replicate 35 0#8 ++ [0x40#8, 0#8]) 0).reader.bit (0 + j) ==
        (lens286.flatMap treeLengthBits).getD j false) = true := by decide +kernel
  have hl : (lens286.flatMap treeLengthBits).length = 294 := by decide +kernel
  intro j hj
  exact eq_of_beq (List.all_eq_true.mp h j (List.mem_range.mpr (hl ▸ hj)))

/-- 128 lengths of 7, after the selector bit 1. -/
theorem witness_St0ReadersReadTables_lens128 : (List.replicate 128 7).length = 128 ∧ (∀ l ∈ List.replicate 128 7, l ≤ 15) ∧
    (List.replicate 128 7).take 3 ≠ [1, 1, 1] ∧
    (fed (0xBB#8 :: List.replicate 63 0xBB#8 ++ [0x80#8]) 0).reader.startsWith 0 (true :: (List.replicate 128 7).flatMap (bitsOf 4)) := by
  refine ⟨by decide +kernel, by decide +kernel, by decide +kernel, ?_⟩
  have h : ((List.range 513).all fun j =>
      (fed (0xBB#8 :: List.replicate 63 0xBB#8 ++ [0x80#8]) 0).reader.bit (0 + j) ==
        (true :: (List.replicate 128 7).flatMap (bitsOf 4)).getD j false) = true := by decide +kernel
  have hl : (true :: (List.replicate 128 7).flatMap (bitsOf 4)).length = 513 := by decide +kernel
  intro j hj
  exact eq_of_beq (List.all_eq_true.mp h j (List.mem_range.mpr (hl ▸ hj)))

theorem witness_DynStartBuildsTrees : r0.estate ≠ .failed ∧ r0.arena.wf = true ∧ 1 ≤ (1#5).toNat ∧ (16#5).toNat ≤ 16 := by decide

/-- Registers of both trees, the P tree of 127 added positions. -/
def bothTrees : State :=
  { r0 with arena := { Arena.reset with nMax := 286#9, n1 := 285#10, mostP := 882#10, validC := true, validP := true } }

theorem witness_DynReadReturnsField : bothTrees.estate ≠ .failed ∧
    (∀ i ∈ [1, 570, 629, 882], (if i < 628 then bothTrees.arena.validC else bothTrees.arena.validP) = true ∧
      (i + 2 ≤ 2 * bothTrees.arena.nMax.toNat ∨ 628 ≤ i ∧ i ≤ bothTrees.arena.mostP.toNat) ∧ i < 884 ∧ i ≠ 0 ∧ i ≠ 628) ∧
    (∀ i ∈ [0, 285, 314, 441], (if i < 314 then bothTrees.arena.validC else bothTrees.arena.validP) = true ∧ i < 442 ∧
      (i < bothTrees.arena.nMax.toNat ∨ 314 ≤ i ∧ i ≤ 314 + (bothTrees.arena.mostP.toNat - 628) / 2)) := by decide

/-- The C tree of four symbols. -/
theorem fourC_tree : (fourC []).arena.CTree := by
  constructor
  · decide +kernel
  · decide +kernel
  · intro n hn
    have h' : n ≤ 6 := by have : (fourC []).arena.nMax.toNat = 4 := by decide +kernel
                          omega
    interval_cases n
    · exact .inr ⟨2, by decide +kernel⟩
    · exact .inr ⟨4, by decide +kernel⟩
    · exact .inr ⟨6, by decide +kernel⟩
    all_goals exact .inl (by decide +kernel)
  · intro x hx
    have h' : x < 4 := by have : (fourC []).arena.nMax.toNat = 4 := by decide +kernel
                          omega
    interval_cases x <;> decide +kernel
  · intro n h1 hn
    have h' : n ≤ 6 := by have : (fourC []).arena.nMax.toNat = 4 := by decide +kernel
                          omega
    interval_cases n <;> decide +kernel
  · intro n hn
    have h' : n ≤ 5 := by have : (fourC []).arena.nMax.toNat = 4 := by decide +kernel
                          omega
    interval_cases n <;> decide +kernel
  · intro n hn
    have h' : n ≤ 6 := by have : (fourC []).arena.nMax.toNat = 4 := by decide +kernel
                          omega
    interval_cases n <;> decide +kernel
  · decide +kernel

theorem witness_DynUpdateCKeepsTreeLaws : (fourC []).estate ≠ .failed ∧ (fourC []).arena.validC = true ∧ (fourC []).arena.CTree ∧
    (3#9).toNat < (fourC []).arena.nMax.toNat ∧ (fourC []).arena.getFreq 0 < 0x8000 :=
  ⟨by decide, by decide +kernel, fourC_tree, by decide +kernel, by decide +kernel⟩

/-- The C tree that R261 makes of two symbols; N1 is 1. -/
def twoC (bs : List Byte) : State := { fed bs 0 with arena := startC 2 256 Arena.reset }

/-- The hypotheses of DynDecodeCUnderRoot on symbol `x`, as a check. -/
def underRoot (s : State) (x : Nat) : Bool :=
  let a := s.arena.setFreq 0 (s.arena.getFreq 0 + 1)
  let n := a.getSNode x
  let q := a.leader n
  s.arena.validC && decide (x < s.arena.nMax.toNat) && decide (s.arena.getFreq 0 ≠ 0x8000) &&
    decide ((if q ≠ n then a.swapBelow n q else a).getParent q = 0) && decide (2 ≤ s.arena.getChild 0) &&
    decide (s.arena.getChild 0 - (if s.reader.bit s.reader.pos.toNat then 1 else 0) = (n : Int)) &&
    decide (s.arena.getChild n = -(x : Int) - 1)

theorem witness_DynDecodeCUnderRoot : underRoot (twoC [0x00#8]) 0 = true ∧ (0 ≠ (twoC [0x00#8]).arena.n1.toNat) ∧
    underRoot (twoC [0x80#8]) 1 = true ∧ 1 = (twoC [0x80#8]).arena.n1.toNat ∧ (twoC [0x00#8]).estate ≠ .failed := by decide +kernel

theorem witness_DynDecodeCUnderRoot_reader (bs : List Byte) : (twoC bs).reader.valid = true ∧ (twoC bs).reader.drained :=
  ⟨rfl, lh5_drained bs 0⟩

theorem witness_SinglePositionTree : treeP.estate ≠ .failed ∧ treeP.arena.validP = true ∧ treeP.arena.wf = true ∧ treeP.arena.mostP = 628#10 ∧
    treeP.arena.getChild 628 = -315 ∧ treeP.arena.getSNode 314 = 628 ∧ treeP.arena.totalP ≠ 0x8000#16 ∧
    treeP.reader.valid = true ∧ treeP.decodeCount.toNat ≤ treeP.arena.nextCount.toNat ∧ 1 ≤ treeP.arena.getFreq 628 := by
  decide +kernel

theorem witness_SinglePositionTree_never : treeP.reader.drained ∧
    ({ treeP.arena with nextCount := 0xFFFFFFFF#32 } : Arena).nextCount = 0xFFFFFFFF#32 := ⟨lh5_drained _ _, rfl⟩

/-- `treeP` with TOTAL_P at the rebuild threshold. -/
def treeFull : State := { treeP with arena := { treeP.arena with totalP := 0x8000#16 } }

theorem witness_SinglePositionTree_full : treeFull.estate ≠ .failed ∧ treeFull.arena.validP = true ∧ treeFull.arena.wf = true ∧
    treeFull.arena.mostP = 628#10 ∧ treeFull.arena.getChild 628 = -315 ∧ treeFull.arena.getSNode 314 = 628 ∧
    treeFull.arena.totalP = 0x8000#16 ∧ treeFull.arena.getFreq 628 = 1 := by decide +kernel

/-- The P tree of two positions, by DYN_NEW_NODE 1. -/
def twoP : Arena := (treeP.arena.makeNewNode 1 0).1

/-- `r0` with `twoP`. -/
def inTwoP (bs : List Byte) : State := { fed bs 0 with arena := twoP }

theorem twoP_most : twoP.mostP.toNat = 630 := by decide +kernel

/-- The P tree of two positions obeys R285. -/
theorem twoP_tree : twoP.PTree := by
  constructor
  · decide +kernel
  · decide +kernel
  · intro n h1 hn
    rw [twoP_most] at hn
    have h0 : 628 ≤ n := h1
    interval_cases n
    · exact .inr ⟨630, by decide +kernel⟩
    · exact .inl ⟨0, by decide +kernel⟩
    · exact .inl ⟨1, by decide +kernel⟩
  · intro x hx
    have h' : x ≤ 1 := by simpa [Arena.lastPosition, twoP_most, rootP] using hx
    interval_cases x <;> decide +kernel
  · intro n h1 hn
    rw [twoP_most] at hn
    have h0 : 628 < n := h1
    interval_cases n <;> decide +kernel
  · intro n h1 hn
    rw [twoP_most] at hn
    have h0 : 628 < n := h1
    obtain rfl : n = 629 := by omega
    decide +kernel
  · intro n h1 hn
    rw [twoP_most] at hn
    have h0 : 628 < n := h1
    interval_cases n <;> decide +kernel
  · decide +kernel
  · decide +kernel

theorem witness_DynUpdatePKeepsTreeLaws : (inTwoP []).estate ≠ .failed ∧ (inTwoP []).arena.validP = true ∧ (inTwoP []).arena.PTree ∧
    (inTwoP []).arena.totalP.toNat < 0x8000 ∧ (∀ x ∈ [0#7, 1#7], x.toNat ≤ ((inTwoP []).arena.mostP.toNat - 628) / 2) ∧
    (2#7).toNat = ((inTwoP []).arena.mostP.toNat - 628) / 2 + 1 ∧ (inTwoP []).arena.mostP.toNat + 2 < 884 :=
  ⟨by decide, by decide +kernel, twoP_tree, by decide +kernel, by decide +kernel, by decide +kernel, by decide +kernel⟩

/-- Bits 0, 0 lead to the leaf of symbol 0 and 1, 1 to that of 3 = N1. -/
theorem witness_DynDecodeWalks_c : (∀ bs, (fourC bs).reader.valid = true ∧ (fourC bs).reader.drained) ∧
    ((0#9).toNat < (fourC [0x00#8]).arena.nMax.toNat ∧ (fourC [0x00#8]).arena.spells 0 [false, false] (0#9).toNat ∧
      (fourC [0x00#8]).reader.startsWith 0 [false, false] ∧
      (fourC [0x00#8]).completes (.dynUpdateC 0#9) (ran (.dynUpdateC 0#9) (fourC [0x00#8])) ∧
      (0#9).toNat ≠ (fourC [0x00#8]).arena.n1.toNat) ∧
    ((3#9).toNat < (fourC [0xC1#8, 0x40#8]).arena.nMax.toNat ∧ (fourC [0xC1#8, 0x40#8]).arena.spells 0 [true, true] (3#9).toNat ∧
      (fourC [0xC1#8, 0x40#8]).reader.startsWith 0 [true, true] ∧
      (fourC [0xC1#8, 0x40#8]).completes (.dynUpdateC 3#9) (ran (.dynUpdateC 3#9) (fourC [0xC1#8, 0x40#8])) ∧
      (3#9).toNat = (fourC [0xC1#8, 0x40#8]).arena.n1.toNat) := by
  refine ⟨fun bs => ⟨rfl, lh5_drained bs 0⟩, ⟨by decide +kernel, ⟨2, by decide +kernel, by decide, 6, by decide +kernel, by decide,
      by unfold Arena.spells; decide +kernel⟩, fun j hj => ?_, completes_of (by decide +kernel), by decide +kernel⟩,
    ⟨by decide +kernel, ⟨2, by decide +kernel, by decide, 4, by decide +kernel, by decide, by unfold Arena.spells; decide +kernel⟩,
      fun j hj => ?_, completes_of (by decide +kernel), by decide +kernel⟩⟩
  all_goals
    have h' : j < 2 := hj
    interval_cases j <;> decide +kernel

/-- Bit 0 leads to the leaf of position 1. -/
theorem witness_DynDecodeWalks_p : (inTwoP [0#8]).reader.valid = true ∧ (inTwoP [0#8]).reader.drained ∧
    (inTwoP [0#8]).decodeCount.toNat ≤ (inTwoP [0#8]).arena.nextCount.toNat ∧
    (inTwoP [0#8]).arena.spells 628 [false] (314 + (1#7).toNat) ∧ (inTwoP [0#8]).reader.startsWith 0 [false] ∧
    (inTwoP [0#8]).completes (.dynUpdateP 1#7) (ran (.dynUpdateP 1#7) (inTwoP [0#8])) := by
  refine ⟨by decide, lh5_drained _ _, by decide +kernel, ⟨630, by decide +kernel, by decide, by unfold Arena.spells; decide +kernel⟩,
    fun j hj => ?_, completes_of (by decide +kernel)⟩
  have h' : j < 1 := hj
  interval_cases j; decide +kernel

/-- 65 bytes decoded, so that position 1 is due. -/
def growing : State := { treeP with decodeCount := 65#64 }

theorem witness_DynDecodeWalks_growth (u : State) (next : BitVec 32) (hu : u = ran (.dynNewNode 1#7) growing) (hn : next = 128#32) :
    growing.cmd ≠ none ∧ growing.reader.valid = true ∧ growing.arena.nextCount ≠ 0xFFFFFFFF#32 ∧
    growing.arena.nextCount.toNat < growing.decodeCount.toNat ∧ (1#7).toNat = growing.arena.nextCount.toNat / 64 ∧
    growing.completes (.dynNewNode 1#7) u ∧
    next = (if growing.arena.nn.toNat ≤ (growing.arena.nextCount + 64#32).toNat then 0xFFFFFFFF#32
      else growing.arena.nextCount + 64#32) ∧
    State.completes { u with cmd := growing.cmd, arena := { u.arena with nextCount := next } } .dynDecodeP
      (ran .dynDecodeP { u with cmd := growing.cmd, arena := { u.arena with nextCount := next } }) := by
  subst hu hn
  exact ⟨by decide, by decide, by decide +kernel, by decide +kernel, by decide +kernel, completes_of (by decide +kernel),
    by decide +kernel, completes_of (by decide +kernel)⟩

/-- The C tree of four symbols, each of weight 0x2000. -/
def fullTree : Arena :=
  [(0, 0x8000), (1, 0x4000), (2, 0x4000), (3, 0x2000), (4, 0x2000), (5, 0x2000), (6, 0x2000)].foldl
    (fun a x => a.setFreq x.1 x.2) (startC 4 256 Arena.reset)

/-- `r0` with `fullTree`. -/
def fullC : State := { r0 with arena := fullTree }

/-- The P tree of two positions, each of weight 0x4000. -/
def fullP : State := { r0 with arena := { ((twoP.setFreq 629 0x4000).setFreq 630 0x4000) with totalP := 0x8000#16 } }

theorem witness_DynReconstRebuilds_saturated : (fullC.arena.getFreq 0 = 0x8000 ∧ (3#9).toNat < fullC.arena.nMax.toNat ∧ (3#9).toNat < 314 ∧
      fullC.completes (.dynReconst 0#5) (ran (.dynReconst 0#5) fullC) ∧ (ran (.dynReconst 0#5) fullC).arena.getFreq 0 ≠ 0x8000) ∧
    (fullP.arena.totalP = 0x8000#16 ∧ fullP.arena.mostP ≠ 628#10 ∧ (1#7).toNat ≤ (fullP.arena.mostP.toNat - 628) / 2 ∧
      fullP.completes (.dynReconst 1#5) (ran (.dynReconst 1#5) fullP) ∧
      (ran (.dynReconst 1#5) fullP).arena.totalP ≠ 0x8000#16) :=
  ⟨⟨by decide +kernel, by decide +kernel, by decide, completes_of (by decide +kernel), by decide +kernel⟩,
    ⟨by decide +kernel, by decide +kernel, by decide +kernel, completes_of (by decide +kernel), by decide +kernel⟩⟩

theorem witness_DynReconstRebuilds_two : (inTwoP []).estate ≠ .failed ∧ twoP.validP = true ∧ twoP.wf = true ∧
    twoP.mostP = 630#10 ∧ twoP.getChild 628 = 630 ∧ (twoP.getChild 629 = -315 ∧ twoP.getChild 630 = -316) := by decide +kernel

theorem witness_DynReconstRebuilds_fresh : Arena.reset.wf = true ∧
    ({ r0 with arena := startC 286 256 Arena.reset } : State).estate ≠ .failed ∧
    ({ r0 with arena := startC 286 256 Arena.reset } : State).arena = startC 286 256 Arena.reset := ⟨by decide, by decide, rfl⟩

theorem witness_DynReconstKeepsTreeLaws : ((fourC []).estate ≠ .failed ∧ (fourC []).arena.validC = true ∧ (fourC []).arena.CTree) ∧
    ((inTwoP []).estate ≠ .failed ∧ (inTwoP []).arena.validP = true ∧ (inTwoP []).arena.PTree) :=
  ⟨⟨by decide, by decide +kernel, fourC_tree⟩, ⟨by decide, by decide +kernel, twoP_tree⟩⟩

theorem witness_WinInitOpensWindow : r0.estate ≠ .failed ∧ 1 ≤ (1#5).toNat ∧ (16#5).toNat ≤ 16 ∧ r0.ramsWf = true := by decide

theorem witness_WinLiteralWrites : (windowOf [1#8]).estate ≠ .failed ∧ (windowOf [1#8]).window.valid = true ∧ (windowOf [1#8]).ramsWf = true ∧
    (windowOf [1#8]).window.loc.toNat < (windowOf [1#8]).window.mask.toNat ∧
    (sevenOfEight.estate ≠ .failed ∧ sevenOfEight.window.valid = true ∧ sevenOfEight.ramsWf = true ∧
      sevenOfEight.window.loc = sevenOfEight.window.mask ∧ sevenOfEight.sinkRoom = none) := by decide +kernel

/-- Two bytes in a window of sixteen, and the distance `d`. -/
def matching (d : Nat) : State := { windowOf [0x61#8, 0x62#8] with arg := BitVec.ofNat 32 d }

theorem matching_window (d : Nat) : (matching d).WindowInv := fun _ =>
  (by decide : 1 ≤ (4#5).toNat ∧ (4#5).toNat ≤ 16 ∧ (15#16).toNat + 1 = 2 ^ (4#5).toNat ∧ (2#16).toNat ≤ (15#16).toNat)

theorem witness_WinMatchCopies : ∀ d ∈ [1, 2, 16], (matching d).estate ≠ .failed ∧ (matching d).window.valid = true ∧ (matching d).WindowInv ∧
    (matching d).ramsWf = true ∧ d = (matching d).arg.toNat % 2 ^ 17 ∧ 1 ≤ d ∧ d ≤ (matching d).window.mask.toNat + 1 ∧
    (matching d).window.loc.toNat + (13#9).toNat ≤ (matching d).window.mask.toNat := by
  intro d hd
  refine ⟨by simp [matching, windowOf, r0, State.reset], rfl, matching_window d, ?_, ?_, ?_, ?_, ?_⟩ <;> fin_cases hd <;> decide +kernel

theorem witness_WinMatchCopies_wrap : ∀ a ∈ [1, 2, 16, 17, 65536], (matching a).estate ≠ .failed ∧ (matching a).window.valid = true ∧
    (matching a).WindowInv ∧ (matching a).ramsWf = true ∧ (matching a).sinkRoom = none ∧
    1 ≤ (matching a).arg.toNat % 2 ^ 17 ∧ (matching a).arg.toNat % 2 ^ 17 ≤ 65536 ∧ (matching a).window.mask.toNat + 1 = 16 := by
  intro a ha
  refine ⟨by simp [matching, windowOf, r0, State.reset], rfl, matching_window a, ?_, rfl, ?_, ?_, rfl⟩ <;>
    fin_cases ha <;> decide +kernel

theorem witness_WinFlushAndRead : (windowOf [1#8]).estate ≠ .failed ∧ (windowOf [1#8]).window.valid = true ∧ (windowOf [1#8]).sinkRoom = none ∧
    (15#16).toNat ≤ (windowOf [1#8]).window.mask.toNat := by decide +kernel

/-! The statements about every command are met by `exec` of a command that goes on; each family has one here. -/

/-- A command that goes on, without failing, from a state. -/
def runsIn (i : Instr) (s : State) : Bool := goesOn (exec i s) && decide ((nextOf (exec i s)).estate ≠ .failed)

theorem witness_CommandsKeepHostRegisters : exec .nop r0 = .next (nextOf (exec .nop r0)) ∧ (nextOf (exec .nop r0)).estate ≠ .failed :=
  ⟨next_of_goesOn (by decide +kernel), by decide +kernel⟩

theorem witness_CommandsKeepOtherUnits : runsIn (.winLiteral 1#8) (windowOf []) = true ∧ runsIn (.dynUpdateP 0#7) treeP = true ∧
    runsIn (.htFill .pt 4#9 3#9) r0 = true := by decide +kernel

theorem witness_DecoderUnitsFrame : runsIn (.nsReadPt 2#9 4#4 15#4) twoOnes = true ∧ runsIn .nsReadC (withPretree []) = true ∧
    runsIn .st0ReadC (fed [0x84#8, 0x20#8, 0x5A#8] 0) = true ∧ runsIn .st0ReadP (fed [0x88#8, 0x8F#8, 0xF0#8] 0) = true ∧
    runsIn (.dynUpdateC 0#9) (fourC []) = true ∧ runsIn (.dynNewNode 1#7) treeP = true ∧ runsIn .dynDecodeC (fourC [0#8]) = true ∧
    runsIn .dynDecodeP treeP = true ∧ runsIn (.dynReconst 1#5) (inTwoP []) = true := by decide +kernel

theorem witness_TokenCommandsFrame : runsIn (.winMatch 5#9) (matching 2) = true ∧ runsIn .decC lh5Match = true ∧ runsIn .decP lh5Match = true ∧
    runsIn .blkStart (lh5 [] 0) = true ∧ runsIn .step lh5Match = true ∧ runsIn .run (stored 0#4) = true := by decide +kernel

theorem a5_inv : a5.reader.Inv := by
  constructor
  · decide
  · decide
  · intro e he
    simp [a5] at he
  · intro _ _
    decide

theorem witness_RequestsInOrder : a5.reader.Inv ∧ Instr.brGet 3#5 ≠ .brInit ∧ Instr.brGet 3#5 ≠ .entryStart ∧ a5.cmd ≠ none ∧
    exec (.brGet 3#5) a5 = .next (nextOf (exec (.brGet 3#5) a5)) ∧ (nextOf (exec (.brGet 3#5) a5)).cmd = none :=
  ⟨a5_inv, by decide, by decide, by decide, next_of_goesOn (by decide +kernel), by decide +kernel⟩

/-- `r0` with the reader that `End` cut off. -/
def cut : State := { r0 with reader := cutOff }

theorem cutOff_inv : cutOff.Inv := by
  constructor
  · decide
  · decide
  · intro e he
    simp only [cutOff, Option.some.injEq] at he
    subst he
    decide
  · intro _ h
    simp [cutOff] at h

theorem witness_RequestsInOrder_end : cut.reader.Inv ∧ cut.reader.endAt.isSome = true ∧ cut.cmd ≠ none ∧
    exec (.brGet 3#5) cut = .next (ran (.brGet 3#5) cut) ∧ (ran (.brGet 3#5) cut).cmd = none :=
  ⟨cutOff_inv, by decide, by decide, next_of_goesOn (by decide +kernel), by decide +kernel⟩

theorem reset_reader_inv : State.reset.reader.Inv := by
  constructor
  · decide
  · decide
  · intro e he
    simp [State.reset, Reader.reset] at he
  · intro h
    simp [State.reset, Reader.reset] at h

theorem witness_EveryCommandEnds : (a5.reader.Inv ∧ a5.sinkRoom = none ∧
      a5.reader.packed.toNat - a5.reader.inCount.toNat ≤ a5.source.length) ∧
    (cut.reader.Inv ∧ cut.sinkRoom = none ∧ cut.reader.endAt.isSome = true) ∧
    ((starting 2 7).reader.Inv ∧ (starting 2 7).sinkRoom = none ∧ 2 ≤ (starting 2 7).source.length) :=
  ⟨⟨a5_inv, by decide, by decide⟩, ⟨cutOff_inv, by decide, by decide⟩, ⟨reset_reader_inv, by decide, by decide⟩⟩

theorem witness_StepKeepsRamsCanonical : (matching 2).ramsWf = true ∧ step (matching 2) = .next (nextOf (step (matching 2))) :=
  ⟨by decide +kernel, next_of_goesOn (by decide +kernel)⟩

theorem failed0_status : failed0.StatusInv := by
  constructor <;> decide

theorem witness_StepKeepsStatusConsistent : failed0.StatusInv ∧ step failed0 = .next (nextOf (step failed0)) :=
  ⟨failed0_status, next_of_goesOn (by decide +kernel)⟩

theorem witness_StepKeepsUnitsInRange : step (matching 2) = .next (nextOf (step (matching 2))) ∧ (matching 2).WindowInv ∧ a5.reader.Inv ∧
    step a5 = .next (nextOf (step a5)) :=
  ⟨next_of_goesOn (by decide +kernel), matching_window _, a5_inv, next_of_goesOn (by decide +kernel)⟩

/-- Valid tables of both kinds, V-HT2's tree among them, and valid trees. -/
def allValid : State :=
  { lh5Match with
    tabPt := ht2
    arena := { bothTrees.arena with mostP := 630#10 } }

theorem witness_StepKeepsUnitsInRange_valid : step allValid = .next (nextOf (step allValid)) ∧
    allValid.tabC.tabValid = true ∧ allValid.tabPt.tabValid = true ∧ allValid.TablesInv ∧
    allValid.arena.validC = true ∧ allValid.arena.validP = true ∧ allValid.arena.Inv :=
  ⟨next_of_goesOn (by decide +kernel), by decide, by decide, ⟨fun _ => by decide +kernel, fun _ => by decide, by decide⟩,
    by decide, by decide, ⟨fun _ => .inr (by decide), fun _ => by decide⟩⟩

end Sys2Proof.Tests
end

section
/-! PROOFS. ENTRY_START (R334): reads of a RAM that need no canonical form, a direct-table build as a function of the
table, the lh1 position table (R240), the window it opens, and the state that each method's start leaves. -/

namespace Sys2Proof.Proofs

open Sys2Proof.Machine Sys2Proof.Laws

/-! ### Cells whose value is not the unlisted one

A written value that an unlisted element does not read as is found whatever else the list holds, so these laws need no
canonical form: ENTRY_START leaves what R334 says in every state, the RAMs of which may hold anything. -/

section Cells

variable {α : Type} [DecidableEq α] {d : α}

theorem cellGet_cellPut_of_ne {a c : Nat} {v : α} (hv : v ≠ d) :
    ∀ m : List (Nat × α), cellGet d (cellPut d m a v) c = if c = a then v else cellGet d m c
  | [] => by simp [cellPut, cellGet, hv]
  | (b, w) :: m => by
    have ih := cellGet_cellPut_of_ne (a := a) (c := c) hv m
    rcases lt_trichotomy a b with hab | rfl | hab
    · simp only [cellPut, hab, hv, if_true, if_false, cellGet]
      grind
    · simp only [cellPut, lt_irrefl, hv, if_true, if_false, cellGet]
      grind
    · simp only [cellPut, hab.not_gt, hab.ne', if_false, cellGet, ih]
      grind

theorem cellGet_cellWrite_of_ne {size a c : Nat} {v : α} (hv : v ≠ d) (ha : a < size) (m : List (Nat × α)) :
    cellGet d (cellWrite size d m a v) c = if c = a then v else cellGet d m c := by
  rw [cellWrite, if_pos ha, cellGet_cellPut_of_ne hv]

omit [DecidableEq α] in
theorem cellGet_append_of_ne {a : Nat} (r : List (Nat × α)) :
    ∀ m : List (Nat × α), cellGet d m a ≠ d → cellGet d (m ++ r) a = cellGet d m a
  | [], h => absurd rfl h
  | (b, w) :: m, h => by
    have ih := cellGet_append_of_ne (a := a) r m
    simp only [cellGet, List.cons_append] at *
    grind

omit [DecidableEq α] in
theorem cellGet_filter_below_of_ne {a hi : Nat} (ha : a < hi) :
    ∀ m : List (Nat × α), cellGet d m a ≠ d →
      cellGet d (m.filter fun c => decide (c.1 < hi)) a = cellGet d m a
  | [], h => absurd rfl h
  | (b, w) :: m, h => by
    have ih := cellGet_filter_below_of_ne ha m
    simp only [cellGet, List.filter_cons] at *
    grind [cellGet]

/-- A fill leaves what an element below it holds. -/
theorem cellGet_cellFill_below_of_ne {size a lo n : Nat} {v : α} (ha : a < lo) {m : List (Nat × α)}
    (h : cellGet d m a ≠ d) : cellGet d (cellFill size d m lo n v) a = cellGet d m a := by
  have hf := cellGet_filter_below_of_ne ha m h
  unfold cellFill
  rw [List.append_assoc, cellGet_append_of_ne _ _ (by rwa [hf]), hf]

omit [DecidableEq α] in
/-- Elements from `k` on, and those alone: one below `k` is not listed. -/
theorem cellGet_filter_above_below {a k : Nat} (ha : a < k) :
    ∀ m : List (Nat × α), cellGet d (m.filter fun c => decide (k ≤ c.1)) a = d
  | [] => rfl
  | (b, w) :: m => by
    have ih := cellGet_filter_above_below ha m
    simp only [List.filter_cons]
    grind [cellGet]

/-- A fill of the first elements of a RAM. -/
theorem cellGet_cellFill_zero {size a n : Nat} {v : α} (ha : a < n) (hs : a < size) (m : List (Nat × α)) :
    cellGet d (cellFill size d m 0 n v) a = v := by
  have hnone : m.filter (fun c => decide (c.1 < 0)) = [] := by simp
  have habove := cellGet_filter_above_below (d := d) (show a < 0 + min n (size - 0) by omega) m
  have hrun : cellGet d (cellRun d 0 (min n (size - 0)) v) a = v := by
    rw [cellGet_cellRun, if_pos (by omega)]
  simp only [cellFill, hnone, List.nil_append]
  by_cases hv : v = d
  · subst hv
    simpa [cellRun] using habove
  · rw [cellGet_append_of_ne _ _ (by rwa [hrun]), hrun]

end Cells

/-! ### A build without tree nodes

Where every length is within the direct-lookup width, R194 writes nothing but TABLE entries, so the built table is a
function of the length array and the TABLE cells alone. -/

/-- The TABLE cells after R194's outer loop over lengths within the direct-lookup width; `ch` is the next symbol. -/
def directCells (t : Table) (w : Nat) : List Nat → (ch : Nat) → (start : List Nat) → List (Nat × BitVec w) →
    List (Nat × BitVec w)
  | [], _, _, m => m
  | l :: ls, ch, start, m =>
    if l = 0 then directCells t w ls (ch + 1) start m
    else
      directCells t w ls (ch + 1) (start.set l (start.getD l 0 + 2 ^ (tableBits t - l)))
        (cellFill (tableCount t) 0#w m (start.getD l 0) (2 ^ (tableBits t - l)) (BitVec.ofNat w ch))

/-- Placing symbols whose lengths are within the direct-lookup width succeeds and writes TABLE alone. -/
theorem placeSymbols_direct {w : Nat} (t : Table) (nchar : Nat) :
    ∀ (ls : List Nat) (ch : Nat) (b : Building w), (∀ l ∈ ls, l ≤ tableBits t) →
      ∃ start, placeSymbols t nchar ls ch b = .ok
        { b with table := { b.table with table := directCells t w ls ch b.start b.table.table }, start := start }
  | [], _, b, _ => ⟨b.start, rfl⟩
  | l :: ls, ch, b, h => by
    obtain ⟨hl, hls⟩ := List.forall_mem_cons.mp h
    unfold placeSymbols directCells
    by_cases h0 : l = 0
    · simp only [h0, if_true]
      exact placeSymbols_direct t nchar ls (ch + 1) b hls
    · simp only [h0, hl, if_true, if_false]
      exact placeSymbols_direct t nchar ls (ch + 1) _ hls

/-- The table with which R194's loops begin: TABLE entries past the short codes are 0. -/
def clearedTail {w : Nat} (t : Table) (nchar : Nat) (h : HuffTable w) : HuffTable w :=
  let lo := startOf (h.lens nchar) (tableBits t + 1) / 2 ^ (16 - tableBits t)
  h.fillTable t lo (2 ^ tableBits t - lo) 0

/-- The table that R194 makes of a complete code within the direct-lookup width, with TV set. -/
def directTable {w : Nat} (t : Table) (nchar : Nat) (h : HuffTable w) : HuffTable w :=
  { h with
    table := directCells t w (h.lens nchar) 0 (startList t (h.lens nchar)) (clearedTail t nchar h).table
    nchar := BitVec.ofNat w nchar
    avail := BitVec.ofNat w nchar
    tabValid := true }

@[simp] theorem directTable_getLen {w : Nat} (t : Table) (nchar : Nat) (h : HuffTable w) (i : Nat) :
    (directTable t nchar h).getLen i = h.getLen i := rfl

@[simp] theorem directTable_tabValid {w : Nat} (t : Table) (nchar : Nat) (h : HuffTable w) :
    (directTable t nchar h).tabValid = true := rfl

/-- The built table does not depend on the flag that the build sets. -/
@[simp] theorem directTable_of_tabValid {w : Nat} (t : Table) (nchar : Nat) (h : HuffTable w) (b : Bool) :
    directTable t nchar { h with tabValid := b } = directTable t nchar h := rfl

theorem tableBits_le (t : Table) : tableBits t ≤ 16 := by
  cases t <;> decide

/-- HT_BUILD's computation on a complete code within the direct-lookup width (R192, R193, R194). -/
theorem buildValid_direct {w : Nat} {t : Table} {nchar : Nat} {h : HuffTable w}
    (hl : ∀ l ∈ h.lens nchar, l ≤ tableBits t) (hc : codeSpace (h.lens nchar) = 65536) :
    buildValid t nchar h = .ok (directTable t nchar h) := by
  have hrange : ((h.lens nchar).any fun l => decide (16 < l)) = false := by
    rw [List.any_eq_false]
    intro l hm
    simpa using (hl l hm).trans (tableBits_le t)
  obtain ⟨start, hplaced⟩ := placeSymbols_direct t nchar (h.lens nchar) 0
    { table := clearedTail t nchar h, avail := nchar, start := startList t (h.lens nchar) } hl
  unfold clearedTail at hplaced
  simp only [buildValid, buildTable, hrange, hc, ne_eq, not_true_eq_false, if_false, Bool.false_eq_true, hplaced]
  rfl

theorem build_ok {t : Table} {nchar : Nat} {s : State} {h : HuffTable (entryWidth t)}
    (hb : buildValid t nchar (s.tab t) = .ok h) : build t nchar s = .ok () (s.setTab t h) := by
  simp [build, updateTab, hb]

/-! ### The ready-made lengths (R240) -/

/-- The lengths that R240's loop writes, from symbol `i` on. -/
def fixedLens : (left i j : Nat) → List Nat → List Nat
  | 0, _, _, _ => []
  | left + 1, i, j, tbl =>
    (growLength i j tbl).1 :: fixedLens left (i + 1) (growLength i j tbl).1 (growLength i j tbl).2

theorem getLen_setLen_of_pos {w : Nat} {t : Table} {i l : Nat} (hl : 0 < l) (h31 : l ≤ 31) (hi : i < lenCount t)
    (h : HuffTable w) (k : Nat) : (h.setLen t i l).getLen k = if k = i then l else h.getLen k := by
  have hne : heldLen l ≠ 0#5 := by
    intro h0
    have hheld := heldLen_toNat l
    rw [h0, BitVec.toNat_ofNat] at hheld
    omega
  unfold HuffTable.getLen HuffTable.setLen
  rw [cellGet_cellWrite_of_ne hne hi]
  split
  · rw [heldLen_toNat, Nat.min_eq_left h31]
  · rfl

/-- The length array after R240's loop. -/
theorem getLen_readyLengths {w : Nat} (k : Nat) : ∀ (left i j : Nat) (tbl : List Nat) (h : HuffTable w),
    (∀ l ∈ fixedLens left i j tbl, 0 < l ∧ l ≤ 31) → i + left ≤ lenCount .pt →
    (readyLengths left i j tbl h).getLen k =
      if i ≤ k ∧ k < i + left then (fixedLens left i j tbl).getD (k - i) 0 else h.getLen k
  | 0, i, j, tbl, h, _, _ => by
    rw [if_neg (by omega)]
    rfl
  | left + 1, i, j, tbl, h, hl, hi => by
    obtain ⟨⟨hpos, h31⟩, hls⟩ := List.forall_mem_cons.mp hl
    have ih := getLen_readyLengths k left (i + 1) _ (growLength i j tbl).2 (h.setLen .pt i (growLength i j tbl).1) hls
      (by omega)
    simp only [readyLengths, fixedLens]
    rw [ih, getLen_setLen_of_pos hpos h31 (by omega)]
    rcases lt_trichotomy k i with hk | rfl | hk
    · rw [if_neg (by omega), if_neg (by omega), if_neg (by omega)]
    · simp
    · have hsucc : k - i = k - (i + 1) + 1 := by omega
      rw [hsucc, List.getD_cons_succ, if_neg hk.ne']
      exact if_congr (by omega) rfl rfl

/-- R240's loop neither reads nor writes the valid flags. -/
theorem readyLengths_flags {w : Nat} (x y : Bool) : ∀ (left i j : Nat) (tbl : List Nat) (h : HuffTable w),
    readyLengths left i j tbl { h with lenValid := x, tabValid := y } =
      { readyLengths left i j tbl h with lenValid := x, tabValid := y }
  | 0, _, _, _, _ => rfl
  | left + 1, i, j, tbl, h =>
    readyLengths_flags x y left (i + 1) _ (growLength i j tbl).2 (h.setLen .pt i (growLength i j tbl).1)

/-- The table of which `ReadyMade(m, np)` makes its build: the `np` lengths, the rest of LEN 0, and LENV set. -/
def readyLens (m : ReadyTable) (np : Nat) (h : HuffTable 8) : HuffTable 8 :=
  { (readyLengths np 0 (fixedTable m).1 (fixedTable m).2 h).zeroLens .pt np (lenCount .pt - np) with lenValid := true }

theorem readyLens_invalidate (m : ReadyTable) (np : Nat) (h : HuffTable 8) :
    readyLens m np h.invalidate = { readyLens m np h with tabValid := false } := by
  unfold readyLens HuffTable.invalidate
  rw [readyLengths_flags]
  rfl

theorem readyMade_eq (m : ReadyTable) (np : Nat) (s : State) :
    readyMade m np s = build .pt np { s with tabPt := readyLens m np s.tabPt } := rfl

/-! ### The lh1 position table (R240) -/

/-- The PT table that ENTRY_START of lh1 and HT_READY_MADE 0, 64 make. -/
def lh1Table (h : HuffTable 8) : HuffTable 8 := directTable .pt 64 (readyLens .lh1 64 h)

/-- R240's loop gives the lengths that R240 lists. -/
theorem fixedLens_lh1 :
    fixedLens 64 0 (fixedTable .lh1).1 (fixedTable .lh1).2 = (List.range 64).map (readyLength .lh1) := by
  decide

theorem readyLength_lh1_bounds (i : Nat) : 3 ≤ readyLength .lh1 i ∧ readyLength .lh1 i ≤ 8 := by
  simp only [readyLength]
  split_ifs <;> decide

theorem getLen_readyLens_lh1 (h : HuffTable 8) {i : Nat} (hi : i < 64) :
    (readyLens .lh1 64 h).getLen i = readyLength .lh1 i := by
  have hb : ∀ l ∈ fixedLens 64 0 (fixedTable .lh1).1 (fixedTable .lh1).2, 0 < l ∧ l ≤ 31 := by
    rw [fixedLens_lh1]
    intro l hl
    obtain ⟨k, -, rfl⟩ := List.mem_map.mp hl
    have := readyLength_lh1_bounds k
    omega
  have hready : (readyLengths 64 0 (fixedTable .lh1).1 (fixedTable .lh1).2 h).getLen i = readyLength .lh1 i := by
    rw [getLen_readyLengths i 64 0 _ _ h hb (by decide), if_pos (by omega), fixedLens_lh1]
    simp [hi]
  have hne : cellGet 0#5 (readyLengths 64 0 (fixedTable .lh1).1 (fixedTable .lh1).2 h).len i ≠ 0#5 := by
    intro h0
    have hbounds := readyLength_lh1_bounds i
    rw [← hready, HuffTable.getLen, h0] at hbounds
    exact absurd hbounds.1 (by decide)
  rw [← hready]
  exact congrArg BitVec.toNat (cellGet_cellFill_below_of_ne hi hne)

theorem lens_readyLens_lh1 (h : HuffTable 8) :
    (readyLens .lh1 64 h).lens 64 = (List.range 64).map (readyLength .lh1) :=
  List.map_congr_left fun _ hi => getLen_readyLens_lh1 h (List.mem_range.mp hi)

/-- lh1's lengths are a complete code within the direct-lookup width. -/
theorem buildValid_lh1 (h : HuffTable 8) : buildValid .pt 64 (readyLens .lh1 64 h) = .ok (lh1Table h) := by
  refine buildValid_direct ?_ ?_
  · rw [lens_readyLens_lh1]
    intro l hl
    obtain ⟨k, -, rfl⟩ := List.mem_map.mp hl
    exact (readyLength_lh1_bounds k).2
  · rw [lens_readyLens_lh1]
    decide

/-- The table does not depend on the valid flags it replaces. -/
theorem lh1Table_invalidate (h : HuffTable 8) : lh1Table h.invalidate = lh1Table h := by
  unfold lh1Table
  rw [readyLens_invalidate, directTable_of_tabValid]

@[simp] theorem lh1Table_tabValid (h : HuffTable 8) : (lh1Table h).tabValid = true :=
  directTable_tabValid _ _ _

theorem lh1Table_getLen (h : HuffTable 8) {i : Nat} (hi : i < 64) :
    (lh1Table h).getLen i = readyLength .lh1 i := by
  rw [lh1Table, directTable_getLen, getLen_readyLens_lh1 h hi]

theorem readyMade_lh1 (s : State) : readyMade .lh1 64 s = .ok () { s with tabPt := lh1Table s.tabPt } := by
  rw [readyMade_eq]
  exact build_ok (buildValid_lh1 s.tabPt)

/-! ### The method's own initial state (R334) -/

/-- dicbit of a method; methods 0 and 8 have no window (R10, R334). -/
def methodDicbit : Nat → BitVec 5
  | 1 => 12#5
  | 2 => 13#5
  | 3 => 13#5
  | 4 => 12#5
  | 5 => 13#5
  | 6 => 15#5
  | 7 => 16#5
  | _ => 0#5

/-- np after a method's start; methods 0, 2 and 8 leave it. -/
def methodNp (m : Nat) (np : BitVec 8) : BitVec 8 :=
  match m with
  | 1 => 64#8
  | 3 => 128#8
  | 4 | 5 => 14#8
  | 6 => 16#8
  | 7 => 17#8
  | _ => np

/-- pbit after a method's start; only lh4 to lh7 have one. -/
def methodPbit (m : Nat) (pbit : BitVec 3) : BitVec 3 :=
  match m with
  | 4 | 5 => 4#3
  | 6 | 7 => 5#3
  | _ => pbit

/-- A window of 2^k bytes, open and full of one byte (R301). -/
def openedWindow (k : Nat) (fill : Byte) (x : Window) : Window :=
  { dic := cellFill dicSize dicUnlisted x.dic 0 (2 ^ k) fill
    loc := 0#16
    mask := BitVec.ofNat 16 (2 ^ k - 1)
    valid := true }

/-- The window after a method's start. -/
def methodWindow (m : Nat) (fill : Byte) (x : Window) : Window :=
  if m = 0 ∨ m = 8 then x else openedWindow (methodDicbit m).toNat fill x

/-- The adaptive trees after a method's start: lh1 and lh2 make theirs. -/
def methodArena (m : Nat) (a : Arena) : Arena :=
  match m with
  | 1 => startC 314 60 a
  | 2 => startP 13 (startC 286 256 a)
  | _ => a

/-- A table whose length array is cleared (R200). -/
def clearedLens {w : Nat} (h : HuffTable w) : HuffTable w := { h with len := [], lenValid := true, tabValid := false }

/-- The C table after a method's start: lh3 to lh7 clear its lengths. -/
def methodTabC (m : Nat) (h : HuffTable 10) : HuffTable 10 := if 3 ≤ m ∧ m ≤ 7 then clearedLens h else h

/-- The PT table after a method's start: lh1 has its ready-made table, lh3 to lh7 clear its lengths. -/
def methodTabPt (m : Nat) (h : HuffTable 8) : HuffTable 8 :=
  if m = 1 then lh1Table h else if 3 ≤ m ∧ m ≤ 7 then clearedLens h else h

/-- The state after the `case m of` of R334. -/
def methodStarted (m : Nat) (s : State) : State :=
  { s with
    dicbit := methodDicbit m
    np := methodNp m s.np
    pbit := methodPbit m s.pbit
    window := methodWindow m s.fill s.window
    arena := methodArena m s.arena
    tabC := methodTabC m s.tabC
    tabPt := methodTabPt m s.tabPt }

theorem startMethod_lh1 (s : State) : startMethod 1 s = .ok () (methodStarted 1 s) := by
  simp only [startMethod, setNp, winInit, eng_bind, eng_modify, readyMade_lh1]
  rfl

/-- The `case m of` of R334, method by method. -/
theorem startMethod_eq (s : State) : ∀ {m : Nat}, m ≤ 8 → startMethod m s = .ok () (methodStarted m s)
  | 0, _ => rfl
  | 1, _ => startMethod_lh1 s
  | 2, _ => rfl
  | 3, _ => rfl
  | 4, _ => rfl
  | 5, _ => rfl
  | 6, _ => rfl
  | 7, _ => rfl
  | 8, _ => rfl
  | _ + 9, h => by omega

/-- The opened window reads as the fill byte at every index of the window, whatever DIC held. -/
theorem openedWindow_read {k : Nat} (hk : k ≤ 16) (fill : Byte) (x : Window) {a : Nat} (ha : a < 2 ^ k) :
    (openedWindow k fill x).read a = fill := by
  have hsize : a < dicSize := ha.trans_le (Nat.pow_le_pow_right (by decide) hk)
  exact cellGet_cellFill_zero ha hsize x.dic

theorem openedWindow_mask {k : Nat} (hk : k ≤ 16) (fill : Byte) (x : Window) :
    (openedWindow k fill x).mask.toNat + 1 = 2 ^ k := by
  have hpos : 0 < 2 ^ k := Nat.two_pow_pos k
  have hle : 2 ^ k ≤ 2 ^ 16 := Nat.pow_le_pow_right (by decide) hk
  simp only [openedWindow, BitVec.toNat_ofNat]
  omega

theorem methodDicbit_le (m : Nat) : (methodDicbit m).toNat ≤ 16 := by
  unfold methodDicbit
  split <;> decide

theorem methodWindow_opened {m : Nat} (h : ¬(m = 0 ∨ m = 8)) (fill : Byte) (x : Window) :
    methodWindow m fill x = openedWindow (methodDicbit m).toNat fill x :=
  if_neg h

theorem onlyRams_validP {a b : Arena} (h : OnlyRams a b) : b.validP = a.validP := by
  rw [h]

theorem startLeaves_onlyRams : ∀ (left sym j : Nat) (a : Arena), OnlyRams a (startLeaves left sym j a)
  | 0, _, _, _ => OnlyRams.rfl
  | left + 1, sym, j, a =>
    (((setFreq_onlyRams a _ _).trans (setChild_onlyRams _ _ _)).trans (setSNode_onlyRams _ _ _)).trans
      (startLeaves_onlyRams left (sym + 1) (j - 1) _)

theorem startInternal_onlyRams : ∀ (j i : Nat) (a : Arena), OnlyRams a (startInternal j i a)
  | 0, _, _ => OnlyRams.rfl
  | j + 1, i, a =>
    ((((setFreq_onlyRams a _ _).trans (setChild_onlyRams _ _ _)).trans (setParent_onlyRams _ _ _)).trans
      (setParent_onlyRams _ _ _)).trans (startInternal_onlyRams j (i - 2) _)

/-- StartC leaves the position tree's flag (R261). -/
theorem startC_validP (nMax maxMatch : Nat) (a : Arena) : (startC nMax maxMatch a).validP = a.validP := by
  simp only [startC, onlyRams_validP (startInternal_onlyRams _ _ _), onlyRams_validP (startLeaves_onlyRams _ _ _ _)]

theorem methodArena_validC {m : Nat} {a : Arena} (h : a.validC = false) :
    (methodArena m a).validC = true ↔ m = 1 ∨ m = 2 := by
  unfold methodArena
  split
  · simp [startC]
  · simp [startP, startC, Arena.setFreq, Arena.setChild, Arena.setSNode]
  · simp_all

theorem methodArena_validP {m : Nat} {a : Arena} (h : a.validP = false) : (methodArena m a).validP = true ↔ m = 2 := by
  unfold methodArena
  split
  · simp [(startC_validP 314 60 a).trans h]
  · simp [startP]
  · simp_all

theorem methodTabPt_tabValid {m : Nat} {h : HuffTable 8} (hv : h.tabValid = false) :
    (methodTabPt m h).tabValid = true ↔ m = 1 := by
  unfold methodTabPt
  split_ifs with h1
  · simp [h1]
  · simp [h1, clearedLens]
  · simp [h1, hv]

theorem methodTabC_tabValid {m : Nat} {h : HuffTable 10} (hv : h.tabValid = false) :
    (methodTabC m h).tabValid = false := by
  unfold methodTabC
  split_ifs
  · rfl
  · exact hv

/-! ### The start of the reader, and of the entry -/

/-- The reader right after its start, with the bytes its first requests were answered with (R155). -/
def startedReader (packed : Count) (bs : List Byte) : Reader :=
  { pos := 0#64, packed := packed, endAt := none, inCount := BitVec.ofNat 64 bs.length, bytes := bs, valid := true }

/-- BR_INIT with a source that answers its requests with bytes (R155, R156). -/
theorem brInit_received {s : State} {bs : List Byte} {rest : List Answer} (hl : bs.length = min s.packedSize.toNat 2)
    (hs : s.source = byteAnswers bs ++ rest) :
    brInit s = .ok () { s with
      reader := startedReader s.packedSize bs
      source := rest
      inFlight := requestEvents 0 bs.length ++ s.inFlight } := by
  have hn : min s.packedSize.toNat ((0 + 16 + 7) / 8) - 0 = bs.length := hl.symm
  have hr := requestBytes_received (rest := rest) bs
    { s with reader :=
      { s.reader with packed := s.packedSize, pos := 0#64, endAt := none, inCount := 0#64, bytes := [] } } hs rfl
    (by rw [BitVec.toNat_ofNat]; omega)
  simp only [brInit, fillLookAhead, eng_bind, eng_modify, eng_get, Reader.requestTarget, Reader.requestsMade,
    BitVec.toNat_ofNat, Nat.zero_mod, Option.isSome_none, Bool.false_eq_true, if_false, Nat.add_zero, hn, hr]
  simp [Reader.receive, startedReader]

/-- The state in which ENTRY_START begins the method: latched, and with the reader started. -/
def entryOpened (s : State) (bs : List Byte) (rest : List Answer) : State :=
  { s.clearEntry.latchEntry with
    reader := startedReader s.packedSize bs
    source := rest }

/-- The state that ENTRY_START leaves, but for its end. -/
def entryStarted (s : State) (bs : List Byte) (rest : List Answer) : State :=
  { methodStarted s.method.toNat (entryOpened s bs rest) with estate := .active }

theorem entryStart_ok {s : State} {bs : List Byte} {rest : List Answer} (hm : s.method.toNat ≤ 8)
    (hl : bs.length = min s.packedSize.toNat 2) (hs : s.source = byteAnswers bs ++ rest) :
    entryStart s = .ok () { entryStarted s bs rest with inFlight := requestEvents 0 bs.length ++ s.inFlight } := by
  have hmethod : s.clearEntry.method = s.method := rfl
  have hgood : decide (8 < s.method.toNat) = false := decide_eq_false (by omega)
  have hopen := brInit_received (s := s.clearEntry.latchEntry) hl hs
  simp only [entryStart, eng_bind, eng_modify, eng_get, hmethod, hgood, eng_raiseIf_false, hopen, startMethod_eq _ hm]
  rfl

theorem entryStart_reserved {s : State} (hm : 9 ≤ s.method.toNat) :
    entryStart s = .error (.raise .badState) s.clearEntry := by
  have hmethod : s.clearEntry.method = s.method := rfl
  have hbad : decide (8 < s.method.toNat) = true := decide_eq_true hm
  simp only [entryStart, eng_bind, eng_modify, eng_get, hmethod, hbad, eng_raiseIf_true]

/-- ENTRY_START of METHOD 0 to 8, with a source that answers its requests with bytes (R334). -/
theorem exec_entryStart {s : State} {bs : List Byte} {rest : List Answer} (hm : s.method.toNat ≤ 8)
    (hl : bs.length = min s.packedSize.toNat 2) (hs : s.source = byteAnswers bs ++ rest) :
    exec .entryStart s = .next ((entryStarted s bs rest).ended (requestEvents 0 bs.length)) := by
  refine command_ended _ _ rfl rfl ((entryStart_ok (s := { s with inFlight := [] }) hm hl hs).trans ?_)
  rw [List.append_nil]
  rfl

/-- ENTRY_START with a reserved METHOD (R334). -/
theorem exec_entryStart_reserved {s : State} (hm : 9 ≤ s.method.toNat) :
    exec .entryStart s = .next (State.failCommand .badState ({ s with inFlight := [] } : State).clearEntry) :=
  command_raise rfl rfl (entryStart_reserved (s := { s with inFlight := [] }) hm)

theorem notInFailed_iff {e : EState} : notInFailed e = true ↔ e ≠ .failed := by
  cases e <;> simp [notInFailed]

/-- HT_READY_MADE 0, 64 (R241). -/
theorem exec_htReadyMade_lh1 {s : State} (h : s.estate ≠ .failed) :
    exec (.htReadyMade .lh1 64#8) s = .next ({ s with tabPt := lh1Table s.tabPt }.ended []) :=
  command_ended _ _ rfl (notInFailed_iff.mpr h) (readyMade_lh1 _)

section Started

variable (s : State) (bs : List Byte) (rest : List Answer)

@[simp] theorem entryStarted_np : (entryStarted s bs rest).np = methodNp s.method.toNat s.np := rfl

@[simp] theorem entryStarted_pbit : (entryStarted s bs rest).pbit = methodPbit s.method.toNat s.pbit := rfl

@[simp] theorem entryStarted_dicbit : (entryStarted s bs rest).dicbit = methodDicbit s.method.toNat := rfl

@[simp] theorem entryStarted_window :
    (entryStarted s bs rest).window = methodWindow s.method.toNat s.fill { s.window with valid := false } := rfl

@[simp] theorem entryStarted_arena :
    (entryStarted s bs rest).arena = methodArena s.method.toNat s.arena.invalidate := rfl

@[simp] theorem entryStarted_tabC : (entryStarted s bs rest).tabC = methodTabC s.method.toNat s.tabC.invalidate := rfl

@[simp] theorem entryStarted_tabPt :
    (entryStarted s bs rest).tabPt = methodTabPt s.method.toNat s.tabPt.invalidate := rfl

end Started

theorem entryStarted_status (s : State) (bs : List Byte) (rest : List Answer) (es : List PortEvent) :
    ((entryStarted s bs rest).ended es).status = 0x00000A00#32 := by
  change 0#19 ++ estateNumber .active ++ BitVec.ofBool false ++ BitVec.ofBool (decide (0#16 = 0#16))
    ++ BitVec.ofBool false ++ errNumber none ++ 0#1 ++ BitVec.ofBool false ++ BitVec.ofBool false
    ++ BitVec.ofBool false = _
  decide

/-- Settles O15. Each clause is read off the state that ENTRY_START leaves (`exec_entryStart`), its components by the
laws of the method's start; the other half is R402's failure of a state whose code was cleared. -/
theorem entryStartBegins : Obligations.EntryStartBegins := by
  unfold Obligations.EntryStartBegins
  refine ⟨fun s bs rest hm hl hs => ?_, fun s hm => ?_⟩
  · refine ⟨_, exec_entryStart hm hl hs, entryStarted_status _ _ _ _, ⟨rfl, rfl, rfl, rfl, rfl, rfl⟩, rfl, rfl, rfl,
      rfl, rfl, rfl, rfl, rfl, rfl, rfl, rfl, rfl, rfl, rfl, ?np1, ?np3, ?ns45, ?ns6, ?ns7, ?window, ?validC, ?validP,
      ?tabPt, ?tabC, ?lh1, ?lh2, ?lens⟩
    case np1 | np3 | ns6 | ns7 =>
      intro h
      simp [h, methodNp, methodPbit]
    case ns45 =>
      rintro (h | h) <;> simp [h, methodNp, methodPbit]
    case window =>
      simp only [ended_window, ended_dicbit, entryStarted_window, entryStarted_dicbit]
      split_ifs with h
      · simp [methodWindow, h]
      · rw [methodWindow_opened h]
        have hk := methodDicbit_le s.method.toNat
        have hmask := openedWindow_mask hk s.fill { s.window with valid := false }
        exact ⟨rfl, rfl, hmask, fun a ha => openedWindow_read hk _ _ ((Nat.lt_succ_of_le ha).trans_eq hmask)⟩
    case validC => exact methodArena_validC rfl
    case validP => exact methodArena_validP rfl
    case tabPt => exact methodTabPt_tabValid rfl
    case tabC => exact methodTabC_tabValid rfl
    case lh1 =>
      intro h
      have htab : methodTabPt s.method.toNat s.tabPt.invalidate = lh1Table s.tabPt := by
        rw [h, methodTabPt, if_pos rfl, lh1Table_invalidate]
      simp only [ended_arena, entryStarted_arena, ended_tabPt, entryStarted_tabPt, htab]
      refine ⟨by rw [h]; rfl, fun _ => ⟨fun i hi => lh1Table_getLen _ hi, ?_⟩⟩
      exact exec_htReadyMade_lh1 (by simp)
    case lh2 =>
      intro h
      rw [ended_arena, entryStarted_arena, h]
      rfl
    case lens =>
      intro h
      simp only [ended_tabC, entryStarted_tabC, ended_tabPt, entryStarted_tabPt]
      rw [methodTabC, if_pos h, methodTabPt, if_neg (by omega), if_pos h]
      exact ⟨rfl, rfl, fun i => ⟨rfl, rfl⟩⟩
  · exact ⟨_, exec_entryStart_reserved hm, rfl, rfl, rfl, rfl, failCommand_noneValid _ _, rfl, rfl, rfl, rfl, rfl, rfl,
      rfl, rfl, ⟨rfl, rfl, rfl, rfl, rfl, rfl⟩, rfl, scramble_window_loc _ _, rfl, rfl, rfl, rfl, rfl, rfl, rfl, rfl⟩

end Sys2Proof.Proofs
end

section
/-! PROOFS. What the arena's algorithms keep: the canonical form of the RAMs, and every register and flag but those that
a rule has them write. -/

namespace Sys2Proof.Proofs

open Sys2Proof.Machine Sys2Proof.Laws

/-! ### Writing the trees' nodes -/

/-- `b` is `a` with nodes, leaves and TOTAL_P rewritten: the RAMs stay canonical, and every other register and flag is
as it was. -/
structure Rewrites (a b : Arena) : Prop where
  wf : a.wf = true → b.wf = true
  regs : b = { a with freq := b.freq, child := b.child, parent := b.parent, sNode := b.sNode, totalP := b.totalP }

theorem Rewrites.rfl {a : Arena} : Rewrites a a := ⟨id, by simp⟩

theorem Rewrites.trans {a b c : Arena} (h : Rewrites a b) (k : Rewrites b c) : Rewrites a c :=
  ⟨k.wf ∘ h.wf, by rw [k.regs, h.regs]⟩

theorem onlyRams_rewrites {a b : Arena} (h : OnlyRams a b) (hw : a.wf = true → b.wf = true) : Rewrites a b := by
  refine ⟨hw, ?_⟩
  have ht : b.totalP = a.totalP := by rw [h]
  rw [ht]
  exact h

theorem rewrites_setFreq (a : Arena) (i v : Nat) : Rewrites a (a.setFreq i v) :=
  onlyRams_rewrites (setFreq_onlyRams a i v) fun h => setFreq_wf h i v

theorem rewrites_setChild (a : Arena) (i : Nat) (v : Int) : Rewrites a (a.setChild i v) :=
  onlyRams_rewrites (setChild_onlyRams a i v) fun h => setChild_wf h i v

theorem rewrites_setParent (a : Arena) (i v : Nat) : Rewrites a (a.setParent i v) :=
  onlyRams_rewrites (setParent_onlyRams a i v) fun h => setParent_wf h i v

theorem rewrites_setSNode (a : Arena) (i v : Nat) : Rewrites a (a.setSNode i v) :=
  onlyRams_rewrites (setSNode_onlyRams a i v) fun h => setSNode_wf h i v

theorem rewrites_setTotalP (a : Arena) (v : BitVec 16) : Rewrites a { a with totalP := v } := ⟨id, Eq.refl _⟩

theorem rewrites_scramble (a : Arena) (k : Nat) : Rewrites a (a.scramble k) :=
  onlyRams_rewrites (scramble_onlyRams a k) fun _ => scramble_wf a k

theorem rewrites_linkBelow (a : Arena) (c : Int) (n : Nat) : Rewrites a (a.linkBelow c n) :=
  onlyRams_rewrites (linkBelow_onlyRams a c n) fun h => linkBelow_wf h c n

theorem rewrites_linkLeaf (a : Arena) (c : Int) (n : Nat) : Rewrites a (a.linkLeaf c n) :=
  onlyRams_rewrites (linkLeaf_onlyRams a c n) fun h => linkLeaf_wf h c n

theorem rewrites_inc (a : Arena) (p : Nat) : Rewrites a (a.inc p).1 :=
  onlyRams_rewrites (inc_onlyRams a p) fun h => inc_wf h p

theorem rewrites_climb (root turns : Nat) (a : Arena) (q k : Nat) : Rewrites a (Arena.climb root turns a q k).1 :=
  onlyRams_rewrites (climb_onlyRams root turns a q k) (climb_wf root turns q k)

/-- A node's weight and child link together, as the rebuild and the initial trees write them. -/
theorem rewrites_setNode (a : Arena) (i v : Nat) (c : Int) : Rewrites a ((a.setFreq i v).setChild i c) :=
  (rewrites_setFreq _ _ _).trans (rewrites_setChild _ _ _)

/-! ### The initial trees (R261, R263) -/

theorem rewrites_startLeaves : ∀ (left sym j : Nat) (a : Arena), Rewrites a (startLeaves left sym j a)
  | 0, _, _, _ => Rewrites.rfl
  | left + 1, sym, j, _ =>
    ((rewrites_setNode _ _ _ _).trans (rewrites_setSNode _ _ _)).trans (rewrites_startLeaves left (sym + 1) (j - 1) _)

theorem rewrites_startInternal : ∀ (j i : Nat) (a : Arena), Rewrites a (startInternal j i a)
  | 0, _, _ => Rewrites.rfl
  | j + 1, i, _ =>
    (((rewrites_setNode _ _ _ _).trans (rewrites_setParent _ _ _)).trans (rewrites_setParent _ _ _)).trans
      (rewrites_startInternal j (i - 2) _)

/-- `StartC` is its registers and then a rewriting of nodes. -/
theorem startC_rewrites (nMax maxMatch : Nat) (a : Arena) :
    Rewrites { a with
      nMax := BitVec.ofNat 9 nMax
      n1 := if 256 + maxMatch - 3 + 1 ≤ nMax then 512#10 else BitVec.ofNat 10 (nMax - 1)
      validC := true } (startC nMax maxMatch a) := by
  have h := (rewrites_startLeaves nMax 0 (2 * nMax - 2) { a with
    nMax := BitVec.ofNat 9 nMax
    n1 := if 256 + maxMatch - 3 + 1 ≤ nMax then 512#10 else BitVec.ofNat 10 (nMax - 1) }).trans
      (rewrites_startInternal (nMax - 1) (2 * nMax - 2) _)
  exact ⟨fun hw => h.wf hw, congrArg (fun b : Arena => { b with validC := true }) h.regs⟩

/-- `StartP` is a rewriting of one node and then its registers. -/
theorem startP_rewrites (k : Nat) (a : Arena) :
    Rewrites { a with
      mostP := BitVec.ofNat 10 rootP
      nn := BitVec.ofNat 17 (2 ^ k)
      nextCount := 64#32
      validP := true } (startP k a) := by
  have h := (rewrites_setNode a rootP 1 (leafLink nChar)).trans (rewrites_setSNode _ nChar rootP)
  exact ⟨fun hw => h.wf hw, rfl⟩

/-! ### The rebuild (R273) -/

theorem rewrites_copyNode (a : Arena) (i j : Int) : Rewrites a (a.copyNode i j) := by
  unfold Arena.copyNode
  split
  · exact rewrites_setNode _ _ _ _
  · exact Rewrites.rfl

theorem rewrites_compactLeaves : ∀ (left i j : Nat) (a : Arena), Rewrites a (compactLeaves left i j a).1
  | 0, _, _, _ => Rewrites.rfl
  | left + 1, i, j, a => by
    unfold compactLeaves
    split
    · exact (rewrites_setNode _ _ _ _).trans (rewrites_compactLeaves left (i + 1) (j + 1) _)
    · exact rewrites_compactLeaves left (i + 1) j a

theorem rewrites_copyDown (go : Int → Int → Bool) : ∀ (turns : Nat) (i j : Int) (a : Arena) {b : Arena} {i' j' : Int},
    copyDown go turns i j a = some (b, i', j') → Rewrites a b
  | 0, _, _, _, _, _, _, h => by cases h
  | turns + 1, i, j, a, b, i', j', h => by
    unfold copyDown at h
    split at h
    · exact (rewrites_copyNode a i j).trans (rewrites_copyDown go turns _ _ _ h)
    · cases h
      exact Rewrites.rfl

theorem rewrites_rebuildNodes (start : Nat) : ∀ (turns : Nat) (i j l : Int) (a : Arena) {b : Arena},
    rebuildNodes start turns i j l a = some b → Rewrites a b
  | 0, _, _, _, _, _, h => by cases h
  | turns + 1, i, j, l, a, b, h => by
    unfold rebuildNodes at h
    split at h
    · cases h
      exact Rewrites.rfl
    · split at h
      · cases h
      · rename_i a₁ i₁ j₁ h₁
        dsimp only at h
        split at h
        · cases h
        · split at h
          · cases h
          · rename_i a₂ i₂ j₂ h₂
            have hcopies := (rewrites_copyDown _ _ _ _ _ h₁).trans (rewrites_copyDown _ _ _ _ _ h₂)
            refine (hcopies.trans ?_).trans (rewrites_rebuildNodes start turns _ _ _ _ h)
            split
            · exact rewrites_setNode _ _ _ _
            · exact Rewrites.rfl

theorem rewrites_relink : ∀ (left i : Nat) (a : Arena), Rewrites a (relink left i a)
  | 0, _, _ => Rewrites.rfl
  | left + 1, i, _ => (rewrites_linkBelow _ _ _).trans (rewrites_relink left (i + 1) _)

theorem rewrites_rebuild {start stop : Nat} {a b : Arena} (h : a.rebuild start stop = some b) : Rewrites a b := by
  unfold Arena.rebuild at h
  dsimp only at h
  split at h
  · cases h
  · rename_i a₁ h₁
    cases h
    exact ((rewrites_compactLeaves _ _ _ _).trans (rewrites_rebuildNodes _ _ _ _ _ _ h₁)).trans (rewrites_relink _ _ _)

theorem rewrites_reconst (start stop : Nat) (a : Arena) (k : Nat) : Rewrites a (a.reconst start stop k).1 := by
  unfold Arena.reconst
  split
  · exact rewrites_scramble a k
  · rename_i h
    exact rewrites_rebuild h

theorem rewrites_reconstC (a : Arena) (k : Nat) : Rewrites a (a.reconstC k).1 := rewrites_reconst _ _ a k

theorem rewrites_reconstP (a : Arena) (k : Nat) : Rewrites a (a.reconstP k).1 := by
  unfold Arena.reconstP
  split
  · exact ((rewrites_compactLeaves 1 rootP rootP a).trans (rewrites_relink 1 rootP _)).trans (rewrites_setTotalP _ _)
  · exact ((rewrites_reconst _ _ a k).trans (rewrites_setTotalP _ _)).trans (rewrites_setFreq _ _ _)

/-! ### Updates and growth -/

theorem rewrites_ite {c : Prop} [Decidable c] {a : Arena} {x y : Arena × Nat} (hx : Rewrites a x.1)
    (hy : Rewrites a y.1) : Rewrites a (if c then x else y).1 := by
  split
  · exact hx
  · exact hy

theorem rewrites_updateC (c : Nat) (a : Arena) (k : Nat) : Rewrites a (Arena.updateC c a k).1 := by
  have hroom : Rewrites a (if a.getFreq rootC = 0x8000 then a.reconstC k else (a, k)).1 :=
    rewrites_ite (rewrites_reconstC a k) Rewrites.rfl
  unfold Arena.updateC
  split
  rename_i a₁ k₁ h₁
  rw [h₁] at hroom
  exact (hroom.trans (rewrites_setFreq _ _ _)).trans ((rewrites_inc _ _).trans (rewrites_climb _ _ _ _ _))

theorem rewrites_countLeafP (sym : Nat) (a : Arena) (k : Nat) : Rewrites a (Arena.countLeafP sym a k).1 := by
  have hroom : Rewrites a (if a.totalP = 0x8000#16 then a.reconstP k else (a, k)).1 :=
    rewrites_ite (rewrites_reconstP a k) Rewrites.rfl
  unfold Arena.countLeafP
  split
  rename_i a₁ k₁ h₁
  rw [h₁] at hroom
  exact hroom.trans ((rewrites_climb _ _ _ _ _).trans (rewrites_setTotalP _ _))

theorem Rewrites.withMostP {a b : Arena} (h : Rewrites a b) (m : BitVec 10) :
    Rewrites { a with mostP := m } { b with mostP := m } :=
  ⟨fun hw => h.wf hw, congrArg (fun b : Arena => { b with mostP := m }) h.regs⟩

/-- `MakeNewNode` rewrites nodes of the arena in which MOST_P is two nodes further on. -/
theorem rewrites_makeNewNode (p : Nat) (a : Arena) (k : Nat) :
    Rewrites { a with mostP := BitVec.ofNat 10 (a.mostP.toNat + 1 + 1) } (Arena.makeNewNode p a k).1 := by
  have hroot : ∀ b : Arena, Rewrites b (if a.mostP.toNat = rootP then b.setFreq rootP 0xFFFF else b) := fun b => by
    split
    · exact rewrites_setFreq _ _ _
    · exact Rewrites.rfl
  unfold Arena.makeNewNode Arena.updateP
  refine Rewrites.trans (Rewrites.withMostP ?_ _) (rewrites_countLeafP _ _ _)
  refine Rewrites.trans ?_ (rewrites_setSNode _ _ _)
  refine Rewrites.trans ?_ (rewrites_setParent _ _ _)
  refine Rewrites.trans ?_ (rewrites_setParent _ _ _)
  refine Rewrites.trans ?_ (hroot _)
  refine Rewrites.trans ?_ (rewrites_setFreq _ _ _)
  refine Rewrites.trans ?_ (rewrites_setFreq _ _ _)
  refine Rewrites.trans ?_ (rewrites_setChild _ _ _)
  refine Rewrites.trans ?_ (rewrites_setChild _ _ _)
  exact (rewrites_setChild _ _ _).trans (rewrites_linkLeaf _ _ _)

end Sys2Proof.Proofs
end

section
/-! PROOFS. What a command's body can do: the moves of which every body is made, each writing one part of the block, and
the computations of which a body is made, as paths of such moves. -/

namespace Sys2Proof.Proofs

open Sys2Proof.Machine Sys2Proof.Laws

/-! ### The reader's count, which holds in the middle of a read too -/

/-- The clauses of `Reader.Inv` that no request breaks: what is left of it is the look-ahead. -/
structure ReaderCounted (r : Reader) : Prop where
  counted : r.bytes.length = r.inCount.toNat
  withinPacked : r.inCount.toNat ≤ r.packed.toNat
  endLast : ∀ e, r.endAt = some e → e = r.inCount.toNat ∧ e < r.packed.toNat

/-- The reader holds the 16 bits after BR_POS as far as the packed size and the source go (R156). -/
def ReaderAhead (r : Reader) : Prop :=
  r.endAt = none → min r.packed.toNat ((r.pos.toNat + 16 + 7) / 8) ≤ r.inCount.toNat

theorem readerInv_iff (r : Reader) : r.Inv ↔ ReaderCounted r ∧ (r.valid = true → ReaderAhead r) :=
  ⟨fun ⟨h₁, h₂, h₃, h₄⟩ => ⟨⟨h₁, h₂, h₃⟩, h₄⟩, fun ⟨⟨h₁, h₂, h₃⟩, h₄⟩ => ⟨h₁, h₂, h₃, h₄⟩⟩

/-! ### The moves -/

/-- The parts of the block that a command's body writes. -/
inductive Part where
  | result
  | reader
  | checksums
  | blockSize
  | decodeCount
  | output
  | table (t : Table)
  | arena
  | window
  | opening
  | shut
  deriving DecidableEq

/-- One move of a command's body: the part it writes, and that what it writes keeps the part's invariants. -/
inductive Move : Part → State → State → Prop
  | result (s : State) (v : Word) : Move .result s { s with result := v }
  | reader (s : State) (r : Reader) (src : List Answer) (fl : List PortEvent) (k : Nat)
      (counted : ReaderCounted s.reader → ReaderCounted r) (inv : s.reader.Inv → r.Inv) :
      Move .reader s { s with reader := r, source := src, inFlight := fl, draws := k }
  | checksums (s : State) (a : BitVec 16) (b : BitVec 32) (c : BitVec 8) :
      Move .checksums s { s with crc16 := a, crc32 := b, sum8 := c }
  | blockSize (s : State) (n : BitVec 16) : Move .blockSize s { s with blockSize := n }
  | decodeCount (s : State) (n : Count) : Move .decodeCount s { s with decodeCount := n }
  | output (s : State) (fl : List PortEvent) (room : Option Nat) (n : Count) (a : BitVec 16) (b : BitVec 32)
      (c : BitVec 8) :
      Move .output s { s with inFlight := fl, sinkRoom := room, outCount := n, crc16 := a, crc32 := b, sum8 := c }
  | table (s : State) (t : Table) (h : HuffTable (entryWidth t)) (wf : (s.tab t).wf t = true → h.wf t = true)
      (inv : s.TablesInv → h.Inv t) : Move (.table t) s (s.setTab t h)
  | arena (s : State) (a : Arena) (k : Nat) (wf : s.arena.wf = true → a.wf = true) (inv : s.arena.Inv → a.Inv) :
      Move .arena s { s with arena := a, draws := k }
  | window (s : State) (d : List Host.Cell) (l : BitVec 16) (wf : Memory.wf s.window.dic = true → Memory.wf d = true)
      (inv : s.window.loc.toNat ≤ s.window.mask.toNat → l.toNat ≤ s.window.mask.toNat) :
      Move .window s { s with window := { s.window with dic := d, loc := l } }
  | opening (s : State) (k : BitVec 5) (x : Window) (wf : Memory.wf s.window.dic = true → Memory.wf x.dic = true)
      (inv : State.WindowInv { s with dicbit := k, window := x }) :
      Move .opening s { s with dicbit := k, window := x }
  | shut (s : State) : Move .shut s { s with window := { s.window with valid := false } }

/-- A way from one state to another by moves that write only these parts. -/
abbrev Path (K : List Part) : State → State → Prop := Relation.ReflTransGen fun s t => ∃ p ∈ K, Move p s t

/-- Where a computation stops: at the end of a path, but that a request may have been made without its read having come
to its end. -/
def Halt (K : List Part) (s t : State) : Prop :=
  ∃ u r src fl, Path K s u ∧ (ReaderCounted u.reader → ReaderCounted r) ∧
    t = { u with reader := r, source := src, inFlight := fl }

/-- The computation writes only these parts, by moves. -/
def Does {α : Type} (K : List Part) (m : Eng α) : Prop := Moves (Path K) (Halt K) m

section Calculus

variable {α β : Type} {K : List Part}

theorem Path.refl (s : State) : Path K s s := Relation.ReflTransGen.refl

theorem Path.move {p : Part} {s t : State} (hp : p ∈ K) (h : Move p s t) : Path K s t :=
  Relation.ReflTransGen.single ⟨p, hp, h⟩

theorem Halt.refl (s : State) : Halt K s s := ⟨s, s.reader, s.source, s.inFlight, Path.refl s, id, rfl⟩

theorem Halt.after {s t u : State} (h : Path K s t) : Halt K t u → Halt K s u
  | ⟨v, r, src, fl, hv, hr, hu⟩ => ⟨v, r, src, fl, h.trans hv, hr, hu⟩

theorem does_pure (a : α) : Does K (pure a : Eng α) := moves_pure Path.refl a

theorem does_get : Does K (get : Eng State) := moves_get Path.refl

theorem does_bind {m : Eng α} {f : α → Eng β} (hm : Does K m) (hf : ∀ a, Does K (f a)) : Does K (m >>= f) :=
  moves_bind (fun _ _ _ h k => h.trans k) (fun _ _ _ h k => k.after h) hm hf

theorem does_raiseErr (c : ErrCode) : Does K (raiseErr c : Eng α) := moves_raiseErr Halt.refl c

theorem does_require (p : State → Bool) : Does K (require p) := moves_require Path.refl Halt.refl p

theorem does_raiseIf (b : Bool) (c : ErrCode) : Does K (raiseIf b c) := moves_raiseIf Path.refl Halt.refl b c

theorem does_ite {c : Prop} [Decidable c] {m n : Eng α} (hm : Does K m) (hn : Does K n) :
    Does K (if c then m else n) := moves_ite hm hn

/-- A computation that ends at once, with one move made. -/
theorem does_modify {p : Part} (hp : p ∈ K) {f : State → State} (h : ∀ s, Move p s (f s)) :
    Does K (modify f : Eng Unit) := moves_modify fun s => Path.move hp (h s)

theorem does_setResult (hp : .result ∈ K) (v : Nat) : Does K (setResult v) := does_modify hp fun s => .result s _

/-- `Does` for a computation that is run from one state. -/
def DoesAt (K : List Part) (s : State) (m : Eng α) : Prop :=
  (∀ a t, m s = .ok a t → Path K s t) ∧ (∀ e t, m s = .error e t → Halt K s t)

theorem Does.at {m : Eng α} (h : Does K m) (s : State) : DoesAt K s m := ⟨h.1 s, h.2 s⟩

/-- `get` hands the computation after it the state it runs in. -/
theorem does_get_bind {f : State → Eng β} (h : ∀ s, DoesAt K s (f s)) : Does K ((get : Eng State) >>= f) :=
  moves_get_bind h

theorem doesAt_ok {m : Eng α} {s t : State} {a : α} (h : m s = .ok a t) (hp : Path K s t) : DoesAt K s m := by
  refine ⟨fun b u hu => ?_, fun e u hu => ?_⟩ <;> rw [h] at hu <;> cases hu
  exact hp

theorem doesAt_error {m : Eng α} {s t : State} {e : Stop} (h : m s = .error e t) (hq : Halt K s t) : DoesAt K s m := by
  refine ⟨fun b u hu => ?_, fun e u hu => ?_⟩ <;> rw [h] at hu <;> cases hu
  exact hq

theorem doesAt_ite {c : Prop} [Decidable c] {m n : Eng α} {s : State} (hm : c → DoesAt K s m)
    (hn : ¬c → DoesAt K s n) : DoesAt K s (if c then m else n) := by
  split
  · exact hm ‹_›
  · exact hn ‹_›

theorem doesAt_bind {m : Eng α} {f : α → Eng β} {s : State} (hm : DoesAt K s m) (hf : ∀ a, Does K (f a)) :
    DoesAt K s (m >>= f) := by
  constructor
  · intro b u h
    rw [eng_bind] at h
    split at h
    case h_1 a t ht => exact (hm.1 a t ht).trans ((hf a).1 t b u h)
    case h_2 => cases h
  · intro e u h
    rw [eng_bind] at h
    split at h
    case h_1 a t ht => exact ((hf a).2 t e u h).after (hm.1 a t ht)
    case h_2 ht =>
      cases h
      exact hm.2 _ _ ht

/-- A computation after a step whose end is known. -/
theorem doesAt_bind_ok {m : Eng α} {f : α → Eng β} {s t : State} {a : α} (hm : m s = .ok a t) (hp : Path K s t)
    (hf : DoesAt K t (f a)) : DoesAt K s (m >>= f) := by
  constructor
  · intro b u h
    rw [eng_bind, hm] at h
    exact hp.trans (hf.1 b u h)
  · intro e u h
    rw [eng_bind, hm] at h
    exact (hf.2 e u h).after hp

end Calculus

/-! ### The bit reader -/

/-- `t` is `s` after some requests: only the reader's count, bytes and end, and the port, have moved. -/
structure Asked (s t : State) : Prop where
  frame : t = { s with reader := t.reader, source := t.source, inFlight := t.inFlight }
  reader : t.reader = { s.reader with endAt := t.reader.endAt, inCount := t.reader.inCount, bytes := t.reader.bytes }
  endStays : t.reader.endAt = none → s.reader.endAt = none

theorem Asked.refl (s : State) : Asked s s := ⟨rfl, rfl, id⟩

theorem Asked.trans {s t u : State} (h : Asked s t) (k : Asked t u) : Asked s u := by
  refine ⟨?_, ?_, h.endStays ∘ k.endStays⟩
  · rw [k.frame, h.frame]
  · rw [k.reader, h.reader]

/-- The reader may make `n` more requests: none, or as many as the packed size leaves, with no `End` yet. -/
def MayRequest (n : Nat) (r : Reader) : Prop :=
  ReaderCounted r ∧ (n = 0 ∨ r.endAt = none ∧ r.inCount.toNat + n ≤ r.packed.toNat)

/-- One request, where it is answered. -/
theorem requestByte_ok {s t : State} {a : Unit} (h : requestByte s = .ok a t) :
    Asked s t ∧ ∀ n, MayRequest (n + 1) s.reader →
      if t.reader.endAt.isSome then ReaderCounted t.reader
      else MayRequest n t.reader ∧ t.reader.inCount.toNat = s.reader.inCount.toNat + 1 := by
  rcases requestByte_cases s with ⟨-, hs⟩ | ⟨b, rest, -, hs⟩ | ⟨rest, -, hs⟩ | ⟨rest, -, hs⟩ <;> rw [hs] at h <;> cases h
  · refine ⟨⟨rfl, rfl, id⟩, fun n ⟨⟨hc, hw, hl⟩, hmay⟩ => ?_⟩
    obtain ⟨he, hroom⟩ := hmay.resolve_left (Nat.succ_ne_zero n)
    have hcount : (s.reader.inCount + 1).toNat = s.reader.inCount.toNat + 1 := by
      have := s.reader.packed.isLt
      rw [BitVec.toNat_add]
      exact Nat.mod_eq_of_lt (by simp; omega)
    dsimp only
    rw [if_neg (by simp [he])]
    refine ⟨⟨⟨?_, ?_, ?_⟩, .inr ⟨he, ?_⟩⟩, hcount⟩ <;> dsimp only
    · rw [List.length_append, hcount, hc, List.length_singleton]
    · omega
    · simp [he]
    · omega
  · refine ⟨⟨rfl, rfl, fun h => by cases h⟩, fun n ⟨⟨hc, hw, hl⟩, hmay⟩ => ?_⟩
    obtain ⟨he, hroom⟩ := hmay.resolve_left (Nat.succ_ne_zero n)
    rw [if_pos (by simp)]
    refine ⟨hc, hw, ?_⟩
    rintro e ⟨⟩
    exact ⟨rfl, by dsimp only; omega⟩

/-- A request that stops takes nothing into the reader. -/
theorem requestByte_error {s t : State} {e : Stop} (h : requestByte s = .error e t) :
    Asked s t ∧ t.reader = s.reader := by
  rcases requestByte_cases s with ⟨-, hs⟩ | ⟨b, rest, -, hs⟩ | ⟨rest, -, hs⟩ | ⟨rest, -, hs⟩ <;> rw [hs] at h <;> cases h
  · exact ⟨⟨rfl, rfl, id⟩, rfl⟩
  · exact ⟨⟨rfl, rfl, id⟩, rfl⟩

theorem requestBytes_ok : ∀ (n : Nat) {s t : State} {a : Unit}, requestBytes n s = .ok a t →
    Asked s t ∧ (MayRequest n s.reader → ReaderCounted t.reader ∧
      (t.reader.endAt = none → s.reader.inCount.toNat + n ≤ t.reader.inCount.toNat))
  | 0, s, t, a, h => by
    cases h
    exact ⟨Asked.refl s, fun hn => ⟨hn.1, fun _ => Nat.le_refl _⟩⟩
  | n + 1, s, t, a, h => by
    simp only [requestBytes, eng_bind, eng_get] at h
    split at h
    case h_2 => cases h
    case h_1 _ u hu =>
      obtain ⟨hsu, hmay⟩ := requestByte_ok hu
      split at h
      case isTrue hend =>
        cases h
        refine ⟨hsu, fun hn => ?_⟩
        have hc := hmay n hn
        rw [if_pos hend] at hc
        exact ⟨hc, fun hnone => by simp [hnone] at hend⟩
      case isFalse hend =>
        obtain ⟨hut, hlater⟩ := requestBytes_ok n h
        refine ⟨hsu.trans hut, fun hn => ?_⟩
        have hc := hmay n hn
        rw [if_neg hend] at hc
        obtain ⟨hcounted, hcount⟩ := hlater hc.1
        exact ⟨hcounted, fun hnone => by have := hcount hnone; omega⟩

theorem requestBytes_error : ∀ (n : Nat) {s t : State} {e : Stop}, requestBytes n s = .error e t →
    Asked s t ∧ (MayRequest n s.reader → ReaderCounted t.reader)
  | 0, s, t, e, h => by cases h
  | n + 1, s, t, e, h => by
    simp only [requestBytes, eng_bind, eng_get] at h
    split at h
    case h_2 _ u hu =>
      cases h
      obtain ⟨hst, hr⟩ := requestByte_error hu
      exact ⟨hst, fun hn => hr ▸ hn.1⟩
    case h_1 _ u hu =>
      obtain ⟨hsu, hmay⟩ := requestByte_ok hu
      split at h
      case isTrue hend => cases h
      case isFalse hend =>
        obtain ⟨hut, hlater⟩ := requestBytes_error n h
        refine ⟨hsu.trans hut, fun hn => ?_⟩
        have hc := hmay n hn
        rw [if_neg hend] at hc
        exact hlater hc.1

/-- R156's requests are ones that the reader may make. -/
theorem mayRequest_target {r : Reader} (h : ReaderCounted r) : MayRequest (r.requestTarget - r.requestsMade) r := by
  have hw := h.withinPacked
  refine ⟨h, ?_⟩
  unfold Reader.requestTarget Reader.requestsMade
  cases he : r.endAt with
  | none => exact .inr ⟨rfl, by simp only [Option.isSome_none, Bool.false_eq_true, if_false]; omega⟩
  | some e =>
    have := h.endLast e he
    exact .inl (by simp only [Option.isSome_some, if_true]; omega)

/-- R156's requests, answered, fill the look-ahead. -/
theorem fillLookAhead_ok {s t : State} {a : Unit} (h : fillLookAhead s = .ok a t) :
    Asked s t ∧ (ReaderCounted s.reader → ReaderCounted t.reader ∧ ReaderAhead t.reader) := by
  simp only [fillLookAhead, eng_bind, eng_get] at h
  obtain ⟨hst, hr⟩ := requestBytes_ok _ h
  refine ⟨hst, fun hc => ?_⟩
  obtain ⟨hcounted, hcount⟩ := hr (mayRequest_target hc)
  refine ⟨hcounted, fun hnone => ?_⟩
  have hall := hcount hnone
  have hpos : t.reader.pos = s.reader.pos := by rw [hst.reader]
  have hpacked : t.reader.packed = s.reader.packed := by rw [hst.reader]
  rw [hpos, hpacked]
  simp only [Reader.requestTarget, Reader.requestsMade, hst.endStays hnone, Option.isSome_none, Bool.false_eq_true,
    if_false] at hall
  omega

theorem fillLookAhead_error {s t : State} {e : Stop} (h : fillLookAhead s = .error e t) :
    Asked s t ∧ (ReaderCounted s.reader → ReaderCounted t.reader) := by
  simp only [fillLookAhead, eng_bind, eng_get] at h
  obtain ⟨hst, hr⟩ := requestBytes_error _ h
  exact ⟨hst, fun hc => hr (mayRequest_target hc)⟩

/-- `Consume`, and every other way of moving BR_POS: the position moves, and then R156's requests are made. -/
theorem does_movePos {K : List Part} (hK : .reader ∈ K) (pos : State → Count) (draws : State → Nat) :
    Does K (do
      modify fun s => { s with draws := draws s, reader := { s.reader with pos := pos s } }
      fillLookAhead) := by
  constructor
  · intro s a t h
    obtain ⟨hst, hr⟩ := fillLookAhead_ok h
    rw [hst.frame]
    refine Path.move hK (.reader s t.reader t.source t.inFlight (draws s) (fun hc => (hr ?_).1) fun hi => ?_)
    · exact ⟨hc.counted, hc.withinPacked, hc.endLast⟩
    · obtain ⟨hc, ha⟩ := hr ⟨hi.counted, hi.withinPacked, hi.endLast⟩
      exact (readerInv_iff _).mpr ⟨hc, fun _ => ha⟩
  · intro s e t h
    obtain ⟨hst, hr⟩ := fillLookAhead_error h
    rw [hst.frame]
    refine ⟨{ s with draws := draws s }, t.reader, t.source, t.inFlight, Path.move hK ?_, fun hc => hr ?_, rfl⟩
    · exact .reader s s.reader s.source s.inFlight (draws s) id id
    · exact ⟨hc.counted, hc.withinPacked, hc.endLast⟩

theorem does_consume {K : List Part} (hK : .reader ∈ K) (n : Nat) : Does K (consume n) :=
  does_movePos hK (fun s => s.reader.pos + BitVec.ofNat 64 n) State.draws

theorem does_getWideBits {K : List Part} (hK : .reader ∈ K) (n : Nat) : Does K (getWideBits n) := by
  refine does_bind does_get fun k => ?_
  rw [← bind_assoc]
  exact does_bind (does_movePos hK (fun _ => Config.freeBitPos k.draws) fun s => s.draws + 1) fun _ => does_pure _

theorem does_getBits {K : List Part} (hK : .reader ∈ K) (n : Nat) : Does K (getBits n) :=
  does_ite (does_bind does_get fun _ => does_bind (does_consume hK n) fun _ => does_pure _) (does_getWideBits hK n)

/-- The reader as BR_INIT begins with it counts right, whatever it was. -/
theorem readerCounted_started (p q : Count) (v : Bool) :
    ReaderCounted { pos := p, packed := q, endAt := none, inCount := 0#64, bytes := [], valid := v } :=
  ⟨rfl, Nat.zero_le _, fun _ h => by cases h⟩

/-- BR_INIT (R155): whatever the reader was, it is now one that counts right and looks ahead. -/
theorem does_brInit {K : List Part} (hK : .reader ∈ K) : Does K brInit := by
  constructor
  · intro s a t h
    simp only [brInit, eng_bind, eng_modify] at h
    split at h
    case h_2 => cases h
    case h_1 _ u hu =>
      obtain ⟨hsu, hr⟩ := fillLookAhead_ok hu
      obtain ⟨hcounted, hahead⟩ := hr (readerCounted_started _ _ _)
      cases h
      rw [hsu.frame]
      refine Path.move hK (.reader s { u.reader with valid := true } u.source u.inFlight s.draws (fun _ => ?_) fun _ => ?_)
      · exact ⟨hcounted.counted, hcounted.withinPacked, hcounted.endLast⟩
      · exact (readerInv_iff _).mpr ⟨⟨hcounted.counted, hcounted.withinPacked, hcounted.endLast⟩, fun _ => hahead⟩
  · intro s e t h
    simp only [brInit, eng_bind, eng_modify] at h
    split at h
    case h_1 => cases h
    case h_2 _ _ u hu =>
      obtain ⟨hsu, hr⟩ := fillLookAhead_error hu
      cases h
      rw [hsu.frame]
      exact ⟨s, t.reader, t.source, t.inFlight, Path.refl s, fun _ => hr (readerCounted_started _ _ _), rfl⟩

end Sys2Proof.Proofs
end

section
/-! PROOFS. The units' computations as moves: the tables and their readers, the adaptive decoder, the window. -/

namespace Sys2Proof.Proofs

open Sys2Proof.Machine Sys2Proof.Laws

/-! ### A table's canonical form -/

section TableWf

variable {w : Nat} {t : Table} {h : HuffTable w}

theorem table_wf_iff : h.wf t = true ↔
    cellsWf (lenCount t) 0#5 h.len = true ∧ cellsWf (tableCount t) 0#w h.table = true ∧
      cellsWf (treeCount t) 0#w h.left = true ∧ cellsWf (treeCount t) 0#w h.right = true := by
  simp [HuffTable.wf, and_assoc]

theorem table_wf_setLen (hw : h.wf t = true) (i l : Nat) : (h.setLen t i l).wf t = true := by
  obtain ⟨hlen, hrest⟩ := table_wf_iff.mp hw
  exact table_wf_iff.mpr ⟨cellWrite_wf _ _ hlen, hrest⟩

theorem table_wf_zeroLens (hw : h.wf t = true) (k n : Nat) : (h.zeroLens t k n).wf t = true := by
  obtain ⟨hlen, hrest⟩ := table_wf_iff.mp hw
  exact table_wf_iff.mpr ⟨cellFill_wf _ _ _ hlen, hrest⟩

theorem table_wf_fillTable (hw : h.wf t = true) (k n v : Nat) : (h.fillTable t k n v).wf t = true := by
  obtain ⟨hlen, htable, hrest⟩ := table_wf_iff.mp hw
  exact table_wf_iff.mpr ⟨hlen, cellFill_wf _ _ _ htable, hrest⟩

theorem table_wf_writeRef (hw : h.wf t = true) (r : CellRef) (v : Nat) : (h.writeRef t r v).wf t = true := by
  obtain ⟨hlen, htable, hleft, hright⟩ := table_wf_iff.mp hw
  cases r with
  | entry i => exact table_wf_iff.mpr ⟨hlen, cellWrite_wf _ _ htable, hleft, hright⟩
  | leftOf n => exact table_wf_iff.mpr ⟨hlen, htable, cellWrite_wf _ _ hleft, hright⟩
  | rightOf n => exact table_wf_iff.mpr ⟨hlen, htable, hleft, cellWrite_wf _ _ hright⟩

theorem table_wf_clearLens (hw : h.wf t = true) : { h with len := [] }.wf t = true :=
  table_wf_iff.mpr ⟨rfl, (table_wf_iff.mp hw).2⟩

theorem table_wf_constantTable (hw : h.wf t = true) (c sym : Nat) : (constantTable t c sym h).wf t = true := by
  have hrun := cellRun_wf (d := 0#w) (lo := 0) (n := tableCount t) (BitVec.ofNat w sym)
  rw [Nat.zero_add] at hrun
  exact table_wf_iff.mpr ⟨rfl, hrun, (table_wf_iff.mp hw).2.2⟩

@[simp] theorem writeRef_lenValid (r : CellRef) (v : Nat) : (h.writeRef t r v).lenValid = h.lenValid := by
  cases r <;> rfl

end TableWf

/-! ### Building a table (R194, R195) -/

/-- What R194's loops keep: the RAMs' canonical form and LENV; and the nodes allocated stay below 2·nchar. -/
structure Builds {w : Nat} (t : Table) (nchar : Nat) (b b' : Building w) : Prop where
  wf : b.table.wf t = true → b'.table.wf t = true
  lenValid : b'.table.lenValid = b.table.lenValid
  grows : b.avail ≤ b'.avail
  room : b.avail + 1 ≤ 2 * nchar → b'.avail + 1 ≤ 2 * nchar

section Building

variable {w : Nat} {t : Table} {nchar : Nat}

theorem Builds.refl (b : Building w) : Builds t nchar b b := ⟨id, rfl, le_rfl, id⟩

theorem Builds.trans {a b c : Building w} (h : Builds t nchar a b) (k : Builds t nchar b c) : Builds t nchar a c :=
  ⟨k.wf ∘ h.wf, k.lenValid.trans h.lenValid, h.grows.trans k.grows, k.room ∘ h.room⟩

theorem threadCode_builds {k ch : Nat} : ∀ (n j : Nat) (ref : CellRef) (b : Building w) {b' : Building w},
    threadCode t nchar k ch n j ref b = .ok b' → Builds t nchar b b'
  | 0, _, ref, b, _, h => by
    cases h
    exact ⟨fun hw => table_wf_writeRef hw _ _, writeRef_lenValid _ _, le_rfl, id⟩
  | n + 1, j, ref, b, b', h => by
    unfold threadCode at h
    split at h
    case isTrue => cases h
    case isFalse hroom =>
      refine Builds.trans ?_ (threadCode_builds n _ _ _ h)
      split
      case isTrue hfree =>
        simp only [hfree, decide_true, Bool.true_and, decide_eq_true_eq] at hroom
        refine ⟨fun hw => ?_, by simp, Nat.le_succ _, fun _ => by dsimp only; omega⟩
        exact table_wf_writeRef (table_wf_writeRef (table_wf_writeRef hw _ _) _ _) _ _
      case isFalse => exact Builds.refl b

theorem placeSymbols_builds : ∀ (ls : List Nat) (ch : Nat) (b : Building w) {b' : Building w},
    placeSymbols t nchar ls ch b = .ok b' → Builds t nchar b b'
  | [], _, b, _, h => by
    cases h
    exact Builds.refl b
  | l :: ls, ch, b, b', h => by
    unfold placeSymbols at h
    split at h
    · exact placeSymbols_builds ls _ b h
    · dsimp only at h
      split at h
      · refine Builds.trans ?_ (placeSymbols_builds ls _ _ h)
        exact ⟨fun hw => table_wf_fillTable hw _ _ _, rfl, le_rfl, id⟩
      · split at h
        · cases h
        · rename_i b₁ h₁
          have hcode := threadCode_builds _ _ _ _ h₁
          refine Builds.trans ?_ (placeSymbols_builds ls _ _ h)
          exact ⟨hcode.wf, hcode.lenValid, hcode.grows, hcode.room⟩

end Building

theorem two_mul_lenCount_le (t : Table) : 2 * lenCount t ≤ 2 ^ entryWidth t := by
  cases t <;> decide

/-- What a build that succeeds makes: a canonical table whose alphabet and nodes are in range (R193, R195). -/
theorem buildValid_ok {t : Table} {nchar : Nat} {h h' : HuffTable (entryWidth t)}
    (hb : buildValid t nchar h = .ok h') :
    (h.wf t = true → h'.wf t = true) ∧ (nchar ≤ lenCount t → h.lenValid = true → h'.Inv t) := by
  unfold buildValid buildTable at hb
  dsimp only at hb
  split at hb
  case h_1 => cases hb
  case h_2 _ h₁ hbuilt =>
    cases hb
    split at hbuilt
    · cases hbuilt
    split at hbuilt
    · cases hbuilt
    rename_i hspace
    split at hbuilt
    · cases hbuilt
    rename_i b hplaced
    cases hbuilt
    have hbuilds := placeSymbols_builds _ _ _ hplaced
    have hpos : 1 ≤ nchar := by
      rcases Nat.eq_zero_or_pos nchar with h0 | h0
      · subst h0
        exact absurd (show codeSpace (h.lens 0) ≠ 65536 by simp [HuffTable.lens, codeSpace]) hspace
      · exact h0
    refine ⟨fun hw => hbuilds.wf (table_wf_fillTable hw _ _ _), fun hfits hlen _ => ?_⟩
    have hwidth := two_mul_lenCount_le t
    have hgrows : nchar ≤ b.avail := hbuilds.grows
    have hroom := hbuilds.room (by dsimp only; omega)
    refine ⟨hbuilds.lenValid.trans hlen, ?_⟩
    dsimp only
    rw [BitVec.toNat_ofNat, BitVec.toNat_ofNat, Nat.mod_eq_of_lt (by omega), Nat.mod_eq_of_lt (by omega)]
    exact ⟨hpos, hfits, hgrows, hroom⟩

/-- The constant table's alphabet is in range (R204). -/
theorem constantTable_inv {t : Table} {c sym : Nat} (hsym : sym < c) (hfits : c ≤ lenCount t)
    (h : HuffTable (entryWidth t)) : (constantTable t c sym h).Inv t := by
  intro _
  have hwidth := two_mul_lenCount_le t
  refine ⟨rfl, ?_⟩
  simp only [constantTable]
  rw [BitVec.toNat_ofNat, Nat.mod_eq_of_lt (by omega)]
  omega

/-! ### Moves on a table -/

theorem tablesInv_tab {s : State} (h : s.TablesInv) (t : Table) : (s.tab t).Inv t := by
  obtain ⟨hC, hPt, -⟩ := h
  cases t
  · exact hC
  · exact hPt

/-- A table with TV clear has nothing to keep in range. -/
theorem inv_of_tabValid_false {w : Nat} {t : Table} {h : HuffTable w} (hv : h.tabValid = false) : h.Inv t := by
  intro hv'
  rw [hv] at hv'
  cases hv'

section TableMoves

variable {K : List Part} {t : Table}

/-- A table edited, with its registers and flags as they were. -/
theorem does_editTab (hK : .table t ∈ K) {f : State → HuffTable (entryWidth t)}
    (hw : ∀ s, (s.tab t).wf t = true → (f s).wf t = true) (hi : ∀ s, (s.tab t).Inv t → (f s).Inv t) :
    Does K (modify fun s => s.setTab t (f s)) :=
  does_modify hK fun s => .table s t (f s) (hw s) fun h => hi s (tablesInv_tab h t)

theorem does_setLen (hK : .table t ∈ K) (i l : Nat) : Does K (setLen t i l) :=
  does_editTab hK (fun _ h => table_wf_setLen h i l) fun _ h => h

theorem does_zeroLens (hK : .table t ∈ K) (k n : Nat) : Does K (zeroLens t k n) :=
  does_editTab hK (fun _ h => table_wf_zeroLens h k n) fun _ h => h

theorem does_lenClear (hK : .table t ∈ K) : Does K (lenClear t) :=
  does_editTab hK (fun _ h => table_wf_clearLens h) fun _ _ => inv_of_tabValid_false rfl

/-- A table replaced by what a computation that succeeds makes of it. -/
theorem updateTab_ends (t : Table) (f : HuffTable (entryWidth t) → Except ErrCode (HuffTable (entryWidth t)))
    (s : State) :
    (∃ h, f (s.tab t) = .ok h ∧ updateTab t f s = .ok () (s.setTab t h)) ∨
      ∃ e, updateTab t f s = .error (.raise e) s := by
  unfold updateTab
  cases hf : f (s.tab t) with
  | error e => exact .inr ⟨e, rfl⟩
  | ok h => exact .inl ⟨h, rfl, rfl⟩

end TableMoves

/-! ### Computations that hold only where np is in range

NsBlockHeader reads `np` lengths (R225), so its PT table is in range only where np is. -/

/-- np, where it is in range, bounds `n` by the capacity of table t. -/
def NpBounds (t : Table) (n : Nat) (s : State) : Prop := s.np.toNat ≤ 128 → n ≤ lenCount t

theorem path_np {K : List Part} {s t : State} (h : Path K s t) : t.np = s.np := by
  induction h with
  | refl => rfl
  | tail _ hm ih =>
    obtain ⟨_, _, hm⟩ := hm
    cases hm
    case table => exact (setTab_np _ _ _).trans ih
    all_goals exact ih

/-- From a state in which np bounds `n`, the computation writes only these parts, by moves. -/
def DoesBounded {α : Type} (t : Table) (n : Nat) (K : List Part) (m : Eng α) : Prop :=
  Moves (fun s u => NpBounds t n s → Path K s u) (fun s u => NpBounds t n s → Halt K s u) m

section Bounded

variable {α β : Type} {K : List Part} {t : Table} {n : Nat}

theorem bounded_iff {m : Eng α} : DoesBounded t n K m ↔ ∀ s, NpBounds t n s → DoesAt K s m :=
  ⟨fun h s hn => ⟨fun a u hu => h.1 s a u hu hn, fun e u hu => h.2 s e u hu hn⟩,
    fun h => ⟨fun s a u hu hn => (h s hn).1 a u hu, fun s e u hu hn => (h s hn).2 e u hu⟩⟩

theorem Does.bounded {m : Eng α} (h : Does K m) : DoesBounded t n K m :=
  bounded_iff.mpr fun s _ => h.at s

/-- Where `n` fits the table anyway, np need not bound it. -/
theorem DoesBounded.does {m : Eng α} (h : DoesBounded t n K m) (hn : n ≤ lenCount t) : Does K m :=
  moves_mono (fun _ _ h => h fun _ => hn) (fun _ _ h => h fun _ => hn) h

theorem npBounds_path {s u : State} (h : NpBounds t n s) (hp : Path K s u) : NpBounds t n u := by
  unfold NpBounds
  rwa [path_np hp]

theorem bounded_bind {m : Eng α} {f : α → Eng β} (hm : DoesBounded t n K m) (hf : ∀ a, DoesBounded t n K (f a)) :
    DoesBounded t n K (m >>= f) :=
  moves_bind (fun _ _ _ h k hs => (h hs).trans (k (npBounds_path hs (h hs))))
    (fun _ _ _ h k hs => (k (npBounds_path hs (h hs))).after (h hs)) hm hf

theorem bounded_ite {c : Prop} [Decidable c] {m m' : Eng α} (hm : DoesBounded t n K m) (hm' : DoesBounded t n K m') :
    DoesBounded t n K (if c then m else m') := moves_ite hm hm'

theorem bounded_htFill (hK : .table t ∈ K) (sym : Nat) : DoesBounded t n K (htFill t n sym) := by
  refine bounded_iff.mpr fun s hn => ?_
  rcases updateTab_ends t (fun h => if n ≤ sym then .error .symbolRange else .ok (constantTable t n sym h)) s with
    ⟨h', hf, hu⟩ | ⟨e, hu⟩
  · split at hf <;> cases hf
    rename_i hsym
    refine doesAt_ok hu (Path.move hK (.table s t _ (fun hw => table_wf_constantTable hw _ _) fun hi => ?_))
    exact constantTable_inv (Nat.not_le.mp hsym) (hn hi.2.2) _
  · exact doesAt_error hu (Halt.refl s)

/-- A build from a state whose lengths are defined. -/
theorem doesAt_build (hK : .table t ∈ K) {s : State} (hlen : (s.tab t).lenValid = true) (hn : NpBounds t n s) :
    DoesAt K s (build t n) := by
  rcases updateTab_ends t (buildValid t n) s with ⟨h', hf, hu⟩ | ⟨e, hu⟩
  · obtain ⟨hw, hi⟩ := buildValid_ok hf
    exact doesAt_ok hu (Path.move hK (.table s t h' hw fun hs => hi (hn hs.2.2) hlen))
  · exact doesAt_error hu (Halt.refl s)

/-- LENV set, and then the build: so the built table's lengths are defined. -/
theorem bounded_markBuild (hK : .table t ∈ K) : DoesBounded t n K (do markLens t; build t n) := by
  refine bounded_iff.mpr fun s hn => ?_
  have hmark : Path K s (s.setTab t { s.tab t with lenValid := true }) :=
    Path.move hK (.table s t _ (fun hw => hw) fun hi hv =>
      have ⟨_, hrange⟩ := tablesInv_tab hi t hv
      ⟨rfl, hrange⟩)
  exact doesAt_bind_ok rfl hmark (doesAt_build hK (by simp) (npBounds_path hn hmark))

theorem bounded_closeLens (hK : .table t ∈ K) (i : Nat) : DoesBounded t n K (closeLens t i n) :=
  bounded_bind (does_zeroLens hK _ _).bounded fun _ => bounded_markBuild hK

end Bounded

end Sys2Proof.Proofs
end

section
/-! PROOFS. The decoders, the window and the entry's tokens as moves. -/

namespace Sys2Proof.Proofs

open Sys2Proof.Machine Sys2Proof.Laws

section Readers

variable {K : List Part}

/-! ### The static and new-static readers -/

theorem does_decodeSym (hr : .reader ∈ K) (t : Table) : Does K (decodeSym t) := by
  refine does_bind does_get fun s => ?_
  split
  · exact does_raiseErr _
  · exact does_bind (does_consume hr _) fun _ => does_pure _

theorem does_unaryLen (w : Nat) : ∀ n c : Nat, Does K (unaryLen w n c)
  | 0, c => does_pure c
  | n + 1, c => does_ite (does_ite (does_raiseErr _) (does_unaryLen w n (c + 1))) (does_pure c)

theorem does_readPtLength (hr : .reader ∈ K) : Does K readPtLength := by
  have hlast : ∀ c : Nat, Does K (do consume (if c < 7 then 3 else c - 3); pure c) := fun c =>
    does_bind (does_consume hr _) fun _ => does_pure c
  exact does_bind does_get fun _ => does_ite (does_bind (does_unaryLen _ _ _) hlast) (does_bind (does_pure _) hlast)

theorem does_readPtLengths (hr : .reader ∈ K) (ht : .table .pt ∈ K) (nn n : Nat) (special : Option Nat) :
    ∀ turns i : Nat, Does K (readPtLengths nn n special turns i)
  | 0, i => does_pure i
  | turns + 1, i => does_ite
      (does_bind (does_readPtLength hr) fun _ => does_bind (does_setLen ht _ _) fun _ => does_ite
        (does_bind (does_getBits hr 2) fun _ => does_bind (does_raiseIf _ _) fun _ =>
          does_bind (does_zeroLens ht _ _) fun _ => does_readPtLengths hr ht nn n special turns _)
        (does_readPtLengths hr ht nn n special turns _))
      (does_pure i)

theorem bounded_readPtLen (hr : .reader ∈ K) (ht : .table .pt ∈ K) (nn nbit : Nat) (special : Option Nat) :
    DoesBounded .pt nn K (readPtLen nn nbit special) :=
  bounded_bind (does_getBits hr nbit).bounded fun n => bounded_ite
    (bounded_bind (does_getBits hr nbit).bounded fun c => bounded_htFill ht c)
    (bounded_bind (does_raiseIf _ _).bounded fun _ =>
      bounded_bind (does_readPtLengths hr ht nn n special n 0).bounded fun i => bounded_closeLens ht i)

theorem does_zeroRun (hr : .reader ∈ K) (c : Nat) : Does K (zeroRun c) := by
  unfold zeroRun
  split
  · exact does_pure 1
  · exact does_bind (does_getBits hr 4) fun _ => does_pure _
  · exact does_bind (does_getBits hr 9) fun _ => does_pure _

theorem does_readCLengths (hr : .reader ∈ K) (ht : .table .c ∈ K) (n : Nat) :
    ∀ turns i : Nat, Does K (readCLengths n turns i)
  | 0, i => does_pure i
  | turns + 1, i => does_ite
      (does_bind (does_decodeSym hr .pt) fun _ => does_ite
        (does_bind (does_zeroRun hr _) fun _ => does_bind (does_raiseIf _ _) fun _ =>
          does_bind (does_zeroLens ht _ _) fun _ => does_readCLengths hr ht n turns _)
        (does_bind (does_setLen ht _ _) fun _ => does_readCLengths hr ht n turns _))
      (does_pure i)

theorem does_htFill {t : Table} (ht : .table t ∈ K) {c : Nat} (hc : c ≤ lenCount t) (sym : Nat) :
    Does K (htFill t c sym) := (bounded_htFill ht sym).does hc

theorem does_closeLens {t : Table} (ht : .table t ∈ K) {nchar : Nat} (hn : nchar ≤ lenCount t) (i : Nat) :
    Does K (closeLens t i nchar) := (bounded_closeLens ht i).does hn

theorem does_readCLen (hr : .reader ∈ K) (ht : .table .c ∈ K) : Does K readCLen :=
  does_bind (does_getBits hr 9) fun n => does_ite
    (does_bind (does_getBits hr 9) fun c => does_htFill ht (by decide) c)
    (does_bind (does_raiseIf _ _) fun _ => does_bind (does_readCLengths hr ht n n 0) fun i =>
      does_closeLens ht (by decide) i)

/-- The last part of the header takes its alphabet from np (R225). -/
theorem does_readPtLenNp (hr : .reader ∈ K) (ht : .table .pt ∈ K) :
    Does K (do
      let s ← get
      readPtLen s.np.toNat s.pbit.toNat none) :=
  does_get_bind fun s => bounded_iff.mp (bounded_readPtLen hr ht s.np.toNat s.pbit.toNat none) s id

theorem does_nsBlockHeader (hr : .reader ∈ K) (hb : .blockSize ∈ K) (hc : .table .c ∈ K) (hp : .table .pt ∈ K) :
    Does K nsBlockHeader :=
  does_bind (does_getBits hr 16) fun _ => does_bind (does_modify hb fun s => .blockSize s _) fun _ =>
    does_bind ((bounded_readPtLen hr hp pretreeCap 5 (some 3)).does (by decide)) fun _ =>
      does_bind (does_readCLen hr hc) fun _ => does_readPtLenNp hr hp

/-! ### The lh3 readers -/

theorem does_readTreeLength (hr : .reader ∈ K) : Does K readTreeLength :=
  does_bind (does_getBits hr 1) fun _ => does_ite
    (does_bind (does_getBits hr 4) fun _ => does_pure _) (does_pure 0)

theorem does_readTreeLengths (hr : .reader ∈ K) (ht : .table .c ∈ K) :
    ∀ left i : Nat, Does K (readTreeLengths left i)
  | 0, _ => does_pure false
  | left + 1, i => does_bind (does_readTreeLength hr) fun _ => does_bind (does_setLen ht _ _) fun _ =>
      does_bind does_get fun _ => does_ite
        (does_bind (does_getBits hr 9) fun _ => does_bind (does_htFill ht (by decide) _) fun _ => does_pure true)
        (does_readTreeLengths hr ht left (i + 1))

theorem does_readTreeC (hr : .reader ∈ K) (ht : .table .c ∈ K) : Does K readTreeC :=
  does_bind (does_readTreeLengths hr ht _ _) fun _ => does_ite (does_pure ()) (does_closeLens ht (by decide) _)

theorem readyLengths_keeps {w : Nat} : ∀ (left i j : Nat) (tbl : List Nat) (h : HuffTable w),
    (h.wf .pt = true → (readyLengths left i j tbl h).wf .pt = true) ∧
      (h.Inv .pt → (readyLengths left i j tbl h).Inv .pt)
  | 0, _, _, _, _ => ⟨id, id⟩
  | left + 1, i, j, tbl, h =>
    have ⟨hw, hi⟩ := readyLengths_keeps left (i + 1) (growLength i j tbl).1 (growLength i j tbl).2
      (h.setLen .pt i (growLength i j tbl).1)
    ⟨fun h' => hw (table_wf_setLen h' _ _), fun h' => hi h'⟩

theorem does_readyMade (ht : .table .pt ∈ K) (m : ReadyTable) {np : Nat} (hnp : np ≤ lenCount .pt) :
    Does K (readyMade m np) :=
  does_bind (does_editTab ht (fun _ h => (readyLengths_keeps _ _ _ _ _).1 h)
    fun _ h => (readyLengths_keeps _ _ _ _ _).2 h) fun _ => does_closeLens ht hnp _

theorem does_readPosLengths (hr : .reader ∈ K) (ht : .table .pt ∈ K) :
    ∀ left i : Nat, Does K (readPosLengths left i)
  | 0, _ => does_pure false
  | left + 1, i => does_bind (does_getBits hr 4) fun _ => does_bind (does_setLen ht _ _) fun _ =>
      does_bind does_get fun _ => does_ite
        (does_bind (does_getBits hr 7) fun _ => does_bind (does_htFill ht (by decide) _) fun _ => does_pure true)
        (does_readPosLengths hr ht left (i + 1))

theorem does_readTreeP (hr : .reader ∈ K) (ht : .table .pt ∈ K) : Does K readTreeP :=
  does_bind (does_getBits hr 1) fun _ => does_ite
    (does_bind (does_readPosLengths hr ht _ _) fun _ => does_ite (does_pure ()) (does_closeLens ht (by decide) _))
    (does_readyMade ht _ (by decide))

theorem does_st0BlockHeader (hr : .reader ∈ K) (hb : .blockSize ∈ K) (hc : .table .c ∈ K) (hp : .table .pt ∈ K) :
    Does K st0BlockHeader :=
  does_bind (does_getBits hr 16) fun _ => does_bind (does_modify hb fun s => .blockSize s _) fun _ =>
    does_bind (does_readTreeC hr hc) fun _ => does_readTreeP hr hp

/-! ### Symbols and positions -/

theorem does_openBlock (hb : .blockSize ∈ K) {header : Eng Unit} (hh : Does K header) : Does K (openBlock header) := by
  have hlast : Does K (modify fun s => { s with blockSize := s.blockSize - 1 }) :=
    does_modify hb fun s => .blockSize s _
  exact does_bind (does_require _) fun _ => does_bind does_get fun _ =>
    does_ite (does_bind hh fun _ => hlast) (does_bind (does_require _) fun _ => hlast)

theorem does_nsDecodeC (hr : .reader ∈ K) (hb : .blockSize ∈ K) (hc : .table .c ∈ K) (hp : .table .pt ∈ K) :
    Does K nsDecodeC :=
  does_bind (does_openBlock hb (does_nsBlockHeader hr hb hc hp)) fun _ => does_decodeSym hr .c

theorem does_nsDecodeP (hr : .reader ∈ K) : Does K nsDecodeP :=
  does_bind (does_require _) fun _ => does_bind (does_require _) fun _ => does_bind (does_decodeSym hr .pt) fun _ =>
    does_ite (does_pure _) (does_bind (does_getBits hr _) fun _ => does_pure _)

theorem does_st0DecodeC (hr : .reader ∈ K) (hb : .blockSize ∈ K) (hc : .table .c ∈ K) (hp : .table .pt ∈ K) :
    Does K st0DecodeC :=
  does_bind (does_openBlock hb (does_st0BlockHeader hr hb hc hp)) fun _ => does_bind (does_decodeSym hr .c) fun _ =>
    does_ite (does_bind (does_getBits hr 8) fun _ => does_pure _) (does_pure _)

theorem does_fixDecodeP (hr : .reader ∈ K) : Does K fixDecodeP :=
  does_bind (does_require _) fun _ => does_bind (does_require _) fun _ => does_bind (does_decodeSym hr .pt) fun _ =>
    does_bind (does_getBits hr 6) fun _ => does_pure _

end Readers

/-! ### The adaptive trees in range -/

theorem Rewrites.inv {a b : Arena} (h : Rewrites a b) (hi : a.Inv) : b.Inv := by
  obtain ⟨hC, hP⟩ := hi
  rw [h.regs]
  exact ⟨hC, hP⟩

theorem startCFor_keeps (k : Nat) (a : Arena) :
    (a.wf = true → (startCFor k a).wf = true) ∧ (a.Inv → (startCFor k a).Inv) := by
  unfold startCFor
  split
  · refine ⟨(startC_rewrites 314 60 a).wf, fun hi => (startC_rewrites 314 60 a).inv ⟨fun _ => .inl ?_, hi.positions⟩⟩
    exact ⟨rfl, rfl⟩
  · refine ⟨(startC_rewrites 286 256 a).wf, fun hi => (startC_rewrites 286 256 a).inv ⟨fun _ => .inr ?_, hi.positions⟩⟩
    exact ⟨rfl, rfl⟩

theorem startP_keeps (k : Nat) (a : Arena) :
    (a.wf = true → (startP k a).wf = true) ∧ (a.Inv → (startP k a).Inv) :=
  ⟨(startP_rewrites k a).wf, fun hi => (startP_rewrites k a).inv ⟨hi.alphabet, fun _ => by dsimp only; decide⟩⟩

/-- Where there is room for two nodes, the grown position tree is in range (R277). -/
theorem makeNewNode_keeps {a : Arena} (hroom : a.full = false) (p k : Nat) :
    (a.wf = true → (Arena.makeNewNode p a k).1.wf = true) ∧ (a.Inv → (Arena.makeNewNode p a k).1.Inv) := by
  have h := rewrites_makeNewNode p a k
  have hfull : a.mostP.toNat + 2 < 884 := Nat.not_le.mp (of_decide_eq_false hroom)
  refine ⟨fun hw => h.wf hw, fun hi => h.inv ⟨hi.alphabet, fun hv => ?_⟩⟩
  obtain ⟨hroot, hmost, heven⟩ := hi.positions hv
  dsimp only
  rw [BitVec.toNat_ofNat, Nat.mod_eq_of_lt (by omega)]
  omega

section Adaptive

variable {K : List Part}

theorem does_startArena (ha : .arena ∈ K) {f : Arena → Arena}
    (h : ∀ a, (a.wf = true → (f a).wf = true) ∧ (a.Inv → (f a).Inv)) :
    Does K (modify fun s => { s with arena := f s.arena }) :=
  does_modify ha fun s => .arena s (f s.arena) s.draws (h _).1 (h _).2

theorem does_updateArena (ha : .arena ∈ K) {f : Arena → Nat → Arena × Nat} (h : ∀ a k, Rewrites a (f a k).1) :
    Does K (updateArena f) :=
  does_modify ha fun s => .arena s _ _ (h s.arena s.draws).wf (h s.arena s.draws).inv

/-- The arena grown, after the check that it has room. -/
theorem doesAt_growChecked (ha : .arena ∈ K) (p : Nat) (s : State) :
    DoesAt K s (do raiseIf s.arena.full .indexOverflow; updateArena (Arena.makeNewNode p)) := by
  cases hroom : s.arena.full with
  | true => exact doesAt_error rfl (Halt.refl s)
  | false =>
    obtain ⟨hw, hi⟩ := makeNewNode_keeps hroom p s.draws
    exact doesAt_ok rfl (Path.move ha (.arena s _ _ hw hi))

theorem does_growP (ha : .arena ∈ K) : ∀ turns : Nat, Does K (growP turns)
  | 0 => does_pure ()
  | turns + 1 => by
    refine does_get_bind fun s => doesAt_ite (fun _ => ?_) fun _ => (does_pure ()).at s
    rw [← bind_assoc]
    refine doesAt_bind (doesAt_growChecked ha _ s) fun _ => does_bind ?_ fun _ => does_growP ha turns
    exact does_modify ha fun s => .arena s s.arena.stepNextCount s.draws (fun hw => hw) fun hi =>
      ⟨hi.alphabet, hi.positions⟩

theorem does_walkFrom (hr : .reader ∈ K) : ∀ (turns : Nat) (c : Int), Does K (walkFrom turns c)
  | 0, _ => by
    unfold walkFrom
    rw [← bind_assoc]
    exact does_bind (does_movePos hr (fun s => Config.freeBitPos s.draws) fun s => s.draws + 1) fun _ => does_pure _
  | turns + 1, c => does_ite
      (does_bind (does_getBits hr 1) fun _ => does_bind does_get fun _ => does_walkFrom hr turns _) (does_pure c)

theorem does_drawSymbol (hr : .reader ∈ K) : Does K drawSymbol :=
  does_bind does_get fun _ => does_bind
    (does_modify hr fun s => .reader s s.reader s.source s.inFlight (s.draws + 1) id id) fun _ => does_pure _

theorem does_dynWalk (hr : .reader ∈ K) (root : Nat) : Does K (dynWalk root) :=
  does_bind does_get fun _ => does_bind (does_walkFrom hr _ _) fun _ => does_ite (does_pure _) (does_drawSymbol hr)

theorem does_dynDecodeC (hr : .reader ∈ K) (ha : .arena ∈ K) : Does K dynDecodeC :=
  does_bind (does_require _) fun _ => does_bind (does_require _) fun _ => does_bind (does_dynWalk hr _) fun c =>
    does_bind (does_updateArena ha (rewrites_updateC c)) fun _ => does_bind does_get fun _ =>
      does_ite (does_bind (does_getBits hr 8) fun _ => does_pure _) (does_pure _)

theorem does_dynDecodeP (hr : .reader ∈ K) (ha : .arena ∈ K) : Does K dynDecodeP :=
  does_bind (does_require _) fun _ => does_bind (does_require _) fun _ => does_bind (does_growP ha _) fun _ =>
    does_bind (does_dynWalk hr _) fun sym => does_bind (does_updateArena ha (rewrites_countLeafP sym)) fun _ =>
      does_bind (does_getBits hr 6) fun _ => does_pure _

end Adaptive

/-! ### The window and its output -/

section Output

variable {K : List Part}

theorem does_emit (ho : .output ∈ K) (b : Byte) : Does K (emit b) := by
  constructor
  · intro s a t h
    unfold emit at h
    split at h <;> cases h
    exact Path.move ho (.output s _ _ _ _ _ _)
  · intro s e t h
    unfold emit at h
    split at h <;> cases h
    exact Halt.refl s

theorem does_emitRange (ho : .output ∈ K) : ∀ n i : Nat, Does K (emitRange n i)
  | 0, _ => does_pure ()
  | n + 1, i => does_bind does_get fun _ => does_bind (does_emit ho _) fun _ => does_emitRange ho n (i + 1)

/-- The cursor moves on: by one below WIN_MASK, and at WIN_MASK to 0 after the window is emitted (R302). -/
theorem does_advance (ho : .output ∈ K) (hw : .window ∈ K) :
    Does K (do
      let x := (← get).window
      if x.loc = x.mask then do
        emitRange (x.mask.toNat + 1) 0
        modify fun s => { s with window := { s.window with loc := 0#16 } }
      else
        modify fun s => { s with window := { s.window with loc := s.window.loc + 1 } }) := by
  refine does_get_bind fun s => doesAt_ite (fun _ => ?_) fun hne => ?_
  · have hwrap : Does K (do
        emitRange (s.window.mask.toNat + 1) 0
        modify fun s => { s with window := { s.window with loc := 0#16 } }) :=
      does_bind (does_emitRange ho _ _) fun _ =>
        does_modify hw fun s => .window s s.window.dic 0#16 id fun _ => Nat.zero_le _
    exact hwrap.at s
  · refine doesAt_ok rfl (Path.move hw (.window s s.window.dic (s.window.loc + 1) id fun hle => ?_))
    have hlt : s.window.loc.toNat ≠ s.window.mask.toNat := fun h => hne (BitVec.eq_of_toNat_eq h)
    have hmask := s.window.mask.isLt
    rw [BitVec.toNat_add, Nat.mod_eq_of_lt (by simp; omega)]
    simp
    omega

theorem does_put (ho : .output ∈ K) (hw : .window ∈ K) (b : Byte) : Does K (put b) :=
  does_bind (does_modify hw fun s => .window s _ s.window.loc (cellWrite_wf s.window.loc.toNat b) id) fun _ =>
    does_advance ho hw

theorem does_countDecoded (hd : .decodeCount ∈ K) (n : Nat) : Does K (countDecoded n) :=
  does_modify hd fun s => .decodeCount s _

theorem does_winLiteral (ho : .output ∈ K) (hw : .window ∈ K) (hd : .decodeCount ∈ K) (b : Byte) :
    Does K (winLiteral b) :=
  does_bind (does_require _) fun _ => does_bind (does_put ho hw b) fun _ => does_countDecoded hd 1

theorem does_copyBytes (ho : .output ∈ K) (hw : .window ∈ K) (src : BitVec 16) :
    ∀ n k : Nat, Does K (copyBytes src n k)
  | 0, _ => does_pure ()
  | n + 1, k => does_bind does_get fun _ => does_bind (does_put ho hw _) fun _ => does_copyBytes ho hw src n (k + 1)

theorem does_copyMatch (ho : .output ∈ K) (hw : .window ∈ K) (hd : .decodeCount ∈ K) (len dist : Nat) :
    Does K (copyMatch len dist) :=
  does_bind does_get fun _ => does_bind (does_countDecoded hd len) fun _ => does_copyBytes ho hw _ _ _

theorem does_winFlush (ho : .output ∈ K) (hs : .shut ∈ K) : Does K winFlush :=
  does_bind (does_require _) fun _ => does_bind does_get fun _ => does_bind (does_emitRange ho _ _) fun _ =>
    does_modify hs fun s => .shut s

/-- The opened window's shape (R300, R301). -/
theorem openedWindow_inv {k : Nat} (hpos : 1 ≤ k) (hk : k ≤ 16) (fill : Byte) (x : Window) (s : State) :
    State.WindowInv { s with dicbit := BitVec.ofNat 5 k, window := openedWindow k fill x } := by
  intro _
  dsimp only
  rw [BitVec.toNat_ofNat, Nat.mod_eq_of_lt (by omega)]
  exact ⟨hpos, hk, openedWindow_mask hk fill x, Nat.zero_le _⟩

theorem openedWindow_wf {x : Window} (h : Memory.wf x.dic = true) (k : Nat) (fill : Byte) :
    Memory.wf (openedWindow k fill x).dic = true := cellFill_wf _ _ _ h

theorem does_winInit (ho : .opening ∈ K) {k : Nat} (hpos : 1 ≤ k) (hk : k ≤ 16) : Does K (winInit k) :=
  does_modify ho fun s => .opening s (BitVec.ofNat 5 k) (openedWindow k s.fill s.window)
    (fun h => openedWindow_wf h k s.fill) (openedWindow_inv hpos hk s.fill s.window s)

end Output

end Sys2Proof.Proofs
end

section
/-! PROOFS. A command as its checks and its body, the parts that each body writes, and everything that a command and a
step can answer. -/

namespace Sys2Proof.Proofs

open Sys2Proof.Machine Sys2Proof.Laws

/-! ### Tokens and entries -/

section Tokens

variable {K : List Part}

theorem does_decC (hr : .reader ∈ K) (hb : .blockSize ∈ K) (hc : .table .c ∈ K) (hp : .table .pt ∈ K)
    (ha : .arena ∈ K) : Does K decC := by
  refine does_bind does_get fun s => ?_
  split
  · exact does_dynDecodeC hr ha
  · exact does_dynDecodeC hr ha
  · exact does_st0DecodeC hr hb hc hp
  · exact does_nsDecodeC hr hb hc hp
  · exact does_nsDecodeC hr hb hc hp
  · exact does_nsDecodeC hr hb hc hp
  · exact does_nsDecodeC hr hb hc hp
  · exact does_raiseErr _

theorem does_decP (hr : .reader ∈ K) (ha : .arena ∈ K) : Does K decP := by
  refine does_bind does_get fun s => ?_
  split
  · exact does_fixDecodeP hr
  · exact does_fixDecodeP hr
  · exact does_dynDecodeP hr ha
  · exact does_nsDecodeP hr
  · exact does_nsDecodeP hr
  · exact does_nsDecodeP hr
  · exact does_nsDecodeP hr
  · exact does_raiseErr _

theorem does_blkHdr (hr : .reader ∈ K) (hb : .blockSize ∈ K) (hc : .table .c ∈ K) (hp : .table .pt ∈ K) :
    Does K blkHdr := by
  have hns : Does K (do requireReader; nsBlockHeader) :=
    does_bind (does_require _) fun _ => does_nsBlockHeader hr hb hc hp
  refine does_bind does_get fun s => ?_
  split
  · exact does_bind (does_require _) fun _ => does_st0BlockHeader hr hb hc hp
  · exact hns
  · exact hns
  · exact hns
  · exact hns
  · exact does_raiseErr _

/-- The parts that decoding a symbol writes. -/
def decodeParts : List Part := [.reader, .blockSize, .table .c, .table .pt, .arena]

/-- The parts that a token writes. -/
def tokenParts : List Part :=
  [.reader, .blockSize, .table .c, .table .pt, .arena, .output, .window, .decodeCount, .result]

theorem does_stepToken (h : tokenParts ⊆ K) : Does K stepToken := by
  have hres : ∀ c : Nat, Does K (setResult c) := fun c => does_setResult (h (by decide)) c
  have hmatch : ∀ len dist : Nat, Does K (winMatchDecoded len dist) := fun len dist =>
    does_bind (does_require _) fun _ => does_copyMatch (h (by decide)) (h (by decide)) (h (by decide)) len dist
  have hsym : Does K decC :=
    does_decC (h (by decide)) (h (by decide)) (h (by decide)) (h (by decide)) (h (by decide))
  exact does_bind hsym fun c => does_ite
    (does_bind (does_winLiteral (h (by decide)) (h (by decide)) (h (by decide)) _) fun _ => hres c)
    (does_bind (does_decP (h (by decide)) (h (by decide))) fun _ => does_bind (hmatch _ _) fun _ => hres c)

theorem does_runTokens (h : tokenParts ⊆ K) : ∀ turns : Nat, Does K (runTokens turns)
  | 0 => does_pure ()
  | turns + 1 => does_bind does_get fun _ => does_ite
      (does_bind (does_stepToken h) fun _ => does_runTokens h turns) (does_pure ())

theorem does_copyStored (hr : .reader ∈ K) (ho : .output ∈ K) (hd : .decodeCount ∈ K) :
    ∀ n : Nat, Does K (copyStored n)
  | 0 => does_pure ()
  | n + 1 => does_bind (does_require _) fun _ => does_bind (does_getBits hr 8) fun _ =>
      does_bind (does_emit ho _) fun _ => does_bind (does_countDecoded hd 1) fun _ => does_copyStored hr ho hd n

end Tokens

/-! ### A command as its checks and its body -/

/-- The entry states that allow a command (R333). -/
def allowedIn (i : Instr) : EState → Bool :=
  if always i then inEveryState else if entryOnly i then inActive else notInFailed

/-- Every command is its operand check, its entry-state check and a body, in this order (R404). -/
theorem exec_command (i : Instr) :
    ∃ body, ∀ s, exec i s = command (operandsLegal i) (allowedIn i) body s := by
  cases i with
  | nop => exact ⟨pure (), fun _ => rfl⟩
  | softReset => exact ⟨modify State.softReset, fun _ => rfl⟩
  | _ => exact ⟨_, fun _ => rfl⟩

/-! ### The parts that a command writes -/

/-- The parts of the block that a command's body writes by moves. SOFT_RESET's own update, ENTRY_START's but for the
reader, and the last lines of RUN and FINISH are no moves. -/
def partsOf : Instr → List Part
  | .nop | .softReset => []
  | .entryStart | .brInit | .brSkip _ => [.reader]
  | .run => .shut :: tokenParts
  | .step => tokenParts
  | .finish | .winFlush => [.output, .shut]
  | .decC => .result :: decodeParts
  | .decP => [.result, .reader, .arena]
  | .blkStart => [.reader, .blockSize, .table .c, .table .pt]
  | .brPeek _ | .lenRead _ _ _ | .tblRead _ _ | .treeRead _ _ _ | .dynRead _ _ | .winRead _ => [.result]
  | .brGet _ | .htDecode _ => [.result, .reader]
  | .crc16Byte _ | .crc32Byte _ | .sumByte _ | .ckClear _ => [.checksums]
  | .lenClear t | .lenWrite t _ _ | .htBuild t _ _ | .htFill t _ _ => [.table t]
  | .htReadyMade _ _ => [.table .pt]
  | .nsReadPt _ _ _ | .st0ReadP => [.reader, .table .pt]
  | .nsReadC | .st0ReadC => [.reader, .table .c]
  | .dynStartC _ | .dynStartP _ | .dynUpdateC _ | .dynUpdateP _ | .dynReconst _ | .dynNewNode _ => [.arena]
  | .dynDecodeC | .dynDecodeP => [.result, .reader, .arena]
  | .winInit _ => [.opening]
  | .winLiteral _ | .winMatch _ => [.window, .output, .decodeCount]

/-- The commands whose body is moves alone. -/
def plain : Instr → Bool
  | .softReset | .entryStart | .run | .finish => false
  | _ => true

theorem alphabetLegal_le {t : Table} {c : Nat} (h : alphabetLegal t c = true) : c ≤ lenCount t := by
  simp only [alphabetLegal, Bool.and_eq_true, decide_eq_true_eq] at h
  exact h.2

/-- A requirement, and then a check on the state, before anything is done. -/
theorem does_checked {K : List Part} {p : State → Bool} {bad : State → Bool} {c : ErrCode} {m : State → Eng Unit}
    (hm : ∀ s, Does K (m s)) :
    Does K (do
      require p
      let s ← get
      raiseIf (bad s) c
      m s) :=
  does_bind (does_require p) fun _ => does_bind does_get fun s => does_bind (does_raiseIf _ c) fun _ => hm s

/-- A value read with a requirement before it. -/
theorem does_requireResult {K : List Part} (hr : .result ∈ K) (p : State → Bool) (f : State → Nat) :
    Does K (do require p; setResult (f (← get))) :=
  does_bind (does_require p) fun _ => does_bind does_get fun _ => does_setResult hr _

/-- A build after the check that the lengths are defined (R203). -/
theorem does_htBuild {K : List Part} {t : Table} {c : Nat} (ht : .table t ∈ K) (hc : c ≤ lenCount t) :
    Does K (do requireLens t; build t c) := by
  suffices h : ∀ s, DoesAt K s (do requireLens t; build t c) from
    ⟨fun s a u hu => (h s).1 a u hu, fun s e u hu => (h s).2 e u hu⟩
  intro s
  cases hlen : (s.tab t).lenValid with
  | false => exact doesAt_error (e := .raise .badState) (by simp [requireLens, hlen]) (Halt.refl s)
  | true =>
    exact doesAt_bind_ok (a := ()) (by simp [requireLens, hlen]) (Path.refl s) (doesAt_build ht hlen fun _ => hc)

theorem does_newNode {K : List Part} (ha : .arena ∈ K) (p : Nat) : Does K (do
    let s ← get
    raiseIf (decide (p ≠ s.arena.lastPosition + 1)) .symbolRange
    raiseIf s.arena.full .indexOverflow
    updateArena (Arena.makeNewNode p)) := by
  refine does_get_bind fun s => ?_
  cases hbad : decide (p ≠ s.arena.lastPosition + 1) with
  | true => exact doesAt_error rfl (Halt.refl s)
  | false => exact doesAt_bind_ok rfl (Path.refl s) (doesAt_growChecked ha p s)

/-- A plain command's body writes only the parts that are listed for it. -/
theorem plain_command {i : Instr} (hi : plain i = true) (hl : operandsLegal i = true) :
    ∃ body, (∀ s, exec i s = command (operandsLegal i) (allowedIn i) body s) ∧ Does (partsOf i) body := by
  cases i
  case softReset | entryStart | run | finish => cases hi
  case nop => exact ⟨pure (), fun _ => rfl, does_pure ()⟩
  all_goals refine ⟨_, fun _ => rfl, ?_⟩
  case step => exact does_bind (does_require _) fun _ => does_stepToken (List.Subset.refl _)
  case decC =>
    exact does_bind (does_decC (by decide) (by decide) (by decide) (by decide) (by decide)) fun c =>
      does_setResult (by decide) c
  case decP => exact does_bind (does_decP (by decide) (by decide)) fun p => does_setResult (by decide) p
  case blkStart => exact does_blkHdr (by decide) (by decide) (by decide) (by decide)
  case brInit => exact does_brInit (by decide)
  case brPeek n => exact does_requireResult (by simp [partsOf]) _ _
  case brSkip n => exact does_bind (does_require _) fun _ => does_consume (by simp [partsOf]) _
  case brGet n =>
    exact does_bind (does_require _) fun _ => does_bind (does_getBits (by simp [partsOf]) _) fun v =>
      does_setResult (by simp [partsOf]) v
  case crc16Byte b => exact does_modify (by simp [partsOf]) fun s => .checksums s _ _ _
  case crc32Byte b => exact does_modify (by simp [partsOf]) fun s => .checksums s _ _ _
  case sumByte b => exact does_modify (by simp [partsOf]) fun s => .checksums s _ _ _
  case ckClear m => exact does_modify (by simp [partsOf]) fun s => .checksums s _ _ _
  case lenClear t => exact does_lenClear (by simp [partsOf])
  case lenWrite t j l =>
    exact does_bind (does_require _) fun _ => does_editTab (by simp [partsOf])
      (fun _ h => table_wf_setLen h _ _) fun _ _ => inv_of_tabValid_false rfl
  case lenRead t j l => exact does_requireResult (by simp [partsOf]) _ _
  case htBuild t c x =>
    have hc : alphabetLegal t c.toNat = true := by
      simp only [operandsLegal, Bool.and_eq_true] at hl
      exact hl.1
    exact does_htBuild (by simp [partsOf]) (alphabetLegal_le hc)
  case htFill t c x => exact does_htFill (by simp [partsOf]) (alphabetLegal_le hl) _
  case htDecode t =>
    exact does_bind (does_require _) fun _ => does_bind (does_require _) fun _ =>
      does_bind (does_decodeSym (by simp [partsOf]) t) fun j => does_setResult (by simp [partsOf]) j
  case tblRead t j => exact does_requireResult (by simp [partsOf]) _ _
  case treeRead t d j => exact does_checked fun _ => does_setResult (by simp [partsOf]) _
  case htReadyMade m c => exact does_readyMade (by simp [partsOf]) m (alphabetLegal_le hl)
  case nsReadPt c w x =>
    have hc : alphabetLegal .pt c.toNat = true := by
      simp only [operandsLegal, Bool.and_eq_true] at hl
      exact hl.1.1
    exact does_bind (does_require _) fun _ =>
      (bounded_readPtLen (by simp [partsOf]) (by simp [partsOf]) _ _ _).does (alphabetLegal_le hc)
  case nsReadC =>
    exact does_bind (does_require _) fun _ => does_bind (does_require _) fun _ => does_readCLen (by decide) (by decide)
  case st0ReadC => exact does_bind (does_require _) fun _ => does_readTreeC (by decide) (by decide)
  case st0ReadP => exact does_bind (does_require _) fun _ => does_readTreeP (by decide) (by decide)
  case dynStartC k => exact does_startArena (by simp [partsOf]) (startCFor_keeps _)
  case dynStartP k => exact does_startArena (by simp [partsOf]) (startP_keeps _)
  case dynDecodeC =>
    exact does_bind (does_dynDecodeC (by decide) (by decide)) fun c => does_setResult (by decide) c
  case dynDecodeP =>
    exact does_bind (does_dynDecodeP (by decide) (by decide)) fun p => does_setResult (by decide) p
  case dynUpdateC x => exact does_checked fun _ => does_updateArena (by simp [partsOf]) (rewrites_updateC _)
  case dynUpdateP x => exact does_checked fun _ => does_updateArena (by simp [partsOf]) (rewrites_countLeafP _)
  case dynReconst k =>
    exact does_ite
      (does_bind (does_require _) fun _ => does_updateArena (by simp [partsOf]) rewrites_reconstC)
      (does_checked fun _ => does_updateArena (by simp [partsOf]) rewrites_reconstP)
  case dynNewNode x => exact does_bind (does_require _) fun _ => does_newNode (by simp [partsOf]) _
  case dynRead f j => exact does_checked fun _ => does_setResult (by simp [partsOf]) _
  case winInit k =>
    simp only [operandsLegal, Bool.and_eq_true, decide_eq_true_eq] at hl
    exact does_winInit (by simp [partsOf]) hl.1 hl.2
  case winLiteral b => exact does_winLiteral (by simp [partsOf]) (by simp [partsOf]) (by simp [partsOf]) b
  case winMatch x =>
    exact does_checked fun _ => does_copyMatch (by simp [partsOf]) (by simp [partsOf]) (by simp [partsOf]) _ _
  case winFlush => exact does_winFlush (by decide) (by decide)
  case winRead j => exact does_checked fun _ => does_setResult (by simp [partsOf]) _

end Sys2Proof.Proofs
end

section
/-! PROOFS. Everything that a command and a step can answer, and what follows for the registers and RAMs that a command
does not write. -/

namespace Sys2Proof.Proofs

open Sys2Proof.Machine Sys2Proof.Laws

/-! ### What a command can answer -/

/-- The state in which a command's body begins: no port event of it has happened. -/
def issued (s : State) : State := { s with inFlight := [] }

/-- The last lines of RUN and FINISH (R342, R343). -/
def closed (s : State) : State :=
  { s with overrun := decide (s.origSize < s.decodeCount), done := true, estate := .finished }

/-- The state that ENTRY_START makes of the one in which the reader has been started (R334). -/
def started (m : Nat) (s : State) : State := { methodStarted m s with estate := .active }

/-- A state from which a failing body's moves begin: ENTRY_START first clears the status and latches the entry. -/
inductive Begins (i : Instr) (s : State) : State → Prop
  | issued : Begins i s (issued s)
  | cleared (hi : i = .entryStart) : Begins i s (issued s).clearEntry
  | latched (hi : i = .entryStart) : Begins i s (issued s).clearEntry.latchEntry

/-- Everything that a command can answer. -/
inductive Ends (i : Instr) (s : State) : State → Prop
  | failsDecode : Ends i s (State.failDecode .badOperand (issued s))
  | waits (fl : List PortEvent) : Ends i s { s with inFlight := fl }
  | fails (b u : State) (c : ErrCode) (hb : Begins i s b) (hu : Halt (partsOf i) b u) :
      Ends i s (State.failCommand c u)
  | completes (u : State) (hi : plain i = true) (ha : allowedIn i s.estate = true)
      (hu : Path (partsOf i) (issued s) u) :
      Ends i s u.retire
  | resets (hi : i = .softReset) : Ends i s (issued s).softReset.retire
  | starts (u : State) (hi : i = .entryStart) (hm : s.method.toNat ≤ 8)
      (hu : Path (partsOf i) (issued s).clearEntry.latchEntry u) : Ends i s (started s.method.toNat u).retire
  | closes (u : State) (hi : i = .run ∨ i = .finish) (ha : s.estate = .active) (hu : Path (partsOf i) (issued s) u) :
      Ends i s (closed u).retire

/-- What RUN does before its last lines. -/
def runWork : Eng Unit := do
  let s ← get
  if s.storedEntry then copyStored (s.origSize.toNat - s.decodeCount.toNat)
  else do
    runTokens s.origSize.toNat
    winFlush

/-- What FINISH does before its last lines. -/
def finishWork : Eng Unit := do
  let s ← get
  if s.lzEntry then winFlush else pure ()

theorem runEntry_eq : runEntry = (do runWork; closeEntry) := by
  unfold runEntry runWork
  rw [bind_assoc]
  refine bind_congr fun s => ?_
  split
  · rfl
  · rw [bind_assoc]

theorem finishEntry_eq : finishEntry = (do finishWork; closeEntry) := by
  unfold finishEntry finishWork
  rw [bind_assoc]
  refine bind_congr fun s => ?_
  split <;> rfl

theorem does_runWork : Does (partsOf .run) runWork := by
  have htoken : tokenParts ⊆ partsOf .run := List.subset_cons_self _ _
  exact does_bind does_get fun s => does_ite (does_copyStored (by decide) (by decide) (by decide) _)
    (does_bind (does_runTokens htoken _) fun _ => does_winFlush (by decide) (by decide))

theorem does_finishWork : Does (partsOf .finish) finishWork :=
  does_bind does_get fun _ => does_ite (does_winFlush (by decide) (by decide)) (does_pure ())

/-- RUN and FINISH: their work, and then the last lines. -/
theorem closing_ends {i : Instr} {s t : State} {work : Eng Unit} (hi : i = .run ∨ i = .finish)
    (hwork : Does (partsOf i) work)
    (h : command true inActive (do work; closeEntry) s = .next t) : Ends i s t := by
  rcases command_cases h with ⟨hl, -⟩ | ⟨-, -, rfl⟩ | ⟨-, ha, ⟨u, hu, rfl⟩ | ⟨c, u, hu, rfl⟩ | ⟨u, -, rfl⟩⟩
  · cases hl
  · exact .fails _ _ _ .issued (Halt.refl _)
  · have hactive : s.estate = .active := by
      cases he : s.estate <;> simp_all [inActive]
    rw [eng_bind] at hu
    split at hu
    case h_2 => cases hu
    case h_1 b v hv =>
      cases hu
      exact .closes v hi hactive (hwork.1 _ _ _ hv)
  · rw [eng_bind] at hu
    split at hu
    case h_1 => cases hu
    case h_2 e v hv =>
      cases hu
      exact .fails _ _ _ .issued (hwork.2 _ _ _ hv)
  · exact .waits _

/-- ENTRY_START's body, where it ends. -/
theorem entryStart_ends_ok {s t : State} {a : Unit} (h : entryStart s = .ok a t) :
    s.method.toNat ≤ 8 ∧ ∃ u, Path (partsOf .entryStart) s.clearEntry.latchEntry u ∧ t = started s.method.toNat u := by
  have hmethod : s.clearEntry.method = s.method := rfl
  rcases Nat.lt_or_ge 8 s.method.toNat with hm | hm
  · rw [entryStart_reserved hm] at h
    cases h
  · have hgood : decide (8 < s.method.toNat) = false := decide_eq_false (by omega)
    simp only [entryStart, eng_bind, eng_modify, eng_get, hmethod, hgood, eng_raiseIf_false] at h
    split at h
    case h_2 => cases h
    case h_1 b u hu =>
      rw [startMethod_eq u hm] at h
      cases h
      exact ⟨hm, u, (does_brInit (by decide)).1 _ _ _ hu, rfl⟩

/-- ENTRY_START's body, where it stops. -/
theorem entryStart_ends_error {s t : State} {e : Stop} (h : entryStart s = .error e t) :
    t = s.clearEntry ∨ Halt (partsOf .entryStart) s.clearEntry.latchEntry t := by
  have hmethod : s.clearEntry.method = s.method := rfl
  rcases Nat.lt_or_ge 8 s.method.toNat with hm | hm
  · rw [entryStart_reserved hm] at h
    cases h
    exact .inl rfl
  · have hgood : decide (8 < s.method.toNat) = false := decide_eq_false (by omega)
    simp only [entryStart, eng_bind, eng_modify, eng_get, hmethod, hgood, eng_raiseIf_false] at h
    split at h
    case h_1 b u hu =>
      rw [startMethod_eq u hm] at h
      cases h
    case h_2 e u hu =>
      cases h
      exact .inr ((does_brInit (by decide)).2 _ _ _ hu)

theorem entryStart_ends {s t : State} (h : exec .entryStart s = .next t) : Ends .entryStart s t := by
  have hc : command (operandsLegal .entryStart) inEveryState entryStart s = .next t := h
  rcases command_cases hc with ⟨hl, -⟩ | ⟨-, ha, -⟩ | ⟨-, -, ⟨u, hu, rfl⟩ | ⟨c, u, hu, rfl⟩ | ⟨u, -, rfl⟩⟩
  · cases hl
  · cases ha
  · obtain ⟨hm, v, hv, rfl⟩ := entryStart_ends_ok hu
    exact .starts v rfl hm hv
  · rcases entryStart_ends_error hu with rfl | hq
    · exact .fails _ _ _ (.cleared rfl) (Halt.refl _)
    · exact .fails _ _ _ (.latched rfl) hq
  · exact .waits _

theorem softReset_ends {s t : State} (h : exec .softReset s = .next t) : Ends .softReset s t := by
  cases h
  exact .resets rfl

/-- Everything that a command can answer (R330, R402, R404). -/
theorem exec_ends {i : Instr} {s t : State} (h : exec i s = .next t) : Ends i s t := by
  cases hi : plain i with
  | false =>
    cases i
    case softReset => exact softReset_ends h
    case entryStart => exact entryStart_ends h
    case run =>
      refine closing_ends (.inl rfl) does_runWork ?_
      rw [← runEntry_eq]
      exact h
    case finish =>
      refine closing_ends (.inr rfl) does_finishWork ?_
      rw [← finishEntry_eq]
      exact h
    all_goals cases hi
  | true =>
    obtain ⟨body, hbody⟩ := exec_command i
    have hcommand := h
    rw [hbody] at hcommand
    cases hl : operandsLegal i with
    | false =>
      rw [hl, command_illegal] at hcommand
      cases hcommand
      exact .failsDecode
    | true =>
      obtain ⟨body, hbody, hdoes⟩ := plain_command hi hl
      rw [hbody] at h
      rcases command_cases h with ⟨hl', -⟩ | ⟨-, -, rfl⟩ | ⟨-, ha, ⟨u, hu, rfl⟩ | ⟨c, u, hu, rfl⟩ | ⟨u, -, rfl⟩⟩
      · rw [hl] at hl'
        cases hl'
      · exact .fails _ _ _ .issued (Halt.refl _)
      · exact .completes u hi ha (hdoes.1 _ _ _ hu)
      · exact .fails _ _ _ .issued (hdoes.2 _ _ _ hu)
      · exact .waits _

/-! ### The registers that no move writes -/

theorem sameStatus_refl (s : State) : s.sameStatus s := by simp [State.sameStatus, State.sameHostRegs]

theorem sameStatus_trans {s t u : State} (h : s.sameStatus t) (k : t.sameStatus u) : s.sameStatus u := by
  simp only [State.sameStatus, State.sameHostRegs] at *
  simp only [k, h, and_self]

theorem move_sameStatus {p : Part} {s t : State} (h : Move p s t) : s.sameStatus t := by
  cases h
  case table => simp [State.sameStatus, State.sameHostRegs]
  all_goals exact sameStatus_refl s

theorem path_sameStatus {K : List Part} {s t : State} (h : Path K s t) : s.sameStatus t := by
  induction h with
  | refl => exact sameStatus_refl s
  | tail _ hm ih =>
    obtain ⟨_, _, hm⟩ := hm
    exact sameStatus_trans ih (move_sameStatus hm)

theorem halt_sameStatus {K : List Part} {s t : State} (h : Halt K s t) : s.sameStatus t := by
  obtain ⟨u, r, src, fl, hu, -, rfl⟩ := h
  exact (path_sameStatus hu :)

end Sys2Proof.Proofs
end

section
/-! PROOFS. Invariants of the block: what a step can answer, what an invariant has to survive to be kept by every step, and
the invariants of Safety.lean. -/

namespace Sys2Proof.Proofs

open Sys2Proof.Machine Sys2Proof.Laws

/-! ### What a step can answer -/

/-- The two states agree on all that the invariants speak of. -/
structure SameCore (s t : State) : Prop where
  reader : t.reader = s.reader
  tabC : t.tabC = s.tabC
  tabPt : t.tabPt = s.tabPt
  np : t.np = s.np
  arena : t.arena = s.arena
  window : t.window = s.window
  dicbit : t.dicbit = s.dicbit
  done : t.done = s.done
  err : t.err = s.err
  errcode : t.errcode = s.errcode
  overrun : t.overrun = s.overrun
  estate : t.estate = s.estate

theorem SameCore.of_units {s t : State} (h : t = { s with
    cmd := t.cmd, dropped := t.dropped, ctrl := t.ctrl, packedLo := t.packedLo, packedHi := t.packedHi,
    origLo := t.origLo, origHi := t.origHi, arg := t.arg, crc16 := t.crc16, crc32 := t.crc32, sum8 := t.sum8,
    decodeCount := t.decodeCount, outCount := t.outCount, blockSize := t.blockSize, eMethod := t.eMethod,
    eFill := t.eFill, source := t.source, sinkRoom := t.sinkRoom, trace := t.trace, inFlight := t.inFlight,
    reads := t.reads, schedule := t.schedule }) : SameCore s t := by
  rw [h]
  exact ⟨rfl, rfl, rfl, rfl, rfl, rfl, rfl, rfl, rfl, rfl, rfl, rfl⟩

theorem SameCore.trans {s t u : State} (h : SameCore s t) (k : SameCore t u) : SameCore s u := by
  constructor <;> simp only [k.reader, k.tabC, k.tabPt, k.np, k.arena, k.window, k.dicbit, k.done, k.err, k.errcode,
    k.overrun, k.estate, h.reader, h.tabC, h.tabPt, h.np, h.arena, h.window, h.dicbit, h.done, h.err, h.errcode,
    h.overrun, h.estate]

theorem sameCore_writeReg (s : State) (o : Nat) (v : Word) : SameCore s (s.writeReg o v) := by
  apply SameCore.of_units
  unfold State.writeReg
  split <;> rfl

/-- Everything that the engine's move can answer. -/
theorem engineMove_cases {s t : State} (h : engineMove s = .next t) :
    t = s ∨ (∃ c, t = State.failDecode c (issued s)) ∨ ∃ i, exec i s = .next t := by
  unfold engineMove at h
  split at h
  · cases h
    exact .inl rfl
  · unfold runWord at h
    split at h
    · cases h
      exact .inr (.inl ⟨_, rfl⟩)
    · exact .inr (.inr ⟨_, h⟩)

/-- Everything that a step can answer, as far as the invariants see it. -/
theorem step_cases {s t : State} (h : step s = .next t) :
    SameCore s t ∨ (∃ s', SameCore s s' ∧ ∃ c, t = State.failDecode c s') ∨
      (∃ s', SameCore s s' ∧ ∃ i, exec i s' = .next t) ∨ ∃ s', t = hardReset s' := by
  have hengine : ∀ s', SameCore s s' → engineMove s' = .next t →
      SameCore s t ∨ (∃ s', SameCore s s' ∧ ∃ c, t = State.failDecode c s') ∨
        (∃ s', SameCore s s' ∧ ∃ i, exec i s' = .next t) ∨ ∃ s', t = hardReset s' := by
    intro s' hs h
    rcases engineMove_cases h with rfl | ⟨c, rfl⟩ | ⟨i, hi⟩
    · exact .inl hs
    · exact .inr (.inl ⟨issued s', hs.trans (SameCore.of_units rfl), c, rfl⟩)
    · exact .inr (.inr (.inl ⟨s', hs, i, hi⟩))
  unfold step at h
  split at h
  · exact hengine s (SameCore.of_units rfl) h
  · rename_i e rest _
    have hpop : SameCore s { s with schedule := rest } := SameCore.of_units rfl
    cases e with
    | write size o v =>
      simp only [moveOf, hostWrite] at h
      split at h
      · cases h
      · split at h
        · cases h
          exact .inl (SameCore.of_units rfl)
        · split at h <;> cases h
          · exact .inl (SameCore.of_units rfl)
          · exact .inl (hpop.trans (sameCore_writeReg _ _ _))
    | read size o =>
      simp only [moveOf, hostRead] at h
      split at h <;> cases h
      exact .inl (SameCore.of_units rfl)
    | engine => exact hengine _ hpop h
    | answer a =>
      cases h
      exact .inl (SameCore.of_units rfl)
    | accept more =>
      cases h
      exact .inl (SameCore.of_units rfl)
    | reset =>
      cases h
      exact .inr (.inr (.inr ⟨_, rfl⟩))

/-! ### What an invariant has to survive -/

/-- `P` survives everything that a step is made of. `F` is what is left of it in the middle of a body, and what a failure
finds. -/
structure Kept (P F : State → Prop) : Prop where
  same : ∀ {s t}, SameCore s t → P s → P t
  move : ∀ {p s t}, s.estate ≠ .failed → Move p s t → P s → P t
  weak : ∀ {s}, P s → F s
  cleared : ∀ {s}, P s → F s.clearEntry
  latched : ∀ {s}, P s → F s.clearEntry.latchEntry
  halt : ∀ {K s t}, Halt K s t → F s → F t
  failCommand : ∀ {s} c, F s → P (State.failCommand c s)
  failDecode : ∀ {s} c, P s → P (State.failDecode c s)
  closed : ∀ {s}, s.estate = .active → P s → P (closed s)
  started : ∀ {s m u}, m ≤ 8 → P s → Path [.reader] s.clearEntry.latchEntry u → P (started m u)
  softReset : ∀ {s}, P s → P s.softReset
  hardReset : ∀ s, P (hardReset s)

section Kept

variable {P F : State → Prop} (hk : Kept P F) {s t : State}

include hk

theorem Kept.path {K : List Part} (he : s.estate ≠ .failed) (h : Path K s t) (hp : P s) : P t := by
  induction h with
  | refl => exact hp
  | tail hpath hm ih =>
    obtain ⟨_, _, hm⟩ := hm
    obtain ⟨-, -, -, -, -, hestate, -⟩ := path_sameStatus hpath
    exact hk.move (hestate ▸ he) hm ih

theorem Kept.begins {i : Instr} (h : Begins i s t) (hp : P s) : F t := by
  have hissued : P (issued s) := hk.same (SameCore.of_units rfl) hp
  cases h with
  | issued => exact hk.weak hissued
  | cleared => exact hk.cleared hissued
  | latched => exact hk.latched hissued

theorem Kept.retire (hp : P s) : P s.retire := hk.same (SameCore.of_units rfl) hp

omit hk in
theorem path_nil (h : Path [] s t) : t = s := by
  induction h with
  | refl => rfl
  | tail _ hm _ =>
    obtain ⟨_, hp, _⟩ := hm
    cases hp

omit hk in
/-- Of the commands whose body is moves alone, FAILED allows only NOP (R333), which writes nothing. -/
theorem partsOf_allowedInFailed {i : Instr} (hi : plain i = true) (ha : allowedIn i .failed = true) :
    partsOf i = [] := by
  cases i with
  | nop => rfl
  | softReset | entryStart => cases hi
  | _ => cases ha

/-- Every command keeps the invariant. -/
theorem Kept.exec {i : Instr} (h : Machine.exec i s = .next t) (hp : P s) : P t := by
  have hissued : P (issued s) := hk.same (SameCore.of_units rfl) hp
  rcases exec_ends h with _ | fl | ⟨b, u, c, hb, hu⟩ | ⟨u, hi, ha, hu⟩ | hi | ⟨u, hi, hm, hu⟩ | ⟨u, hi, ha, hu⟩
  · exact hk.failDecode _ hissued
  · exact hk.same (SameCore.of_units rfl) hp
  · exact hk.failCommand c (hk.halt hu (hk.begins hb hp))
  · refine hk.retire ?_
    by_cases he : s.estate = .failed
    · rw [he] at ha
      rw [partsOf_allowedInFailed hi ha] at hu
      exact path_nil hu ▸ hissued
    · exact hk.path (s := issued s) he hu hissued
  · exact hk.retire (hk.softReset hissued)
  · subst hi
    exact hk.retire (hk.started hm hissued hu)
  · obtain ⟨-, -, -, -, -, hestate, -⟩ := path_sameStatus hu
    have hactive : (issued s).estate ≠ .failed := by
      change s.estate ≠ .failed
      rw [ha]
      decide
    exact hk.retire (hk.closed (hestate.trans ha) (hk.path hactive hu hissued))

/-- Every step keeps the invariant. -/
theorem Kept.step (h : Machine.step s = .next t) (hp : P s) : P t := by
  rcases step_cases h with hst | ⟨s', hs, c, rfl⟩ | ⟨s', hs, i, hi⟩ | ⟨s', rfl⟩
  · exact hk.same hst hp
  · exact hk.failDecode c (hk.same hs hp)
  · exact hk.exec hi (hk.same hs hp)
  · exact hk.hardReset s'

end Kept

/-! ### ENTRY_START's reader -/

/-- Moves of the reader alone. -/
theorem path_reader {s t : State} (h : Path [.reader] s t) :
    t = { s with reader := t.reader, source := t.source, inFlight := t.inFlight, draws := t.draws } ∧
      (s.reader.Inv → t.reader.Inv) := by
  induction h with
  | refl => exact ⟨rfl, id⟩
  | tail _ hm ih =>
    obtain ⟨p, hp, hm⟩ := hm
    obtain ⟨heq, hinv⟩ := ih
    cases List.mem_singleton.mp hp
    cases hm
    case reader hi => exact ⟨by rw [heq], hi ∘ hinv⟩

/-! ### The RAMs' canonical form (O57) -/

theorem ramsWf_iff (s : State) : s.ramsWf = true ↔
    s.tabC.wf .c = true ∧ s.tabPt.wf .pt = true ∧ s.arena.wf = true ∧ Memory.wf s.window.dic = true := by
  simp [State.ramsWf, and_assoc]

theorem ramsWf_tab {s : State} (h : s.ramsWf = true) (t : Table) : (s.tab t).wf t = true := by
  obtain ⟨hC, hPt, -, -⟩ := (ramsWf_iff s).mp h
  cases t
  · exact hC
  · exact hPt

theorem ramsWf_setTab {s : State} {t : Table} {h : HuffTable (entryWidth t)} (hs : s.ramsWf = true)
    (hw : h.wf t = true) : (s.setTab t h).ramsWf = true := by
  obtain ⟨hC, hPt, hA, hD⟩ := (ramsWf_iff s).mp hs
  cases t
  · exact (ramsWf_iff _).mpr ⟨hw, hPt, hA, hD⟩
  · exact (ramsWf_iff _).mpr ⟨hC, hw, hA, hD⟩

theorem move_ramsWf {p : Part} {s t : State} (h : Move p s t) (hs : s.ramsWf = true) : t.ramsWf = true := by
  obtain ⟨hC, hPt, hA, hD⟩ := (ramsWf_iff s).mp hs
  cases h with
  | table _ t h wf inv => exact ramsWf_setTab hs (wf (ramsWf_tab hs t))
  | arena _ a k wf inv => exact (ramsWf_iff _).mpr ⟨hC, hPt, wf hA, hD⟩
  | window _ d l wf inv => exact (ramsWf_iff _).mpr ⟨hC, hPt, hA, wf hD⟩
  | opening _ k x wf inv => exact (ramsWf_iff _).mpr ⟨hC, hPt, hA, wf hD⟩
  | _ => exact hs

theorem scramble_table_wf {w : Nat} (t : Table) (k : Nat) (l tb lf rt : RamName) (h : HuffTable w) :
    (h.scramble t k l tb lf rt).wf t = true :=
  table_wf_iff.mpr ⟨cellsOf_wf _, cellsOf_wf _, cellsOf_wf _, cellsOf_wf _⟩

theorem scramble_dic_wf (x : Window) (k : Nat) : Memory.wf (x.scramble k).dic = true := by
  simp only [Memory.wf, Window.scramble, cellsOf_wf]

/-- After a failure every RAM holds free values, in canonical form (R403). -/
theorem failCommand_ramsWf (c : ErrCode) (s : State) : (State.failCommand c s).ramsWf = true := by
  rw [failCommand_eq, ramsWf_iff]
  exact ⟨scramble_table_wf _ _ _ _ _ _ _, scramble_table_wf _ _ _ _ _ _ _, scramble_wf _ _, scramble_dic_wf _ _⟩

theorem readyLens_wf {h : HuffTable 8} (hw : h.wf .pt = true) (m : ReadyTable) (np : Nat) :
    (readyLens m np h).wf .pt = true :=
  table_wf_zeroLens ((readyLengths_keeps _ _ _ _ _).1 hw) _ _

theorem lh1Table_keeps (h : HuffTable 8) :
    (h.wf .pt = true → (lh1Table h).wf .pt = true) ∧ HuffTable.Inv .pt (lh1Table h) := by
  have hlen : (readyLens .lh1 64 h).lenValid = true := rfl
  obtain ⟨hw, hi⟩ := buildValid_ok (t := .pt) (buildValid_lh1 h)
  exact ⟨fun hh => hw (readyLens_wf hh _ _), hi (by decide) hlen⟩

theorem methodWindow_wf {x : Window} (h : Memory.wf x.dic = true) (m : Nat) (fill : Byte) :
    Memory.wf (methodWindow m fill x).dic = true := by
  unfold methodWindow
  split
  · exact h
  · exact openedWindow_wf h _ _

theorem methodArena_keeps (m : Nat) (a : Arena) :
    (a.wf = true → (methodArena m a).wf = true) ∧ (a.Inv → (methodArena m a).Inv) := by
  unfold methodArena
  split
  · exact startCFor_keeps 0 a
  · obtain ⟨hwC, hiC⟩ := startCFor_keeps 1 a
    obtain ⟨hwP, hiP⟩ := startP_keeps 13 (startCFor 1 a)
    exact ⟨hwP ∘ hwC, hiP ∘ hiC⟩
  · exact ⟨id, id⟩

theorem methodTabC_wf {h : HuffTable 10} (hw : h.wf .c = true) (m : Nat) : (methodTabC m h).wf .c = true := by
  unfold methodTabC
  split
  · exact table_wf_clearLens hw
  · exact hw

theorem methodTabPt_wf {h : HuffTable 8} (hw : h.wf .pt = true) (m : Nat) : (methodTabPt m h).wf .pt = true := by
  unfold methodTabPt
  split
  · exact (lh1Table_keeps h).1 hw
  · split
    · exact table_wf_clearLens hw
    · exact hw

theorem kept_ramsWf : Kept (fun s => s.ramsWf = true) fun _ => True where
  same h hs := by
    obtain ⟨hC, hPt, hA, hD⟩ := (ramsWf_iff _).mp hs
    exact (ramsWf_iff _).mpr ⟨h.tabC ▸ hC, h.tabPt ▸ hPt, h.arena ▸ hA, h.window ▸ hD⟩
  move _ h := move_ramsWf h
  weak _ := trivial
  cleared _ := trivial
  latched _ := trivial
  halt _ _ := trivial
  failCommand c _ := failCommand_ramsWf c _
  failDecode _ h := h
  closed _ h := h
  started {s m u} _ hs hu := by
    obtain ⟨hC, hPt, hA, hD⟩ := (ramsWf_iff s).mp hs
    rw [(path_reader hu).1]
    exact (ramsWf_iff _).mpr ⟨methodTabC_wf (h := s.tabC.invalidate) hC m, methodTabPt_wf (h := s.tabPt.invalidate) hPt m,
      (methodArena_keeps m s.arena.invalidate).1 hA, methodWindow_wf (x := { s.window with valid := false }) hD m _⟩
  softReset h := h
  hardReset _ := rfl

/-- Settles O57. Every move of a body keeps the RAMs canonical (`move_ramsWf`), and so does all else that a step is made
of (`kept_ramsWf`). -/
theorem stepKeepsRamsCanonical : Obligations.StepKeepsRamsCanonical := by
  unfold Obligations.StepKeepsRamsCanonical
  exact fun _ _ hs h => kept_ramsWf.step h hs

/-! ### The status bits (O58) -/

/-- What is left of `StatusInv` in the middle of a body, and what a failure needs of it. -/
def StatusWeak (s : State) : Prop := (s.err = true → s.errcode.isSome = true) ∧ (s.overrun = true → s.done = true)

/-- A state that R402 has made FAILED. -/
theorem statusInv_failed {s t : State} (hs : StatusWeak s) (c : ErrCode) (herr : t.err = true)
    (hestate : t.estate = .failed)
    (hcode : t.errcode = if s.err then s.errcode else some c) (hvalid : t.noneValid = true) (hdone : t.done = s.done)
    (hoverrun : t.overrun = s.overrun) : t.StatusInv := by
  obtain ⟨hcoded, hover⟩ := hs
  have hsome : t.errcode.isSome = true := by
    rw [hcode]
    split
    · exact hcoded ‹_›
    · rfl
  exact ⟨by simp [herr, hestate], hsome.trans herr.symm, fun _ => hvalid, fun h => (by rw [hestate] at h; cases h),
    fun _ => .inr hestate, by rwa [hoverrun, hdone]⟩

/-- A state that is not FAILED. -/
theorem statusInv_going {s : State} (herr : s.err = false) (hcode : s.errcode = none) (hne : s.estate ≠ .failed)
    (hfinished : s.estate = .finished ↔ s.done = true) (hover : s.overrun = true → s.done = true) : s.StatusInv :=
  ⟨by simp [herr, hne], by simp [herr, hcode], fun h => absurd h hne, hfinished.mp, fun h => .inl (hfinished.mpr h), hover⟩

theorem kept_statusInv : Kept State.StatusInv StatusWeak where
  same {s t} h hs := by
    obtain ⟨h₁, h₂, h₃, h₄, h₅, h₆⟩ := hs
    have hvalid : t.noneValid = s.noneValid := by
      simp only [State.noneValid, h.reader, h.tabC, h.tabPt, h.arena, h.window]
    constructor <;> simp only [h.err, h.estate, h.errcode, h.done, h.overrun, hvalid] <;> assumption
  move {p s t} he h hs := by
    obtain ⟨h₁, h₂, -, h₄, h₅, h₆⟩ := hs
    obtain ⟨hdone, herr, hcode, hover, -, hestate, -⟩ := move_sameStatus h
    refine ⟨?_, ?_, fun hf => absurd (hestate ▸ hf) he, ?_, ?_, ?_⟩ <;>
      simp only [herr, hestate, hcode, hdone, hover] <;> assumption
  weak h := ⟨fun he => h.errCoded.trans he, h.overrunDone⟩
  cleared _ := ⟨fun h => (by cases h), fun h => by cases h⟩
  latched _ := ⟨fun h => (by cases h), fun h => by cases h⟩
  halt h hs := by
    obtain ⟨hdone, herr, hcode, hover, -⟩ := halt_sameStatus h
    rw [StatusWeak, hdone, herr, hcode, hover]
    exact hs
  failCommand c hs := statusInv_failed hs c rfl rfl rfl (failCommand_noneValid c _) rfl rfl
  failDecode c hs :=
    statusInv_failed ⟨fun he => hs.errCoded.trans he, hs.overrunDone⟩ c rfl rfl rfl (failDecode_noneValid c _) rfl rfl
  closed {s} he hs := by
    have herr : s.err = false := by
      have := hs.errFailed
      simpa [he] using this
    have hcode : s.errcode = none := by
      have := hs.errCoded
      simpa [herr] using this
    exact statusInv_going herr hcode (fun h => by cases h) (by simp [closed]) fun _ => rfl
  started {s m u} _ _ hu := by
    obtain ⟨hdone, herr, hcode, hover, -⟩ := path_sameStatus hu
    refine statusInv_going herr hcode (fun h => by cases h) ?_ ?_
    · exact ⟨fun h => (by cases h), fun h => by cases hdone.symm.trans h⟩
    · exact fun h => by cases hover.symm.trans h
  softReset _ := statusInv_going rfl rfl (fun h => by cases h) ⟨fun h => (by cases h), fun h => by cases h⟩ fun h => by cases h
  hardReset _ := statusInv_going rfl rfl (fun h => by cases h) ⟨fun h => (by cases h), fun h => by cases h⟩ fun h => by cases h

/-- Settles O58. A body's moves write no status bit (`move_sameStatus`); a failure, ENTRY_START, the resets and the last
lines of RUN and FINISH set the bits together. -/
theorem stepKeepsStatusConsistent : Obligations.StepKeepsStatusConsistent := by
  unfold Obligations.StepKeepsStatusConsistent
  exact fun _ _ hs h => kept_statusInv.step h hs

/-! ### The open window (O59) -/

theorem windowInv_shut {s : State} (h : s.window.valid = false) : s.WindowInv := by
  intro hv
  rw [h] at hv
  cases hv

theorem windowInv_congr {s t : State} (hw : t.window = s.window) (hd : t.dicbit = s.dicbit) (hs : s.WindowInv) :
    t.WindowInv := by
  rw [State.WindowInv, hw, hd]
  exact hs

theorem move_windowInv {p : Part} {s t : State} (h : Move p s t) (hs : s.WindowInv) : t.WindowInv := by
  cases h with
  | table _ t h wf inv => cases t <;> exact hs
  | window _ d l wf inv =>
    intro hv
    obtain ⟨hpos, hk, hmask, hloc⟩ := hs hv
    exact ⟨hpos, hk, hmask, inv hloc⟩
  | opening _ k x wf inv => exact inv
  | shut => exact windowInv_shut rfl
  | _ => exact hs

theorem methodDicbit_pos {m : Nat} (hm : m ≤ 8) (h : ¬(m = 0 ∨ m = 8)) : 1 ≤ (methodDicbit m).toNat := by
  interval_cases m <;> simp_all [methodDicbit]

theorem kept_windowInv : Kept State.WindowInv fun _ => True where
  same h := windowInv_congr h.window h.dicbit
  move _ h := move_windowInv h
  weak _ := trivial
  cleared _ := trivial
  latched _ := trivial
  halt _ _ := trivial
  failCommand c _ := windowInv_shut (by simp [failCommand_eq])
  failDecode c _ := windowInv_shut rfl
  closed _ h := h
  started {s m u} hm _ hu := by
    rw [(path_reader hu).1]
    by_cases h : m = 0 ∨ m = 8
    · exact windowInv_shut (congrArg Window.valid (if_pos h))
    · have hinv := openedWindow_inv (methodDicbit_pos hm h) (methodDicbit_le m) s.fill { s.window with valid := false } u
      refine windowInv_congr ?_ ?_ hinv
      · exact methodWindow_opened h _ _
      · simp [started, methodStarted]
  softReset _ := windowInv_shut rfl
  hardReset _ := windowInv_shut rfl

/-! ### The reader (O59) -/

theorem move_reader {p : Part} {s t : State} (h : Move p s t) :
    (s.reader.Inv → t.reader.Inv) ∧ (ReaderCounted s.reader → ReaderCounted t.reader) := by
  cases h with
  | reader _ r src fl k counted inv => exact ⟨inv, counted⟩
  | table _ t h wf inv => cases t <;> exact ⟨id, id⟩
  | _ => exact ⟨id, id⟩

theorem path_readerCounted {K : List Part} {s t : State} (h : Path K s t) (hs : ReaderCounted s.reader) :
    ReaderCounted t.reader := by
  induction h with
  | refl => exact hs
  | tail _ hm ih =>
    obtain ⟨_, _, hm⟩ := hm
    exact (move_reader hm).2 ih

theorem halt_readerCounted {K : List Part} {s t : State} (h : Halt K s t) (hs : ReaderCounted s.reader) :
    ReaderCounted t.reader := by
  obtain ⟨u, r, src, fl, hu, hr, rfl⟩ := h
  exact hr (path_readerCounted hu hs)

/-- A reader that counts right and is not valid, wherever it stands. -/
theorem readerInv_invalid {r : Reader} (h : ReaderCounted r) (pos : Count) :
    Reader.Inv { r with pos := pos, valid := false } :=
  ⟨h.counted, h.withinPacked, h.endLast, fun hv => by cases hv⟩

theorem readerInv_reset : Reader.reset.Inv := ⟨rfl, le_rfl, fun _ h => (by cases h), fun h => by cases h⟩

theorem readerInv_counted {r : Reader} (h : r.Inv) : ReaderCounted r := ((readerInv_iff r).mp h).1

theorem kept_readerInv : Kept (fun s => s.reader.Inv) fun s => ReaderCounted s.reader where
  same h hs := h.reader ▸ hs
  move _ h := (move_reader h).1
  weak := readerInv_counted
  cleared h := readerInv_counted (readerInv_invalid (readerInv_counted h) _)
  latched h := readerInv_counted (readerInv_invalid (readerInv_counted h) _)
  halt := halt_readerCounted
  failCommand _ h := readerInv_invalid h _
  failDecode _ h := readerInv_invalid (readerInv_counted h) _
  closed _ h := h
  started _ hs hu := (path_reader hu).2 (readerInv_invalid (readerInv_counted hs) _)
  softReset _ := readerInv_reset
  hardReset _ := readerInv_reset

/-! ### The tables (O59) -/

theorem move_tablesInv {p : Part} {s t : State} (h : Move p s t) (hs : s.TablesInv) : t.TablesInv := by
  obtain ⟨hC, hPt, hnp⟩ := hs
  cases h with
  | table _ t h wf inv =>
    cases t
    · exact ⟨inv ⟨hC, hPt, hnp⟩, hPt, hnp⟩
    · exact ⟨hC, inv ⟨hC, hPt, hnp⟩, hnp⟩
  | _ => exact ⟨hC, hPt, hnp⟩

theorem halt_np {K : List Part} {s t : State} (h : Halt K s t) : t.np = s.np := by
  obtain ⟨u, r, src, fl, hu, -, rfl⟩ := h
  exact (path_np hu :)

theorem methodNp_le {np : BitVec 8} (h : np.toNat ≤ 128) (m : Nat) : (methodNp m np).toNat ≤ 128 := by
  unfold methodNp
  split
  case h_7 => exact h
  all_goals decide

theorem methodTabPt_inv (m : Nat) (h : HuffTable 8) : HuffTable.Inv .pt (methodTabPt m h.invalidate) := by
  unfold methodTabPt
  split
  · exact (lh1Table_keeps _).2
  · split <;> exact inv_of_tabValid_false rfl

theorem kept_tablesInv : Kept State.TablesInv fun s => s.np.toNat ≤ 128 where
  same h hs := by
    rw [State.TablesInv, h.tabC, h.tabPt, h.np]
    exact hs
  move _ h := move_tablesInv h
  weak h := h.2.2
  cleared h := h.2.2
  latched h := h.2.2
  halt h hs := (halt_np h).symm ▸ hs
  failCommand _ h := ⟨inv_of_tabValid_false rfl, inv_of_tabValid_false rfl, h⟩
  failDecode _ h := ⟨inv_of_tabValid_false rfl, inv_of_tabValid_false rfl, h.2.2⟩
  closed _ h := h
  started {s m u} _ hs hu := by
    rw [(path_reader hu).1]
    exact ⟨inv_of_tabValid_false (methodTabC_tabValid rfl), methodTabPt_inv m s.tabPt, methodNp_le hs.2.2 m⟩
  softReset _ := ⟨inv_of_tabValid_false rfl, inv_of_tabValid_false rfl, Nat.zero_le _⟩
  hardReset _ := ⟨inv_of_tabValid_false rfl, inv_of_tabValid_false rfl, Nat.zero_le _⟩

/-! ### The adaptive trees (O59) -/

theorem arenaInv_invalid {a : Arena} (hC : a.validC = false) (hP : a.validP = false) : a.Inv :=
  ⟨fun h => by (rw [hC] at h; cases h), fun h => by rw [hP] at h; cases h⟩

theorem move_arenaInv {p : Part} {s t : State} (h : Move p s t) (hs : s.arena.Inv) : t.arena.Inv := by
  cases h with
  | arena _ a k wf inv => exact inv hs
  | table _ t h wf inv => cases t <;> exact hs
  | _ => exact hs

theorem kept_arenaInv : Kept (fun s => s.arena.Inv) fun _ => True where
  same h hs := h.arena ▸ hs
  move _ h := move_arenaInv h
  weak _ := trivial
  cleared _ := trivial
  latched _ := trivial
  halt _ _ := trivial
  failCommand _ _ := arenaInv_invalid (by simp [failCommand_eq, Arena.invalidate]) (by simp [failCommand_eq, Arena.invalidate])
  failDecode _ _ := arenaInv_invalid rfl rfl
  closed _ h := h
  started {s m u} _ _ hu := by
    rw [(path_reader hu).1]
    exact (methodArena_keeps m s.arena.invalidate).2 (arenaInv_invalid rfl rfl)
  softReset _ := arenaInv_invalid rfl rfl
  hardReset _ := arenaInv_invalid rfl rfl

/-- Settles O59: each unit's invariant is kept by the moves that write it, and a failure, a reset and ENTRY_START leave
the unit invalid or freshly started. -/
theorem stepKeepsUnitsInRange : Obligations.StepKeepsUnitsInRange := by
  unfold Obligations.StepKeepsUnitsInRange
  exact fun _ _ h => ⟨kept_windowInv.step h, kept_readerInv.step h, kept_tablesInv.step h, kept_arenaInv.step h⟩

end Sys2Proof.Proofs
end

section
/-! PROOFS. The registers and RAMs that a command does not write (O51, O52). -/

namespace Sys2Proof.Proofs

open Sys2Proof.Machine Sys2Proof.Laws

/-! ### The host's registers and what is not the block's (O51) -/

/-- The two states agree on the host's registers, the agents' coming moves and the words read. -/
def SameHost (s t : State) : Prop := s.sameHostRegs t ∧ t.schedule = s.schedule ∧ t.reads = s.reads

theorem sameHost_refl (s : State) : SameHost s s := ⟨⟨rfl, rfl, rfl, rfl, rfl, rfl⟩, rfl, rfl⟩

theorem sameHost_trans {s t u : State} (h : SameHost s t) (k : SameHost t u) : SameHost s u := by
  simp only [SameHost, State.sameHostRegs] at *
  simp only [k, h, and_self]

theorem sameHost_of_sameStatus {s t : State} (h : s.sameStatus t) : SameHost s t := by
  obtain ⟨-, -, -, -, -, -, hhost⟩ := h
  exact hhost

theorem begins_sameHost {i : Instr} {s b : State} (h : Begins i s b) : SameHost s b := by
  cases h <;> exact sameHost_refl s

/-- Whatever a command does, the host's registers and what is not the block's stay (R37, R345 (4), R468). -/
theorem ends_sameHost {i : Instr} {s t : State} (h : Ends i s t) : SameHost s t := by
  rcases h with _ | fl | ⟨b, u, c, hb, hu⟩ | ⟨u, -, -, hu⟩ | - | ⟨u, -, -, hu⟩ | ⟨u, -, -, hu⟩
  · exact sameHost_refl s
  · exact sameHost_refl s
  · exact (sameHost_trans (begins_sameHost hb) (sameHost_of_sameStatus (halt_sameStatus hu)) :)
  · exact (sameHost_of_sameStatus (path_sameStatus hu) :)
  · exact sameHost_refl s
  · exact (sameHost_of_sameStatus (path_sameStatus hu) :)
  · exact (sameHost_of_sameStatus (path_sameStatus hu) :)

/-- A command that does not fail leaves ESTATE, but for those that set it (R345 (4)). -/
theorem ends_estate {i : Instr} {s t : State} (h : Ends i s t) (ht : t.estate ≠ .failed) (hstart : i ≠ .entryStart)
    (hrun : i ≠ .run) (hfinish : i ≠ .finish) (hreset : i ≠ .softReset) : t.estate = s.estate := by
  rcases h with _ | fl | ⟨b, u, c, hb, hu⟩ | ⟨u, -, -, hu⟩ | hi | ⟨u, hi, -, hu⟩ | ⟨u, hi, -, hu⟩
  · exact absurd rfl ht
  · rfl
  · exact absurd rfl ht
  · obtain ⟨-, -, -, -, -, hestate, -⟩ := path_sameStatus hu
    exact hestate
  · exact absurd hi hreset
  · exact absurd hi hstart
  · exact absurd hi (not_or.mpr ⟨hrun, hfinish⟩)

/-- Settles O51, from what a command can answer: no move of a body writes these registers. -/
theorem commandsKeepHostRegisters : Obligations.CommandsKeepHostRegisters := by
  unfold Obligations.CommandsKeepHostRegisters
  intro s t i h
  obtain ⟨hregs, hschedule, hreads⟩ := ends_sameHost (exec_ends h)
  exact ⟨hregs, hschedule, hreads, ends_estate (exec_ends h)⟩

/-! ### The RAMs of the other units (O52) -/

theorem path_dic {K : List Part} {s t : State} (hw : .window ∉ K) (ho : .opening ∉ K) (h : Path K s t) :
    t.window.dic = s.window.dic := by
  induction h with
  | refl => rfl
  | tail _ hm ih =>
    obtain ⟨p, hp, hm⟩ := hm
    cases hm with
    | table _ t => exact (congrArg Window.dic (setTab_window _ t _)).trans ih
    | window => exact absurd hp hw
    | opening => exact absurd hp ho
    | _ => exact ih

theorem path_arena {K : List Part} {s t : State} (ha : .arena ∉ K) (h : Path K s t) : t.arena = s.arena := by
  induction h with
  | refl => rfl
  | tail _ hm ih =>
    obtain ⟨p, hp, hm⟩ := hm
    cases hm with
    | table _ t => exact (setTab_arena _ t _).trans ih
    | arena => exact absurd hp ha
    | _ => exact ih

theorem path_tab {K : List Part} {s t : State} {u : Table} (ht : .table u ∉ K) (h : Path K s t) :
    t.tab u = s.tab u := by
  induction h with
  | refl => rfl
  | tail _ hm ih =>
    obtain ⟨p, hp, hm⟩ := hm
    cases hm with
    | table _ t => exact (tab_setTab_other _ _ fun (h : u = t) => ht (h ▸ hp)).trans ih
    | _ => cases u <;> exact ih

/-- What a command that does not fail keeps: whatever its moves keep and no end of a command writes. -/
theorem exec_keeps {β : Type} (f : State → β) {i : Instr} {s t : State} (h : exec i s = .next t)
    (ht : t.estate ≠ .failed) (hi : i ≠ .entryStart)
    (hpath : ∀ u, Path (partsOf i) (issued s) u → f u = f (issued s))
    (hflight : ∀ u fl, f { u with inFlight := fl } = f u)
    (hretire : ∀ u, f u.retire = f u) (hreset : ∀ u, f u.softReset = f u) (hclosed : ∀ u, f (closed u) = f u) :
    f t = f s := by
  have hissued : f (issued s) = f s := hflight s []
  rcases exec_ends h with _ | fl | ⟨b, u, c, hb, hu⟩ | ⟨u, -, -, hu⟩ | - | ⟨u, hi', -, hu⟩ | ⟨u, -, -, hu⟩
  · exact absurd rfl ht
  · exact hflight s fl
  · exact absurd rfl ht
  · rw [hretire, hpath u hu, hissued]
  · rw [hretire, hreset, hissued]
  · exact absurd hi' hi
  · rw [hretire, hclosed, hpath u hu, hissued]

/-- The commands that write DIC. -/
theorem window_parts {i : Instr} (h : .window ∈ partsOf i ∨ .opening ∈ partsOf i) :
    (∃ b, i = .winLiteral b) ∨ (∃ n, i = .winMatch n) ∨ (∃ k, i = .winInit k) ∨ i = .step ∨ i = .run := by
  cases i <;> simp_all [partsOf, tokenParts, decodeParts]

/-- The commands that write the arena. -/
theorem arena_parts {i : Instr} (h : .arena ∈ partsOf i) :
    (∃ k, i = .dynStartC k) ∨ (∃ k, i = .dynStartP k) ∨ i = .dynDecodeC ∨ i = .dynDecodeP ∨ (∃ x, i = .dynUpdateC x) ∨
      (∃ x, i = .dynUpdateP x) ∨ (∃ k, i = .dynReconst k) ∨ (∃ x, i = .dynNewNode x) ∨ i = .decC ∨ i = .decP ∨
      i = .step ∨ i = .run := by
  cases i <;> simp_all [partsOf, tokenParts, decodeParts]

/-- The commands that write a table. -/
theorem table_parts {i : Instr} {t : Table} (h : .table t ∈ partsOf i) :
    (∃ l, i = .lenClear l) ∨ (∃ l j v, i = .lenWrite l j v) ∨ (∃ l c x, i = .htBuild l c x) ∨
      (∃ l c x, i = .htFill l c x) ∨ (∃ m c, i = .htReadyMade m c) ∨ (∃ c w x, i = .nsReadPt c w x) ∨ i = .nsReadC ∨
      i = .st0ReadC ∨ i = .st0ReadP ∨ i = .decC ∨ i = .blkStart ∨ i = .step ∨ i = .run := by
  cases i <;> simp_all [partsOf, tokenParts, decodeParts]

/-- Settles O52. The parts listed for each command are all that its body writes (`plain_command`), and no end of a command
that does not fail writes a RAM. -/
theorem commandsKeepOtherUnits : Obligations.CommandsKeepOtherUnits := by
  unfold Obligations.CommandsKeepOtherUnits
  intro s t i h ht
  refine ⟨fun hliteral hmatch hinit hstart hstep hrun => ?_,
    fun hstartC hstartP hdecodeC hdecodeP hupdateC hupdateP hreconst hnew hstart hdecC hdecP hstep hrun => ?_,
    fun hclear hwrite hbuild hfill hready hreadPt hreadC htreeC htreeP hstart hdecC hblk hstep hrun => ?_⟩
  · have hno : ¬(.window ∈ partsOf i ∨ .opening ∈ partsOf i) := fun hmem => by
      rcases window_parts hmem with ⟨b, rfl⟩ | ⟨n, rfl⟩ | ⟨k, rfl⟩ | rfl | rfl <;> simp_all
    obtain ⟨hw, ho⟩ := not_or.mp hno
    exact exec_keeps (fun s => s.window.dic) h ht hstart (fun _ hu => path_dic hw ho hu) (fun _ _ => rfl) (fun _ => rfl)
      (fun _ => rfl) fun _ => rfl
  · have ha : .arena ∉ partsOf i := fun hmem => by
      rcases arena_parts hmem with ⟨_, rfl⟩ | ⟨_, rfl⟩ | rfl | rfl | ⟨_, rfl⟩ | ⟨_, rfl⟩ | ⟨_, rfl⟩ | ⟨_, rfl⟩ | rfl |
        rfl | rfl | rfl <;> simp_all
    have hkeep := exec_keeps (fun s => (s.arena.freq, s.arena.child, s.arena.parent, s.arena.sNode)) h ht hstart
      (fun u hu => by rw [path_arena ha hu]) (fun _ _ => rfl) (fun _ => rfl) (fun _ => rfl) fun _ => rfl
    simpa only [Prod.mk.injEq] using hkeep
  · have htab : ∀ u, .table u ∉ partsOf i := fun u hmem => by
      rcases table_parts hmem with ⟨_, rfl⟩ | ⟨_, _, _, rfl⟩ | ⟨_, _, _, rfl⟩ | ⟨_, _, _, rfl⟩ | ⟨_, _, rfl⟩ |
        ⟨_, _, _, rfl⟩ | rfl | rfl | rfl | rfl | rfl | rfl | rfl <;> simp_all
    have hkeep := exec_keeps (fun s => (s.tabC.len, s.tabC.table, s.tabC.left, s.tabC.right, s.tabPt.len, s.tabPt.table,
        s.tabPt.left, s.tabPt.right)) h ht hstart
      (fun u hu => by
        have hC : u.tabC = (issued s).tabC := path_tab (htab .c) hu
        have hPt : u.tabPt = (issued s).tabPt := path_tab (htab .pt) hu
        rw [hC, hPt]) (fun _ _ => rfl) (fun _ => rfl) (fun _ => rfl) fun _ => rfl
    simpa only [Prod.mk.injEq] using hkeep

end Sys2Proof.Proofs
end

section
/-! PROOFS. The register port while the block is idle and while it is busy (O7, O8). -/

namespace Sys2Proof.Proofs

open Sys2Proof.Machine Sys2Proof.Laws

theorem accessLegal_word {o : BitVec 7} (h : o.toNat % 4 = 0) : accessLegal .word o = true := by
  simp [accessLegal, h]

theorem accessLegal_false {size : AccessSize} {o : BitVec 7} (h : size ≠ .word ∨ o.toNat % 4 ≠ 0) :
    accessLegal size o = false := by
  rcases h with h | h <;> simp [accessLegal, h]

/-! ### Register writes (O7) -/

/-- A write to a register other than CMD, while no command runs (R83). -/
theorem step_write {s : State} {o : BitVec 7} {v : Word} {rest : List Event} (hbusy : s.busy = false)
    (hword : o.toNat % 4 = 0) (hcmd : o ≠ 0#7) (hs : s.schedule = .write .word o v :: rest) :
    step s = .next (State.writeReg { s with schedule := rest } o.toNat v) := by
  have hidle : State.busy { s with schedule := rest } = false := hbusy
  simp [step, hs, moveOf, hostWrite, accessLegal_word hword, hidle, hcmd]

/-- A write touches the writable registers alone. -/
theorem writeReg_frame (s : State) (o : Nat) (v : Word) : s.writeReg o v = { s with
    ctrl := (s.writeReg o v).ctrl
    packedLo := (s.writeReg o v).packedLo
    packedHi := (s.writeReg o v).packedHi
    origLo := (s.writeReg o v).origLo
    origHi := (s.writeReg o v).origHi
    arg := (s.writeReg o v).arg
    crc16 := (s.writeReg o v).crc16
    crc32 := (s.writeReg o v).crc32
    sum8 := (s.writeReg o v).sum8 } := by
  unfold State.writeReg
  split <;> rfl

theorem writeReg_dropped (s : State) (o : Nat) (v : Word) : (s.writeReg o v).dropped = s.dropped := by
  unfold State.writeReg
  split <;> rfl

/-- The low bits of a word, zero-extended, are the word under their mask. -/
theorem zeroExtend_low16 (v : Word) : (v.extractLsb' 0 16).zeroExtend 32 = v &&& 0x0000FFFF#32 := by
  apply BitVec.eq_of_toNat_eq
  simp only [BitVec.toNat_setWidth, BitVec.extractLsb'_toNat, BitVec.toNat_and, BitVec.toNat_ofNat]
  exact Nat.mod_eq_of_lt (by omega) |>.trans (Nat.and_two_pow_sub_one_eq_mod _ 16).symm

theorem zeroExtend_low8 (v : Word) : (v.extractLsb' 0 8).zeroExtend 32 = v &&& 0x000000FF#32 := by
  apply BitVec.eq_of_toNat_eq
  simp only [BitVec.toNat_setWidth, BitVec.extractLsb'_toNat, BitVec.toNat_and, BitVec.toNat_ofNat]
  exact Nat.mod_eq_of_lt (by omega) |>.trans (Nat.and_two_pow_sub_one_eq_mod _ 8).symm

/-- The registers after one of them has been written: it reads as the value, and the others as before. -/
theorem readReg_of_written {s t : State} {w : Nat} {x : Word} (hw : t.readReg w = x)
    (hother : ∀ o, o ≠ w → t.readReg o = s.readReg o) (o : Nat) : t.readReg o = if o = w then x else s.readReg o := by
  split
  case isTrue h => rw [h, hw]
  case isFalse h => exact hother o h

/-- What each offset reads after a write (R33). -/
theorem readReg_writeReg (s : State) (w : Nat) (v : Word) (o : Nat) :
    (s.writeReg w v).readReg o = match writableBits w with
      | some m => if o = w then v &&& m else s.readReg o
      | none => s.readReg o := by
  have hall : v &&& 0xFFFFFFFF#32 = v := BitVec.and_allOnes
  unfold State.writeReg writableBits
  split
  case h_10 =>
    split
    · split at * <;> simp_all
    · rfl
  all_goals
    refine readReg_of_written ?_ (fun o ho => ?_) o
    on_goal 2 =>
      unfold State.readReg
      split <;> simp_all [State.status, State.blkEmpty, State.busy]
  case h_1 | h_7 => exact zeroExtend_low16 v
  case h_9 => exact zeroExtend_low8 v
  all_goals exact hall.symm

/-- Settles O7. -/
theorem registerWritesStoreNamedBits : Obligations.RegisterWritesStoreNamedBits := by
  unfold Obligations.RegisterWritesStoreNamedBits
  intro s o v rest hbusy hword hcmd hs
  refine ⟨_, step_write hbusy hword hcmd hs, fun r => ?_, ?_, ?_⟩
  · exact readReg_writeReg { s with schedule := rest } o.toNat v r
  · exact writeReg_frame { s with schedule := rest } o.toNat v
  · exact writeReg_dropped { s with schedule := rest } o.toNat v

/-! ### Register reads (O8) -/

/-- A read (R83, R90). -/
theorem step_read {s : State} {o : BitVec 7} {rest : List Event} (hword : o.toNat % 4 = 0)
    (hs : s.schedule = .read .word o :: rest) :
    step s = .next { s with
      schedule := rest
      reads := (o, if s.busy then s.readBusy o.toNat else s.readReg o.toNat) :: s.reads } := by
  simp only [step, hs, moveOf, hostRead, accessLegal_word hword]
  rfl

/-- The LO and HI halves of a 64-bit register (R36, R40). -/
theorem hi_append_lo (c : Count) : c.extractLsb' 32 32 ++ c.extractLsb' 0 32 = c := by
  apply BitVec.eq_of_getLsbD_eq
  intro k hk
  simp only [BitVec.getLsbD_append, BitVec.getLsbD_extractLsb']
  split
  · simp [*]
  · have hlow : k - 32 < 32 := by omega
    have hback : 32 + (k - 32) = k := by omega
    simp [hlow, hback]

theorem readReg_reserved (s : State) {o : Nat} (h : 0x60 ≤ o) : s.readReg o = 0#32 := by
  unfold State.readReg
  split <;> simp_all

/-- Settles O8. -/
theorem registerAccesses : Obligations.RegisterAccesses := by
  unfold Obligations.RegisterAccesses
  refine ⟨fun s => ?_, fun s o rest hword hs => ?_, fun s size o v rest hbad => ?_⟩
  · exact ⟨rfl, rfl, rfl, rfl, rfl, rfl, rfl, rfl, rfl, rfl, hi_append_lo _, hi_append_lo _, hi_append_lo _,
      hi_append_lo _, rfl, rfl, rfl, rfl, fun o => readReg_reserved s⟩
  · refine ⟨fun hidle => ?_, fun hbusy => ?_⟩
    · rw [step_read hword hs, if_neg (by simp [hidle])]
    · refine ⟨s.readBusy o.toNat, ?_, ?_, ?_⟩
      · rw [step_read hword hs, if_pos hbusy]
      · rintro rfl
        simp [State.readBusy]
      · rintro rfl
        rfl
  · have hno := accessLegal_false hbad
    refine ⟨fun hs => ?_, fun hs => ?_⟩
    · simp [step, hs, moveOf, hostWrite, hno]
    · simp [step, hs, moveOf, hostRead, hno]

end Sys2Proof.Proofs
end

section
/-! PROOFS. Two facts about decoding: a decoded symbol fits RESULT, and decoding a position does not depend on RESULT or
on which of the port events so far have joined the trace. -/

namespace Sys2Proof.Proofs

open Sys2Proof.Machine Sys2Proof.Laws

/-! ### What a decoded symbol can be -/

/-- Every value that the computation gives has the property. -/
def Yields {α : Type} (P : α → Prop) (m : Eng α) : Prop := ∀ s a t, m s = .ok a t → P a

section Yields

variable {α β : Type} {P : β → Prop}

theorem yields_pure {b : β} (h : P b) : Yields P (pure b : Eng β) := by
  rintro s a t ⟨⟩
  exact h

theorem yields_raiseErr (c : ErrCode) : Yields P (raiseErr c : Eng β) := by
  rintro s a t ⟨⟩

theorem yields_bind_of {Q : α → Prop} {m : Eng α} {f : α → Eng β} (hm : Yields Q m) (hf : ∀ a, Q a → Yields P (f a)) :
    Yields P (m >>= f) := by
  intro s b u h
  rw [eng_bind] at h
  split at h
  case h_1 a t ht => exact hf a (hm s a t ht) t b u h
  case h_2 => cases h

theorem yields_bind {m : Eng α} {f : α → Eng β} (hf : ∀ a, Yields P (f a)) : Yields P (m >>= f) :=
  yields_bind_of (Q := fun _ => True) (fun _ _ _ _ => trivial) fun a _ => hf a

theorem yields_ite {c : Prop} [Decidable c] {m n : Eng β} (hm : c → Yields P m) (hn : ¬c → Yields P n) :
    Yields P (if c then m else n) := by
  split
  · exact hm ‹_›
  · exact hn ‹_›

end Yields

theorem getBits_yields (n : Nat) : Yields (· < 2 ^ n) (getBits n) := by
  unfold getBits
  refine yields_ite (fun _ => ?_) fun _ => ?_
  · exact yields_bind fun s => yields_bind fun _ => yields_pure (peek_lt _ n)
  · exact yields_bind fun _ => yields_bind fun _ => yields_bind fun _ => yields_pure (BitVec.isLt _)

theorem walkTree_lt {w : Nat} {h : HuffTable w} {bits : Nat} : ∀ {n j k : Nat}, walkTree h bits n j = .ok k → k < 2 ^ w
  | 0, j, k, hk => by
    unfold walkTree at hk
    split at hk <;> cases hk
    exact (‹j < _› : j < _).trans (BitVec.isLt _)
  | n + 1, j, k, hk => by
    unfold walkTree at hk
    split at hk
    · cases hk
      exact (‹j < _› : j < _).trans (BitVec.isLt _)
    · exact walkTree_lt hk

theorem decodeSym_yields (t : Table) : Yields (· < 2 ^ entryWidth t) (decodeSym t) := by
  refine yields_bind fun s => ?_
  split
  case h_1 => exact yields_raiseErr _
  case h_2 hj => exact yields_bind fun _ => yields_pure (walkTree_lt hj)

theorem getChild_ge (a : Arena) (i : Nat) : -(2 ^ 15) ≤ a.getChild i := BitVec.le_toInt _

/-- A walk ends at a leaf's CHILD, which has 16 bits, or at 0. -/
theorem walkFrom_yields : ∀ (turns : Nat) {c : Int}, -(2 ^ 15) ≤ c → Yields (-(2 ^ 15) ≤ ·) (walkFrom turns c)
  | 0, _, _ => yields_bind fun _ => yields_bind fun _ => yields_pure (by decide)
  | turns + 1, _, hc => yields_ite
      (fun _ => yields_bind fun _ => yields_bind fun s => walkFrom_yields turns (getChild_ge s.arena _))
      fun _ => yields_pure hc

theorem dynWalk_yields (root : Nat) : Yields (· < 2 ^ 15) (dynWalk root) := by
  refine yields_bind fun s => yields_bind_of (walkFrom_yields _ (getChild_ge s.arena root)) fun c hc => ?_
  refine yields_ite (fun hneg => yields_pure ?_) fun _ => ?_
  · unfold leafSymbol
    omega
  · exact yields_bind fun _ => yields_bind fun _ => yields_pure (BitVec.isLt _)

theorem dynDecodeC_yields : Yields (· < 2 ^ 32) dynDecodeC := by
  refine yields_bind fun _ => yields_bind fun _ => yields_bind_of (dynWalk_yields _) fun c hc => ?_
  refine yields_bind fun _ => yields_bind fun _ => yields_ite (fun _ => ?_) fun _ => yields_pure (by omega)
  exact yields_bind_of (getBits_yields 8) fun v hv => yields_pure (by omega)

theorem st0DecodeC_yields : Yields (· < 2 ^ 32) st0DecodeC := by
  refine yields_bind fun _ => yields_bind_of (decodeSym_yields .c) fun j hj => ?_
  have hj10 : j < 2 ^ 10 := hj
  refine yields_ite (fun _ => ?_) fun _ => yields_pure (by omega)
  exact yields_bind_of (getBits_yields 8) fun v hv => yields_pure (by omega)

theorem nsDecodeC_yields : Yields (· < 2 ^ 32) nsDecodeC := by
  refine yields_bind fun _ => fun s j t h => ?_
  have hj10 : j < 2 ^ 10 := decodeSym_yields .c s j t h
  omega

/-- A decoded symbol fits RESULT, whatever the method. -/
theorem decC_yields : Yields (· < 2 ^ 32) decC := by
  refine yields_bind fun s => ?_
  split
  · exact dynDecodeC_yields
  · exact dynDecodeC_yields
  · exact st0DecodeC_yields
  · exact nsDecodeC_yields
  · exact nsDecodeC_yields
  · exact nsDecodeC_yields
  · exact nsDecodeC_yields
  · exact yields_raiseErr _

/-! ### What decoding a position does not see -/

/-- The state with another RESULT and with its port events split otherwise between the trace and the command that is
running. -/
def unseen (s : State) (r : Word) (tr fl : List PortEvent) : State :=
  { s with result := r, trace := tr, inFlight := fl }

/-- The two runs come to the same end, in states that differ only in what is not seen. -/
inductive SameRun {α : Type} : EStateM.Result Stop State α → EStateM.Result Stop State α → Prop
  | ok (a : α) (s : State) (r : Word) (tr fl : List PortEvent) (h : fl ++ tr = s.inFlight ++ s.trace) :
      SameRun (.ok a s) (.ok a (unseen s r tr fl))
  | error (e : Stop) (s : State) (r : Word) (tr fl : List PortEvent) (h : fl ++ tr = s.inFlight ++ s.trace) :
      SameRun (.error e s) (.error e (unseen s r tr fl))

/-- The computation runs the same from states that differ only in what is not seen. -/
def Oblivious {α : Type} (m : Eng α) : Prop :=
  ∀ (s : State) (r : Word) (tr fl : List PortEvent), fl ++ tr = s.inFlight ++ s.trace →
    SameRun (m s) (m (unseen s r tr fl))

section Oblivious

variable {α β : Type}

theorem oblivious_pure (a : α) : Oblivious (pure a : Eng α) := fun s r tr fl h => .ok a s r tr fl h

theorem oblivious_raiseErr (c : ErrCode) : Oblivious (raiseErr c : Eng α) := fun s r tr fl h => .error _ s r tr fl h

theorem oblivious_bind {m : Eng α} {f : α → Eng β} (hm : Oblivious m) (hf : ∀ a, Oblivious (f a)) :
    Oblivious (m >>= f) := by
  intro s r tr fl h
  have hrun := hm s r tr fl h
  rw [eng_bind, eng_bind]
  generalize m s = x, m (unseen s r tr fl) = y at hrun
  cases hrun with
  | ok a u r' tr' fl' h' => exact hf a u r' tr' fl' h'
  | error e u r' tr' fl' h' => exact .error e u r' tr' fl' h'

/-- What is read from the state is not what is not seen. -/
theorem oblivious_get_bind {f : State → Eng β} (hf : ∀ s, Oblivious (f s))
    (hsame : ∀ s r tr fl, f (unseen s r tr fl) = f s) : Oblivious ((get : Eng State) >>= f) := by
  intro s r tr fl h
  have hrun := hf s s r tr fl h
  rw [← hsame s r tr fl] at hrun
  rw [eng_bind, eng_bind, eng_get, eng_get]
  simpa only [hsame] using hrun

theorem oblivious_ite {c : Prop} [Decidable c] {m n : Eng α} (hm : Oblivious m) (hn : Oblivious n) :
    Oblivious (if c then m else n) := by
  split
  · exact hm
  · exact hn

theorem oblivious_modify {f : State → State} (hflight : ∀ s, (f s).inFlight = s.inFlight)
    (htrace : ∀ s, (f s).trace = s.trace)
    (hsame : ∀ s r tr fl, f (unseen s r tr fl) = unseen (f s) r tr fl) : Oblivious (modify f : Eng Unit) := by
  intro s r tr fl h
  rw [eng_modify, eng_modify, hsame]
  exact .ok () (f s) r tr fl (by rw [h, hflight, htrace])

theorem oblivious_require {p : State → Bool} (hsame : ∀ s r tr fl, p (unseen s r tr fl) = p s) :
    Oblivious (require p) := by
  intro s r tr fl h
  rw [eng_require, eng_require, hsame]
  split
  · exact .ok () s r tr fl h
  · exact .error _ s r tr fl h

theorem oblivious_raiseIf (b : Bool) (c : ErrCode) : Oblivious (raiseIf b c) :=
  oblivious_ite (oblivious_raiseErr c) (oblivious_pure ())

end Oblivious

theorem oblivious_requestByte : Oblivious requestByte := by
  intro s r tr fl h
  have hreq : ∀ e : PortEvent, (e :: fl) ++ tr = (e :: s.inFlight) ++ s.trace := fun e => congrArg (e :: ·) h
  unfold requestByte
  have hsource : (unseen s r tr fl).source = s.source := rfl
  rw [hsource]
  split
  · exact .error _ _ r tr _ (hreq _)
  · exact .ok _ _ r tr _ (hreq _)
  · exact .ok _ _ r tr _ (hreq _)
  · exact .error _ _ r tr _ (hreq _)

theorem oblivious_requestBytes : ∀ n : Nat, Oblivious (requestBytes n)
  | 0 => oblivious_pure ()
  | n + 1 => oblivious_bind oblivious_requestByte fun _ => oblivious_get_bind
      (fun _ => oblivious_ite (oblivious_pure ()) (oblivious_requestBytes n)) fun _ _ _ _ => rfl

theorem oblivious_fillLookAhead : Oblivious fillLookAhead :=
  oblivious_get_bind (fun _ => oblivious_requestBytes _) fun _ _ _ _ => rfl

theorem oblivious_consume (n : Nat) : Oblivious (consume n) :=
  oblivious_bind (oblivious_modify (fun _ => rfl) (fun _ => rfl) fun _ _ _ _ => rfl) fun _ => oblivious_fillLookAhead

theorem oblivious_getBits (n : Nat) : Oblivious (getBits n) := by
  unfold getBits
  refine oblivious_ite ?_ ?_
  · exact oblivious_get_bind (fun _ => oblivious_bind (oblivious_consume n) fun _ => oblivious_pure _)
      fun _ _ _ _ => rfl
  · exact oblivious_get_bind (fun _ => oblivious_bind
      (oblivious_modify (fun _ => rfl) (fun _ => rfl) fun _ _ _ _ => rfl) fun _ =>
        oblivious_bind oblivious_fillLookAhead fun _ => oblivious_pure _) fun _ _ _ _ => rfl

theorem oblivious_decodeSym (t : Table) : Oblivious (decodeSym t) := by
  refine oblivious_get_bind (fun s => ?_) fun s _ _ _ => by cases t <;> rfl
  split
  · exact oblivious_raiseErr _
  · exact oblivious_bind (oblivious_consume _) fun _ => oblivious_pure _

theorem oblivious_walkFrom : ∀ (turns : Nat) (c : Int), Oblivious (walkFrom turns c)
  | 0, _ => oblivious_bind (oblivious_modify (fun _ => rfl) (fun _ => rfl) fun _ _ _ _ => rfl) fun _ =>
      oblivious_bind oblivious_fillLookAhead fun _ => oblivious_pure _
  | turns + 1, _ => oblivious_ite
      (oblivious_bind (oblivious_getBits 1) fun _ =>
        oblivious_get_bind (fun _ => oblivious_walkFrom turns _) fun _ _ _ _ => rfl)
      (oblivious_pure _)

theorem oblivious_drawSymbol : Oblivious drawSymbol :=
  oblivious_get_bind (fun _ => oblivious_bind (oblivious_modify (fun _ => rfl) (fun _ => rfl) fun _ _ _ _ => rfl)
    fun _ => oblivious_pure _) fun _ _ _ _ => rfl

theorem oblivious_dynWalk (root : Nat) : Oblivious (dynWalk root) :=
  oblivious_get_bind (fun _ => oblivious_bind (oblivious_walkFrom _ _) fun _ =>
    oblivious_ite (oblivious_pure _) oblivious_drawSymbol) fun _ _ _ _ => rfl

theorem oblivious_updateArena (f : Arena → Nat → Arena × Nat) : Oblivious (updateArena f) :=
  oblivious_modify (fun _ => rfl) (fun _ => rfl) fun _ _ _ _ => rfl

theorem oblivious_growP : ∀ turns : Nat, Oblivious (growP turns)
  | 0 => oblivious_pure ()
  | turns + 1 => oblivious_get_bind (fun _ => oblivious_ite
      (oblivious_bind (oblivious_raiseIf _ _) fun _ => oblivious_bind (oblivious_updateArena _) fun _ =>
        oblivious_bind (oblivious_modify (fun _ => rfl) (fun _ => rfl) fun _ _ _ _ => rfl) fun _ =>
          oblivious_growP turns)
      (oblivious_pure ())) fun _ _ _ _ => rfl

theorem oblivious_requireReader : Oblivious requireReader := oblivious_require fun _ _ _ _ => rfl

theorem oblivious_requireTablePt : Oblivious (requireTable .pt) := oblivious_require fun _ _ _ _ => rfl

theorem oblivious_fixDecodeP : Oblivious fixDecodeP :=
  oblivious_bind oblivious_requireReader fun _ => oblivious_bind oblivious_requireTablePt fun _ =>
    oblivious_bind (oblivious_decodeSym .pt) fun _ => oblivious_bind (oblivious_getBits 6) fun _ => oblivious_pure _

theorem oblivious_nsDecodeP : Oblivious nsDecodeP :=
  oblivious_bind oblivious_requireReader fun _ => oblivious_bind oblivious_requireTablePt fun _ =>
    oblivious_bind (oblivious_decodeSym .pt) fun _ => oblivious_ite (oblivious_pure _)
      (oblivious_bind (oblivious_getBits _) fun _ => oblivious_pure _)

theorem oblivious_dynDecodeP : Oblivious dynDecodeP :=
  oblivious_bind oblivious_requireReader fun _ => oblivious_bind (oblivious_require fun _ _ _ _ => rfl) fun _ =>
    oblivious_bind (oblivious_growP _) fun _ => oblivious_bind (oblivious_dynWalk _) fun _ =>
      oblivious_bind (oblivious_updateArena _) fun _ => oblivious_bind (oblivious_getBits 6) fun _ => oblivious_pure _

theorem oblivious_decP : Oblivious decP := by
  refine oblivious_get_bind (fun s => ?_) fun _ _ _ _ => rfl
  split
  · exact oblivious_fixDecodeP
  · exact oblivious_fixDecodeP
  · exact oblivious_dynDecodeP
  · exact oblivious_nsDecodeP
  · exact oblivious_nsDecodeP
  · exact oblivious_nsDecodeP
  · exact oblivious_nsDecodeP
  · exact oblivious_raiseErr _

end Sys2Proof.Proofs
end

section
/-! PROOFS. The commands that an entry state or a valid flag does not allow (O11). -/

namespace Sys2Proof.Proofs

open Sys2Proof.Machine Sys2Proof.Laws

/-! ### Computations that are refused before they change anything -/

/-- From this state the computation fails with BAD_STATE, and has changed nothing. -/
def Refuses {α : Type} (m : Eng α) (s : State) : Prop := m s = .error (.raise .badState) s

section Refuses

variable {α β : Type} {s : State}

theorem refuses_raise : Refuses (raiseErr .badState : Eng α) s := rfl

theorem refuses_require {p : State → Bool} (h : p s = false) : Refuses (require p) s := eng_require_false h

theorem refuses_bind {m : Eng α} {f : α → Eng β} (h : Refuses m s) : Refuses (m >>= f) s := by
  unfold Refuses at *
  rw [eng_bind, h]

theorem refuses_of_ok {m : Eng α} {f : α → Eng β} {a : α} (hm : m s = .ok a s) (h : Refuses (f a) s) :
    Refuses (m >>= f) s := by
  unfold Refuses at *
  rw [eng_bind, hm]
  exact h

theorem refuses_get_bind {f : State → Eng β} (h : Refuses (f s) s) : Refuses ((get : Eng State) >>= f) s :=
  refuses_of_ok (eng_get s) h

/-- One requirement: a required flag is 0. -/
theorem refuses_first {p : State → Bool} {f : Unit → Eng β} (h : p s = false) : Refuses (require p >>= f) s :=
  refuses_bind (refuses_require h)

/-- A requirement before a computation that is refused. -/
theorem refuses_after {p : State → Bool} {f : Unit → Eng β} (h : Refuses (f ()) s) : Refuses (require p >>= f) s := by
  cases hp : p s with
  | false => exact refuses_first hp
  | true => exact refuses_of_ok (eng_require_true hp) h

/-- Two requirements: one of the flags is 0. -/
theorem refuses_either {p q : State → Bool} {f : Unit → Eng β} (h : p s = false ∨ q s = false) :
    Refuses (require p >>= fun _ => require q >>= f) s := by
  rcases h with hp | hq
  · exact refuses_first hp
  · exact refuses_after (refuses_first hq)

theorem refuses_ite {c : Prop} [Decidable c] {m n : Eng α} (hm : c → Refuses m s) (hn : ¬c → Refuses n s) :
    Refuses (if c then m else n) s := by
  split
  · exact hm ‹_›
  · exact hn ‹_›

end Refuses

/-- A command whose body is refused, whether its entry state allows it or not. -/
theorem command_refuses {legal : Bool} {allowed : EState → Bool} {body : Eng Unit} {s : State} (hl : legal = true)
    (h : Refuses body (issued s)) : ∃ t, command legal allowed body s = .next t ∧ s.RefusedAs t .badState := by
  cases ha : allowed s.estate with
  | false => exact command_refused_refusedAs hl ha
  | true => exact command_refusedAs hl ha h

/-! ### The entry state, and the flags that a component command requires -/

theorem always_of_entryOnly {i : Instr} (h : entryOnly i = true) : always i = false := by
  cases i
  case decC | decP | blkStart | step | run | finish => rfl
  all_goals cases h

theorem allowedIn_failed {i : Instr} (h : always i = false) : allowedIn i .failed = false := by
  unfold allowedIn
  rw [h]
  cases entryOnly i <;> rfl

theorem allowedIn_entryOnly {i : Instr} {e : EState} (h : entryOnly i = true) (he : e ≠ .active) :
    allowedIn i e = false := by
  unfold allowedIn
  rw [always_of_entryOnly h, h]
  cases e
  case active => exact absurd rfl he
  all_goals rfl

/-- The entry state does not allow the command (R333). -/
theorem exec_refused_of_estate {s : State} {i : Instr} (hl : i.WellFormed)
    (h : (s.estate = .failed ∧ always i = false) ∨ (s.estate ≠ .active ∧ entryOnly i = true)) :
    ∃ t, exec i s = .next t ∧ s.RefusedAs t .badState := by
  obtain ⟨body, hbody⟩ := exec_command i
  rw [hbody]
  refine command_refused_refusedAs hl ?_
  rcases h with ⟨he, hi⟩ | ⟨he, hi⟩
  · rw [he]
    exact allowedIn_failed hi
  · exact allowedIn_entryOnly hi he

/-- A flag that the command requires is 0 (R46). -/
theorem exec_refused_of_flag {s : State} {i : Instr} (hl : i.WellFormed) (h : requiredFlags i s = false) :
    ∃ t, exec i s = .next t ∧ s.RefusedAs t .badState := by
  cases i
  case brPeek | brSkip | brGet | nsReadPt | st0ReadC | st0ReadP => exact command_refuses hl (refuses_first h)
  case lenWrite | lenRead | htBuild | tblRead | treeRead => exact command_refuses hl (refuses_first h)
  case dynUpdateC | dynUpdateP | dynNewNode => exact command_refuses hl (refuses_first h)
  case winLiteral | winMatch | winFlush | winRead => exact command_refuses hl (refuses_first h)
  case htDecode | nsReadC => exact command_refuses hl (refuses_either (Bool.and_eq_false_iff.mp h))
  case dynDecodeC | dynDecodeP =>
    exact command_refuses hl (refuses_bind (refuses_either (Bool.and_eq_false_iff.mp h)))
  case dynReconst k =>
    have hflag : (if k = 0#5 then s.arena.validC else s.arena.validP) = false := h
    exact command_refuses hl (refuses_ite (fun hk => refuses_first ((if_pos hk).symm.trans hflag)) fun hk =>
      refuses_first ((if_neg hk).symm.trans hflag))
  case dynRead f j => cases f <;> exact command_refuses hl (refuses_first h)
  all_goals cases h

/-! ### The flags that the procedure of a method requires -/

section Methods

variable {s : State}

theorem refuses_openBlock {header : Eng Unit}
    (h : s.reader.valid = false ∨ s.blockSize ≠ 0#16 ∧ s.tabC.tabValid = false) : Refuses (openBlock header) s := by
  rcases h with hr | ⟨hb, ht⟩
  · exact refuses_first hr
  · refine refuses_after (refuses_get_bind ?_)
    rw [if_neg hb]
    exact refuses_first ht

theorem refuses_decC (hlo : 1 ≤ s.eMethod.toNat) (hhi : s.eMethod.toNat ≤ 7)
    (h : s.reader.valid = false ∨ s.eMethod.toNat ≤ 2 ∧ s.arena.validC = false ∨
      3 ≤ s.eMethod.toNat ∧ s.blockSize ≠ 0#16 ∧ s.tabC.tabValid = false) : Refuses decC s := by
  have hdyn : s.eMethod.toNat ≤ 2 → Refuses dynDecodeC s := fun hm => refuses_either <| by
    rcases h with h | ⟨-, h⟩ | ⟨h, -⟩
    · exact .inl h
    · exact .inr h
    · omega
  have hopen : ∀ header, 3 ≤ s.eMethod.toNat → Refuses (openBlock header) s := fun header hm => refuses_openBlock <| by
    rcases h with h | ⟨h, -⟩ | ⟨-, h⟩
    · exact .inl h
    · omega
    · exact .inr h
  refine refuses_get_bind ?_
  unfold State.methodNow
  split
  case h_1 hm | h_2 hm => exact hdyn (by omega)
  case h_3 hm | h_4 hm | h_5 hm | h_6 hm | h_7 hm => exact refuses_bind (hopen _ (by omega))
  case h_8 => exact refuses_raise

theorem refuses_decP (h : s.reader.valid = false ∨ s.eMethod.toNat = 2 ∧ s.arena.validP = false ∨
    s.eMethod.toNat ≠ 2 ∧ s.tabPt.tabValid = false) : Refuses decP s := by
  have htab : s.eMethod.toNat ≠ 2 → s.reader.valid = false ∨ s.tabPt.tabValid = false := fun hm => by
    rcases h with h | ⟨h, -⟩ | ⟨-, h⟩
    · exact .inl h
    · exact absurd h hm
    · exact .inr h
  refine refuses_get_bind ?_
  unfold State.methodNow
  split
  case h_3 hm =>
    refine refuses_either ?_
    rcases h with h | ⟨-, h⟩ | ⟨h, -⟩
    · exact .inl h
    · exact .inr h
    · exact absurd hm h
  case h_8 => exact refuses_raise
  all_goals exact refuses_either (htab (by omega))

theorem refuses_blkHdr (h : s.reader.valid = false) : Refuses blkHdr s := by
  refine refuses_get_bind ?_
  split
  case h_6 => exact refuses_raise
  all_goals exact refuses_first h

theorem storedEntry_eq_false (hlo : 1 ≤ s.eMethod.toNat) (hhi : s.eMethod.toNat ≤ 7) : s.storedEntry = false := by
  have h0 : s.methodNow ≠ 0 := Nat.one_le_iff_ne_zero.mp hlo
  have h8 : s.methodNow ≠ 8 := Nat.ne_of_lt (Nat.lt_succ_of_le hhi)
  simp [State.storedEntry, h0, h8]

theorem lzEntry_eq_true (hlo : 1 ≤ s.eMethod.toNat) (hhi : s.eMethod.toNat ≤ 7) : s.lzEntry = true := by
  simp [State.lzEntry, State.methodNow, hlo, hhi]

theorem storedEntry_eq_true (h : s.eMethod = 0#4 ∨ s.eMethod = 8#4) : s.storedEntry = true := by
  rcases h with h | h <;> simp [State.storedEntry, State.methodNow, h]

/-- The work of RUN in a stored entry with bytes to go starts with a requirement of the reader. -/
theorem refuses_runStored (hstored : s.storedEntry = true) (hgo : s.decodeCount.toNat < s.origSize.toNat)
    (hr : s.reader.valid = false) : Refuses runWork s := by
  refine refuses_get_bind ?_
  rw [if_pos hstored]
  obtain ⟨n, hn⟩ := Nat.exists_eq_add_of_lt hgo
  rw [hn, Nat.add_assoc, Nat.add_sub_cancel_left]
  exact refuses_first hr

/-- The work of RUN in an LZ entry with bytes to go starts with a token. -/
theorem refuses_runTokens (hstored : s.storedEntry = false) (hgo : s.decodeCount.toNat < s.origSize.toNat)
    (hc : Refuses decC s) : Refuses runWork s := by
  refine refuses_get_bind ?_
  rw [if_neg (ne_true_of_eq_false hstored)]
  obtain ⟨n, hn⟩ := Nat.exists_eq_add_of_lt hgo
  rw [hn]
  refine refuses_bind (refuses_get_bind ?_)
  rw [if_pos (show s.decodeCount < s.origSize from hgo)]
  exact refuses_bind (refuses_bind hc)

theorem runTokens_done (h : s.origSize.toNat ≤ s.decodeCount.toNat) : ∀ n : Nat, runTokens n s = .ok () s
  | 0 => rfl
  | n + 1 => by
    have hdone : ¬ s.decodeCount < s.origSize := Nat.not_lt.mpr h
    simp [runTokens, hdone]

/-- The work of RUN in an LZ entry with no bytes to go is the flush of the window. -/
theorem refuses_runFlush (hstored : s.storedEntry = false) (hdone : s.origSize.toNat ≤ s.decodeCount.toNat)
    (hw : s.window.valid = false) : Refuses runWork s := by
  refine refuses_get_bind ?_
  rw [if_neg (ne_true_of_eq_false hstored)]
  exact refuses_of_ok (runTokens_done hdone _) (refuses_first hw)

theorem refuses_finishFlush (hlz : s.lzEntry = true) (hw : s.window.valid = false) : Refuses finishWork s := by
  refine refuses_get_bind ?_
  rw [if_pos hlz]
  exact refuses_first hw

end Methods

theorem exec_run_refused {s : State} (h : Refuses runWork (issued s)) :
    ∃ t, exec .run s = .next t ∧ s.RefusedAs t .badState := by
  refine command_refuses rfl ?_
  rw [runEntry_eq]
  exact refuses_bind h

theorem exec_finish_refused {s : State} (h : Refuses finishWork (issued s)) :
    ∃ t, exec .finish s = .next t ∧ s.RefusedAs t .badState := by
  refine command_refuses rfl ?_
  rw [finishEntry_eq]
  exact refuses_bind h

/-! ### A STEP with the window closed -/

theorem path_cmd {K : List Part} {s t : State} (h : Path K s t) : t.cmd = s.cmd := by
  induction h with
  | refl => rfl
  | tail _ hm ih =>
    obtain ⟨p, -, hm⟩ := hm
    cases hm with
    | table _ t => cases t <;> exact ih
    | _ => exact ih

theorem path_window {K : List Part} {s t : State} (hw : .window ∉ K) (ho : .opening ∉ K) (hs : .shut ∉ K)
    (h : Path K s t) : t.window = s.window := by
  induction h with
  | refl => rfl
  | tail _ hm ih =>
    obtain ⟨p, hp, hm⟩ := hm
    cases hm with
    | table _ t => exact (setTab_window _ t _).trans ih
    | window => exact absurd hp hw
    | opening => exact absurd hp ho
    | shut => exact absurd hp hs
    | _ => exact ih

/-- Decoding a symbol or a position writes `decodeParts` at the most. -/
theorem decC_path {s u : State} {c : Nat} (h : decC s = .ok c u) : Path decodeParts s u :=
  (does_decC (by decide) (by decide) (by decide) (by decide) (by decide)).1 s c u h

theorem decP_path {s u : State} {p : Nat} (h : decP s = .ok p u) : Path decodeParts s u :=
  (does_decP (by decide) (by decide)).1 s p u h

theorem decode_window {s u : State} (h : Path decodeParts s u) : u.window = s.window :=
  path_window (by decide) (by decide) (by decide) h

/-- What it means that DEC_C or DEC_P completes: the decoding ends, and its value is in RESULT. -/
theorem decode_of_completes {i : Instr} {decode : Eng Nat} {s t : State}
    (hi : ∀ s, exec i s = command true inActive (do let c ← decode; setResult c) s) (h : s.completes i t)
    (hcmd : s.cmd ≠ none) :
    s.estate = .active ∧
      ∃ c u, decode (issued s) = .ok c u ∧ t = State.retire { u with result := BitVec.ofNat 32 c } := by
  obtain ⟨hexec, hidle, hestate⟩ := h
  rw [hi] at hexec
  rcases command_cases hexec with ⟨hl, -⟩ | ⟨-, -, rfl⟩ | ⟨-, ha, ⟨u, hu, rfl⟩ | ⟨c, u, -, rfl⟩ | ⟨u, -, rfl⟩⟩
  · cases hl
  · exact absurd rfl hestate
  · have hactive : s.estate = .active := by
      cases he : s.estate
      case active => rfl
      all_goals
        rw [he] at ha
        cases ha
    rw [eng_bind] at hu
    split at hu
    case h_1 c w hc =>
      cases hu
      exact ⟨hactive, c, w, hc, rfl⟩
    case h_2 => cases hu
  · exact absurd rfl hestate
  · exact absurd hidle hcmd

/-- The decoded symbol is a literal, and the window is closed. -/
theorem stepToken_literal_closed {s u : State} {c : Nat} (hc : decC s = .ok c u) (hlit : c ≤ 255)
    (hw : u.window.valid = false) : stepToken s = .error (.raise .badState) u := by
  simp [stepToken, winLiteral, requireWindow, hc, hlit, hw]

/-- The decoded symbol is a length, its position is decoded too, and the window is closed. -/
theorem stepToken_match_closed {s u v : State} {c p : Nat} (hc : decC s = .ok c u) (hlen : ¬ c ≤ 255)
    (hp : decP u = .ok p v) (hw : v.window.valid = false) : stepToken s = .error (.raise .badState) v := by
  simp [stepToken, winMatchDecoded, requireWindow, hc, hlen, hp, hw]

theorem exec_step_raise {s u : State} (hactive : s.estate = .active) (hlz : s.lzEntry = true)
    (h : stepToken (issued s) = .error (.raise .badState) u) : exec .step s = .next (u.failCommand .badState) := by
  refine command_raise rfl (by rw [hactive]; rfl) ?_
  have hlz' : State.lzEntry { s with inFlight := [] } = true := hlz
  rw [eng_bind, eng_require_true hlz']
  exact h

theorem sameRun_ok_right {α : Type} {x : EStateM.Result Stop State α} {a : α} {v : State} (h : SameRun x (.ok a v)) :
    ∃ u r tr fl, x = .ok a u ∧ v = unseen u r tr fl ∧ fl ++ tr = u.inFlight ++ u.trace := by
  cases h with
  | ok _ u r tr fl h => exact ⟨u, r, tr, fl, rfl, rfl, h⟩

/-- The failure of a command that has come to `u`, when what is not seen is as after the commands before it. -/
theorem failCommand_unseen {u : State} {r : Word} {tr fl : List PortEvent} (h : fl ++ tr = u.inFlight ++ u.trace)
    (d : Word) (c : ErrCode) :
    State.failCommand c { State.retire { unseen u r tr fl with result := d } with inFlight := [] } = u.failCommand c :=
  congrArg (fun events => { u.failCommand c with trace := events }) h

/-- The state in which DEC_P runs by itself after DEC_C, and the one in which STEP decodes the position, differ only in
what is not seen. -/
theorem issued_after_decC {s u : State} (d : Word) (hcmd : u.cmd = s.cmd) :
    issued { State.retire { u with result := d } with cmd := s.cmd } = unseen u d (u.inFlight ++ u.trace) [] := by
  rw [← hcmd]
  rfl

/-- The check of the window by a STEP whose decoding completes (log 15). -/
theorem step_closed {s t : State} (hlz : s.lzEntry = true) (hcmd : s.cmd ≠ none) (hw : s.window.valid = false)
    (h : s.completes .decC t) :
    (t.result.toNat ≤ 255 → ∃ u, exec .step s = .next u ∧ t.RefusedAs u .badState) ∧
    (∀ p, 256 ≤ t.result.toNat → State.completes { t with cmd := s.cmd } .decP p →
      ∃ u, exec .step s = .next u ∧ p.RefusedAs u .badState) := by
  obtain ⟨hactive, c, u, hc, rfl⟩ := decode_of_completes (fun _ => rfl) h hcmd
  have hpath := decC_path hc
  have hwu : u.window.valid = false := by rw [decode_window hpath]; exact hw
  have hresult : (BitVec.ofNat 32 c).toNat = c := by
    rw [BitVec.toNat_ofNat, Nat.mod_eq_of_lt (decC_yields _ _ _ hc)]
  refine ⟨fun hlit => ?_, fun p hlen hp => ?_⟩
  · have hlit' : c ≤ 255 := hresult ▸ hlit
    exact ⟨_, exec_step_raise hactive hlz (stepToken_literal_closed hc hlit' hwu), failCommand_refusedAs .badState _⟩
  · have hlen' : 256 ≤ c := hresult ▸ hlen
    obtain ⟨-, d, v, hd, rfl⟩ := decode_of_completes (fun _ => rfl) hp hcmd
    have hseen : decP (unseen u (BitVec.ofNat 32 c) (u.inFlight ++ u.trace) []) = .ok d v := by
      rw [← issued_after_decC _ (path_cmd hpath)]
      exact hd
    have hrun := oblivious_decP u (BitVec.ofNat 32 c) (u.inFlight ++ u.trace) [] rfl
    rw [hseen] at hrun
    obtain ⟨w, r, tr, fl, hdw, rfl, hevents⟩ := sameRun_ok_right hrun
    have hww : w.window.valid = false := by rw [decode_window (decP_path hdw)]; exact hwu
    refine ⟨_, exec_step_raise hactive hlz (stepToken_match_closed hc (by omega) hdw hww), ?_⟩
    rw [← failCommand_unseen hevents (BitVec.ofNat 32 d)]
    exact failCommand_refusedAs .badState _

/-! ### The obligation -/

/-- Settles O11: each command is refused by its entry state, or its body by the first flag that it requires
(`Refuses`); for the STEP with the window closed, decoding the position does not see in which command it runs
(`oblivious_decP`). -/
theorem requirementsFail : Obligations.RequirementsFail := by
  unfold Obligations.RequirementsFail
  refine ⟨fun s i => exec_refused_of_estate, fun s i => exec_refused_of_flag, fun s hactive hlo hhi => ?_,
    fun s hactive hm hgo hr => ?_⟩
  · have hstored := storedEntry_eq_false hlo hhi
    have hlz := lzEntry_eq_true hlo hhi
    refine ⟨fun i hi hflags => ?_, fun hflags => ?_, fun hr => ?_, fun i hi hw => ?_, fun t hcmd hw => ?_⟩
    · have hc : Refuses decC (issued s) := refuses_decC hlo hhi hflags
      rcases hi with rfl | rfl | ⟨rfl, hgo⟩
      · exact command_refuses rfl (refuses_bind hc)
      · exact command_refuses rfl (refuses_after (refuses_bind hc))
      · exact exec_run_refused (refuses_runTokens hstored hgo hc)
    · exact command_refuses rfl (refuses_bind (refuses_decP hflags))
    · exact command_refuses rfl (refuses_blkHdr hr)
    · rcases hi with rfl | ⟨rfl, hdone⟩
      · exact exec_finish_refused (refuses_finishFlush hlz hw)
      · exact exec_run_refused (refuses_runFlush hstored hdone hw)
    · exact step_closed hlz hcmd hw
  · exact exec_run_refused (refuses_runStored (storedEntry_eq_true hm) hgo hr)

end Sys2Proof.Proofs
end

section
/-! PROOFS. What Peek reads of the bit stream (O23), and what the source's answer to a request of BR_SKIP does (O25). -/

namespace Sys2Proof.Proofs

open Sys2Proof.Machine Sys2Proof.Laws

/-! ### The bit stream (O23) -/

/-- Past the packed size or the source's end a stream bit is 0 (R151). -/
theorem bit_eq_false {r : Reader} {k : Nat} (h : r.packed.toNat ≤ k / 8 ∨ ∃ e, r.endAt = some e ∧ e ≤ k / 8) :
    r.bit k = false := by
  have hzero : r.srcByte (k / 8) = 0#8 := by
    unfold Reader.srcByte
    rw [if_neg]
    rcases h with h | ⟨e, he, hk⟩
    · simp [Nat.not_lt.mpr h]
    · simp [he, Nat.not_lt.mpr hk]
  simp [Reader.bit, hzero]

/-- Inside both a stream bit is one of the received byte, the most significant first (R87, R151). -/
theorem bit_eq_byte {r : Reader} {k : Nat} (hk : k / 8 < r.packed.toNat) (he : ∀ e, r.endAt = some e → k / 8 < e) :
    r.bit k = (r.bytes.getD (k / 8) 0#8).getLsbD (7 - k % 8) := by
  have hbyte : r.srcByte (k / 8) = r.bytes.getD (k / 8) 0#8 := by
    unfold Reader.srcByte
    rw [if_pos]
    cases hend : r.endAt with
    | none => simp [hk]
    | some e => simp [hk, he e hend]
  rw [Reader.bit, hbyte]

/-- R152's number as a sum: bit `j` of the `n` bits weighs 2^(n−1−j). -/
theorem bitsAt_eq_sum (r : Reader) : ∀ n k : Nat,
    r.bitsAt k n = ∑ j ∈ Finset.range n, (if r.bit (k + j) then 1 else 0) * 2 ^ (n - 1 - j)
  | 0, _ => rfl
  | n + 1, k => by
    have hfirst : (if r.bit k then 2 ^ n else 0) = (if r.bit (k + 0) then 1 else 0) * 2 ^ (n + 1 - 1 - 0) := by
      simp
    have hrest : ∀ j, (if r.bit (k + 1 + j) then 1 else 0) * 2 ^ (n - 1 - j) =
        (if r.bit (k + (j + 1)) then 1 else 0) * 2 ^ (n + 1 - 1 - (j + 1)) := fun j => by
      rw [show k + 1 + j = k + (j + 1) by omega, show n - 1 - j = n + 1 - 1 - (j + 1) by omega]
    rw [Finset.sum_range_succ', Reader.bitsAt, bitsAt_eq_sum r n (k + 1), hfirst, add_comm]
    exact congrArg (· + _) (Finset.sum_congr rfl fun j _ => hrest j)

/-! ### Commands of a reader that is ready -/

theorem exec_brPeek {s : State} {n : BitVec 5} (he : s.estate ≠ .failed) (hr : s.reader.valid = true)
    (hn : n.toNat ≤ 16) :
    exec (.brPeek n) s = .next ({ s with result := BitVec.ofNat 32 (s.reader.peek n.toNat) }.ended []) :=
  command_ended _ [] (decide_eq_true hn) (notInFailed_iff.mpr he) (by simp [requireReader, hr])

theorem exec_brSkip {s : State} {n : BitVec 5} (he : s.estate ≠ .failed) (hr : s.reader.valid = true)
    (hn : n.toNat ≤ 16) : exec (.brSkip n) s = settle s (consume n.toNat (issued s)) := by
  have hcommand := command_run (body := do requireReader; consume n.toNat) (decide_eq_true hn)
    (notInFailed_iff.mpr he)
  rw [eng_bind, requireReader, eng_require_true hr] at hcommand
  exact hcommand

/-- Settles O23: Peek's sum is `bitsAt_eq_sum`, and BR_PEEK makes no request, so its body ends at once. -/
theorem peekReadsStreamBits : Obligations.PeekReadsStreamBits := by
  unfold Obligations.PeekReadsStreamBits
  refine ⟨fun r k => ⟨bit_eq_byte, fun h => bit_eq_false (.inl h), fun e he h => bit_eq_false (.inr ⟨e, he, h⟩)⟩,
    fun r n => bitsAt_eq_sum r n r.pos.toNat, fun s n => exec_brPeek⟩

/-! ### The answer to a request (O25) -/

/-- Where R156 asks for a byte, `Consume` moves BR_POS and requests one byte or more. -/
theorem consume_requests {s : State} {n : Nat} (hend : s.reader.endAt = none)
    (hmore : s.reader.inCount.toNat < min s.reader.packed.toNat (((s.reader.advance n).pos.toNat + 16 + 7) / 8)) :
    ∃ k, consume n s = requestBytes (k + 1) (s.skipped n) := by
  have hmissing : 0 < (s.reader.advance n).requestTarget - (s.reader.advance n).requestsMade := by
    simp only [Reader.requestTarget, Reader.requestsMade, Reader.advance, hend] at hmore ⊢
    simpa using hmore
  obtain ⟨k, hk⟩ := Nat.exists_eq_succ_of_ne_zero hmissing.ne'
  exact ⟨k, congrArg (requestBytes · (s.skipped n)) hk⟩

/-- A request that stops stops the requests after it. -/
theorem requestBytes_of_error {s t : State} {e : Stop} (h : requestByte s = .error e t) (k : Nat) :
    requestBytes (k + 1) s = .error e t := by
  rw [requestBytes, eng_bind, h]

/-- No request follows an `End` (R84). -/
theorem requestBytes_of_end {s t : State} (h : requestByte s = .ok () t) (hend : t.reader.endAt.isSome = true)
    (k : Nat) : requestBytes (k + 1) s = .ok () t := by
  rw [requestBytes, eng_bind, h]
  simp [hend]

/-- Settles O25: the request goes to the source with nothing before it (`consume_requests`), and each answer but a byte
makes it the last. -/
theorem sourceAnswerDecides : Obligations.SourceAnswerDecides := by
  unfold Obligations.SourceAnswerDecides
  intro s n he hr hn hend hmore
  obtain ⟨k, hk⟩ := consume_requests (s := issued s) hend hmore
  have hexec := exec_brSkip he hr hn
  rw [hk] at hexec
  rcases requestByte_cases ((issued s).skipped n.toNat) with
    ⟨hs, hreq⟩ | ⟨b, rest, hs, -⟩ | ⟨rest, hs, hreq⟩ | ⟨rest, hs, hreq⟩ <;>
    refine ⟨fun _ h => ?_, fun _ h => ?_, fun h => ?_⟩ <;> cases hs.symm.trans h
  case inl =>
    rw [requestBytes_of_error hreq] at hexec
    exact hexec
  case inr.inr.inl =>
    rw [requestBytes_of_end hreq rfl] at hexec
    exact hexec
  case inr.inr.inr =>
    rw [requestBytes_of_error hreq] at hexec
    exact ⟨_, hexec, rfl, rfl, rfl, failCommand_noneValid _ _, rfl, rfl, rfl, rfl⟩

end Sys2Proof.Proofs
end

section
/-! PROOFS. What the bodies of the commands do at the ports: they move BR_POS, with R156's requests, and emit bytes; all
else that they do is quiet there. -/

namespace Sys2Proof.Proofs

open Sys2Proof.Machine Sys2Proof.Laws

/-! ### Quiet computations, and those made of them and the port operations -/

/-- What the port operations read and write: the reader, the ports' inputs, and the port events. -/
def portSide (s : State) : Reader × List Answer × Option Nat × List PortEvent × List PortEvent :=
  (s.reader, s.source, s.sinkRoom, s.inFlight, s.trace)

/-- The computation does nothing at the ports: it ends or raises, and never waits. -/
def Quiet {α : Type} (m : Eng α) : Prop :=
  ∀ s, (∃ a t, m s = .ok a t ∧ portSide t = portSide s) ∨ ∃ c t, m s = .error (.raise c) t ∧ portSide t = portSide s

/-- The computation is made of quiet ones, of moves of BR_POS followed by R156's requests, and of emitted bytes. -/
inductive UsesPorts : {α : Type} → Eng α → Prop
  | quiet {α : Type} {m : Eng α} (h : Quiet m) : UsesPorts m
  | movePos (pos : State → Count) (draws : State → Nat) : UsesPorts (do
      modify fun s => { s with draws := draws s, reader := { s.reader with pos := pos s } }
      fillLookAhead)
  | emit (b : Byte) : UsesPorts (emit b)
  | bind {α β : Type} {m : Eng α} {f : α → Eng β} (hm : UsesPorts m) (hf : ∀ a, UsesPorts (f a)) : UsesPorts (m >>= f)

@[simp] theorem portSide_setTab (s : State) (t : Table) (h : HuffTable (entryWidth t)) :
    portSide (s.setTab t h) = portSide s := by
  cases t <;> rfl

section Primitives

variable {α : Type}

theorem usesPorts_pure (a : α) : UsesPorts (pure a : Eng α) := .quiet fun s => .inl ⟨a, s, rfl, rfl⟩

theorem usesPorts_get : UsesPorts (get : Eng State) := .quiet fun s => .inl ⟨s, s, rfl, rfl⟩

theorem usesPorts_raiseErr (c : ErrCode) : UsesPorts (raiseErr c : Eng α) := .quiet fun s => .inr ⟨c, s, rfl, rfl⟩

theorem usesPorts_ite {c : Prop} [Decidable c] {m n : Eng α} (hm : UsesPorts m) (hn : UsesPorts n) :
    UsesPorts (if c then m else n) := by
  split
  · exact hm
  · exact hn

theorem usesPorts_raiseIf (b : Bool) (c : ErrCode) : UsesPorts (raiseIf b c) :=
  usesPorts_ite (usesPorts_raiseErr c) (usesPorts_pure ())

theorem usesPorts_require (p : State → Bool) : UsesPorts (require p) := .quiet fun s => by
  cases hp : p s with
  | true => exact .inl ⟨(), s, eng_require_true hp, rfl⟩
  | false => exact .inr ⟨.badState, s, eng_require_false hp, rfl⟩

theorem usesPorts_modify {f : State → State} (h : ∀ s, portSide (f s) = portSide s) :
    UsesPorts (modify f : Eng Unit) := .quiet fun s => .inl ⟨(), f s, rfl, h s⟩

theorem usesPorts_setResult (v : Nat) : UsesPorts (setResult v) := usesPorts_modify fun _ => rfl

/-- A check on the state after a requirement, before anything is done. -/
theorem usesPorts_checked {p bad : State → Bool} {c : ErrCode} {m : State → Eng Unit} (hm : ∀ s, UsesPorts (m s)) :
    UsesPorts (do
      require p
      let s ← get
      raiseIf (bad s) c
      m s) :=
  .bind (usesPorts_require p) fun _ => .bind usesPorts_get fun s => .bind (usesPorts_raiseIf _ c) fun _ => hm s

/-- A value read with a requirement before it. -/
theorem usesPorts_requireResult (p : State → Bool) (f : State → Nat) :
    UsesPorts (do require p; setResult (f (← get))) :=
  .bind (usesPorts_require p) fun _ => .bind usesPorts_get fun _ => usesPorts_setResult _

end Primitives

/-! ### The bit reader -/

theorem usesPorts_consume (n : Nat) : UsesPorts (consume n) :=
  .movePos (fun s => s.reader.pos + BitVec.ofNat 64 n) State.draws

theorem usesPorts_getWideBits (n : Nat) : UsesPorts (getWideBits n) := by
  refine .bind usesPorts_get fun k => ?_
  rw [← bind_assoc]
  exact .bind (.movePos (fun _ => Config.freeBitPos k.draws) fun s => s.draws + 1) fun _ => usesPorts_pure _

theorem usesPorts_getBits (n : Nat) : UsesPorts (getBits n) :=
  usesPorts_ite (.bind usesPorts_get fun _ => .bind (usesPorts_consume n) fun _ => usesPorts_pure _)
    (usesPorts_getWideBits n)

/-! ### Tables and their readers -/

theorem usesPorts_editTab (t : Table) (f : State → HuffTable (entryWidth t)) :
    UsesPorts (modify fun s => s.setTab t (f s)) := usesPorts_modify fun s => portSide_setTab s t (f s)

theorem usesPorts_setLen (t : Table) (i l : Nat) : UsesPorts (setLen t i l) := usesPorts_editTab t _

theorem usesPorts_zeroLens (t : Table) (k n : Nat) : UsesPorts (zeroLens t k n) := usesPorts_editTab t _

theorem usesPorts_updateTab (t : Table)
    (f : HuffTable (entryWidth t) → Except ErrCode (HuffTable (entryWidth t))) : UsesPorts (updateTab t f) :=
  .quiet fun s => by
    rcases updateTab_ends t f s with ⟨h, -, hu⟩ | ⟨e, hu⟩
    · exact .inl ⟨(), _, hu, portSide_setTab s t h⟩
    · exact .inr ⟨e, s, hu, rfl⟩

theorem usesPorts_htFill (t : Table) (c sym : Nat) : UsesPorts (htFill t c sym) := usesPorts_updateTab t _

theorem usesPorts_closeLens (t : Table) (i nchar : Nat) : UsesPorts (closeLens t i nchar) :=
  .bind (usesPorts_zeroLens t _ _) fun _ => .bind (usesPorts_editTab t _) fun _ => usesPorts_updateTab t _

theorem usesPorts_decodeSym (t : Table) : UsesPorts (decodeSym t) := by
  refine .bind usesPorts_get fun s => ?_
  split
  · exact usesPorts_raiseErr _
  · exact .bind (usesPorts_consume _) fun _ => usesPorts_pure _

theorem usesPorts_unaryLen (w : Nat) : ∀ n c : Nat, UsesPorts (unaryLen w n c)
  | 0, c => usesPorts_pure c
  | n + 1, c => usesPorts_ite (usesPorts_ite (usesPorts_raiseErr _) (usesPorts_unaryLen w n (c + 1)))
      (usesPorts_pure c)

theorem usesPorts_readPtLength : UsesPorts readPtLength := by
  have hlast : ∀ c : Nat, UsesPorts (do consume (if c < 7 then 3 else c - 3); pure c) := fun c =>
    .bind (usesPorts_consume _) fun _ => usesPorts_pure c
  exact .bind usesPorts_get fun _ => usesPorts_ite (.bind (usesPorts_unaryLen _ _ _) hlast)
    (.bind (usesPorts_pure _) hlast)

theorem usesPorts_readPtLengths (nn n : Nat) (special : Option Nat) :
    ∀ turns i : Nat, UsesPorts (readPtLengths nn n special turns i)
  | 0, i => usesPorts_pure i
  | turns + 1, i => usesPorts_ite
      (.bind usesPorts_readPtLength fun _ => .bind (usesPorts_setLen _ _ _) fun _ => usesPorts_ite
        (.bind (usesPorts_getBits 2) fun _ => .bind (usesPorts_raiseIf _ _) fun _ =>
          .bind (usesPorts_zeroLens _ _ _) fun _ => usesPorts_readPtLengths nn n special turns _)
        (usesPorts_readPtLengths nn n special turns _))
      (usesPorts_pure i)

theorem usesPorts_readPtLen (nn nbit : Nat) (special : Option Nat) : UsesPorts (readPtLen nn nbit special) :=
  .bind (usesPorts_getBits nbit) fun n => usesPorts_ite
    (.bind (usesPorts_getBits nbit) fun c => usesPorts_htFill .pt nn c)
    (.bind (usesPorts_raiseIf _ _) fun _ => .bind (usesPorts_readPtLengths nn n special n 0) fun i =>
      usesPorts_closeLens .pt i nn)

theorem usesPorts_zeroRun (c : Nat) : UsesPorts (zeroRun c) := by
  unfold zeroRun
  split
  · exact usesPorts_pure 1
  · exact .bind (usesPorts_getBits 4) fun _ => usesPorts_pure _
  · exact .bind (usesPorts_getBits 9) fun _ => usesPorts_pure _

theorem usesPorts_readCLengths (n : Nat) : ∀ turns i : Nat, UsesPorts (readCLengths n turns i)
  | 0, i => usesPorts_pure i
  | turns + 1, i => usesPorts_ite
      (.bind (usesPorts_decodeSym .pt) fun _ => usesPorts_ite
        (.bind (usesPorts_zeroRun _) fun _ => .bind (usesPorts_raiseIf _ _) fun _ =>
          .bind (usesPorts_zeroLens _ _ _) fun _ => usesPorts_readCLengths n turns _)
        (.bind (usesPorts_setLen _ _ _) fun _ => usesPorts_readCLengths n turns _))
      (usesPorts_pure i)

theorem usesPorts_readCLen : UsesPorts readCLen :=
  .bind (usesPorts_getBits 9) fun n => usesPorts_ite
    (.bind (usesPorts_getBits 9) fun c => usesPorts_htFill .c alphabetNC c)
    (.bind (usesPorts_raiseIf _ _) fun _ => .bind (usesPorts_readCLengths n n 0) fun i =>
      usesPorts_closeLens .c i alphabetNC)

theorem usesPorts_nsBlockHeader : UsesPorts nsBlockHeader :=
  .bind (usesPorts_getBits 16) fun _ => .bind (usesPorts_modify fun _ => rfl) fun _ =>
    .bind (usesPorts_readPtLen _ _ _) fun _ => .bind usesPorts_readCLen fun _ =>
      .bind usesPorts_get fun _ => usesPorts_readPtLen _ _ _

theorem usesPorts_readTreeLength : UsesPorts readTreeLength :=
  .bind (usesPorts_getBits 1) fun _ => usesPorts_ite
    (.bind (usesPorts_getBits 4) fun _ => usesPorts_pure _) (usesPorts_pure 0)

theorem usesPorts_readTreeLengths : ∀ left i : Nat, UsesPorts (readTreeLengths left i)
  | 0, _ => usesPorts_pure false
  | left + 1, i => .bind usesPorts_readTreeLength fun _ => .bind (usesPorts_setLen _ _ _) fun _ =>
      .bind usesPorts_get fun _ => usesPorts_ite
        (.bind (usesPorts_getBits 9) fun _ => .bind (usesPorts_htFill _ _ _) fun _ => usesPorts_pure true)
        (usesPorts_readTreeLengths left (i + 1))

theorem usesPorts_readTreeC : UsesPorts readTreeC :=
  .bind (usesPorts_readTreeLengths _ _) fun _ => usesPorts_ite (usesPorts_pure ()) (usesPorts_closeLens _ _ _)

theorem usesPorts_readyMade (m : ReadyTable) (np : Nat) : UsesPorts (readyMade m np) :=
  .bind (usesPorts_editTab .pt _) fun _ => usesPorts_closeLens .pt np np

theorem usesPorts_readPosLengths : ∀ left i : Nat, UsesPorts (readPosLengths left i)
  | 0, _ => usesPorts_pure false
  | left + 1, i => .bind (usesPorts_getBits 4) fun _ => .bind (usesPorts_setLen _ _ _) fun _ =>
      .bind usesPorts_get fun _ => usesPorts_ite
        (.bind (usesPorts_getBits 7) fun _ => .bind (usesPorts_htFill _ _ _) fun _ => usesPorts_pure true)
        (usesPorts_readPosLengths left (i + 1))

theorem usesPorts_readTreeP : UsesPorts readTreeP :=
  .bind (usesPorts_getBits 1) fun _ => usesPorts_ite
    (.bind (usesPorts_readPosLengths _ _) fun _ => usesPorts_ite (usesPorts_pure ()) (usesPorts_closeLens _ _ _))
    (usesPorts_readyMade _ _)

theorem usesPorts_st0BlockHeader : UsesPorts st0BlockHeader :=
  .bind (usesPorts_getBits 16) fun _ => .bind (usesPorts_modify fun _ => rfl) fun _ =>
    .bind usesPorts_readTreeC fun _ => usesPorts_readTreeP

/-! ### Symbols and positions -/

theorem usesPorts_openBlock {header : Eng Unit} (h : UsesPorts header) : UsesPorts (openBlock header) := by
  have hlast : UsesPorts (modify fun s => { s with blockSize := s.blockSize - 1 }) := usesPorts_modify fun _ => rfl
  exact .bind (usesPorts_require _) fun _ => .bind usesPorts_get fun _ =>
    usesPorts_ite (.bind h fun _ => hlast) (.bind (usesPorts_require _) fun _ => hlast)

theorem usesPorts_nsDecodeC : UsesPorts nsDecodeC :=
  .bind (usesPorts_openBlock usesPorts_nsBlockHeader) fun _ => usesPorts_decodeSym .c

theorem usesPorts_nsDecodeP : UsesPorts nsDecodeP :=
  .bind (usesPorts_require _) fun _ => .bind (usesPorts_require _) fun _ => .bind (usesPorts_decodeSym .pt) fun _ =>
    usesPorts_ite (usesPorts_pure _) (.bind (usesPorts_getBits _) fun _ => usesPorts_pure _)

theorem usesPorts_st0DecodeC : UsesPorts st0DecodeC :=
  .bind (usesPorts_openBlock usesPorts_st0BlockHeader) fun _ => .bind (usesPorts_decodeSym .c) fun _ =>
    usesPorts_ite (.bind (usesPorts_getBits 8) fun _ => usesPorts_pure _) (usesPorts_pure _)

theorem usesPorts_fixDecodeP : UsesPorts fixDecodeP :=
  .bind (usesPorts_require _) fun _ => .bind (usesPorts_require _) fun _ => .bind (usesPorts_decodeSym .pt) fun _ =>
    .bind (usesPorts_getBits 6) fun _ => usesPorts_pure _

/-! ### The adaptive decoder -/

theorem usesPorts_updateArena (f : Arena → Nat → Arena × Nat) : UsesPorts (updateArena f) :=
  usesPorts_modify fun _ => rfl

theorem usesPorts_growP : ∀ turns : Nat, UsesPorts (growP turns)
  | 0 => usesPorts_pure ()
  | turns + 1 => .bind usesPorts_get fun _ => usesPorts_ite
      (.bind (usesPorts_raiseIf _ _) fun _ => .bind (usesPorts_updateArena _) fun _ =>
        .bind (usesPorts_modify fun _ => rfl) fun _ => usesPorts_growP turns)
      (usesPorts_pure ())

theorem usesPorts_walkFrom : ∀ (turns : Nat) (c : Int), UsesPorts (walkFrom turns c)
  | 0, _ => by
    unfold walkFrom
    rw [← bind_assoc]
    exact .bind (.movePos (fun s => Config.freeBitPos s.draws) fun s => s.draws + 1) fun _ => usesPorts_pure _
  | turns + 1, c => usesPorts_ite
      (.bind (usesPorts_getBits 1) fun _ => .bind usesPorts_get fun _ => usesPorts_walkFrom turns _) (usesPorts_pure c)

theorem usesPorts_drawSymbol : UsesPorts drawSymbol :=
  .bind usesPorts_get fun _ => .bind (usesPorts_modify fun _ => rfl) fun _ => usesPorts_pure _

theorem usesPorts_dynWalk (root : Nat) : UsesPorts (dynWalk root) :=
  .bind usesPorts_get fun _ => .bind (usesPorts_walkFrom _ _) fun _ =>
    usesPorts_ite (usesPorts_pure _) usesPorts_drawSymbol

theorem usesPorts_dynDecodeC : UsesPorts dynDecodeC :=
  .bind (usesPorts_require _) fun _ => .bind (usesPorts_require _) fun _ => .bind (usesPorts_dynWalk _) fun _ =>
    .bind (usesPorts_updateArena _) fun _ => .bind usesPorts_get fun _ =>
      usesPorts_ite (.bind (usesPorts_getBits 8) fun _ => usesPorts_pure _) (usesPorts_pure _)

theorem usesPorts_dynDecodeP : UsesPorts dynDecodeP :=
  .bind (usesPorts_require _) fun _ => .bind (usesPorts_require _) fun _ => .bind (usesPorts_growP _) fun _ =>
    .bind (usesPorts_dynWalk _) fun _ => .bind (usesPorts_updateArena _) fun _ =>
      .bind (usesPorts_getBits 6) fun _ => usesPorts_pure _

/-! ### The window -/

theorem usesPorts_emitRange : ∀ n i : Nat, UsesPorts (emitRange n i)
  | 0, _ => usesPorts_pure ()
  | n + 1, i => .bind usesPorts_get fun _ => .bind (.emit _) fun _ => usesPorts_emitRange n (i + 1)

theorem usesPorts_put (b : Byte) : UsesPorts (put b) :=
  .bind (usesPorts_modify fun _ => rfl) fun _ => .bind usesPorts_get fun _ => usesPorts_ite
    (.bind (usesPorts_emitRange _ _) fun _ => usesPorts_modify fun _ => rfl) (usesPorts_modify fun _ => rfl)

theorem usesPorts_countDecoded (n : Nat) : UsesPorts (countDecoded n) := usesPorts_modify fun _ => rfl

theorem usesPorts_winLiteral (b : Byte) : UsesPorts (winLiteral b) :=
  .bind (usesPorts_require _) fun _ => .bind (usesPorts_put b) fun _ => usesPorts_countDecoded 1

theorem usesPorts_copyBytes (src : BitVec 16) : ∀ n k : Nat, UsesPorts (copyBytes src n k)
  | 0, _ => usesPorts_pure ()
  | n + 1, k => .bind usesPorts_get fun _ => .bind (usesPorts_put _) fun _ => usesPorts_copyBytes src n (k + 1)

theorem usesPorts_copyMatch (len dist : Nat) : UsesPorts (copyMatch len dist) :=
  .bind usesPorts_get fun _ => .bind (usesPorts_countDecoded len) fun _ => usesPorts_copyBytes _ _ _

theorem usesPorts_winFlush : UsesPorts winFlush :=
  .bind (usesPorts_require _) fun _ => .bind usesPorts_get fun _ => .bind (usesPorts_emitRange _ _) fun _ =>
    usesPorts_modify fun _ => rfl

/-! ### Tokens and entries -/

theorem usesPorts_decC : UsesPorts decC := by
  refine .bind usesPorts_get fun s => ?_
  split
  · exact usesPorts_dynDecodeC
  · exact usesPorts_dynDecodeC
  · exact usesPorts_st0DecodeC
  · exact usesPorts_nsDecodeC
  · exact usesPorts_nsDecodeC
  · exact usesPorts_nsDecodeC
  · exact usesPorts_nsDecodeC
  · exact usesPorts_raiseErr _

theorem usesPorts_decP : UsesPorts decP := by
  refine .bind usesPorts_get fun s => ?_
  split
  · exact usesPorts_fixDecodeP
  · exact usesPorts_fixDecodeP
  · exact usesPorts_dynDecodeP
  · exact usesPorts_nsDecodeP
  · exact usesPorts_nsDecodeP
  · exact usesPorts_nsDecodeP
  · exact usesPorts_nsDecodeP
  · exact usesPorts_raiseErr _

theorem usesPorts_blkHdr : UsesPorts blkHdr := by
  have hns : UsesPorts (do requireReader; nsBlockHeader) :=
    .bind (usesPorts_require _) fun _ => usesPorts_nsBlockHeader
  refine .bind usesPorts_get fun s => ?_
  split
  · exact .bind (usesPorts_require _) fun _ => usesPorts_st0BlockHeader
  · exact hns
  · exact hns
  · exact hns
  · exact hns
  · exact usesPorts_raiseErr _

theorem usesPorts_stepToken : UsesPorts stepToken := by
  have hmatch : ∀ len dist : Nat, UsesPorts (winMatchDecoded len dist) := fun len dist =>
    .bind (usesPorts_require _) fun _ => usesPorts_copyMatch len dist
  exact .bind usesPorts_decC fun c => usesPorts_ite
    (.bind (usesPorts_winLiteral _) fun _ => usesPorts_setResult c)
    (.bind usesPorts_decP fun _ => .bind (hmatch _ _) fun _ => usesPorts_setResult c)

theorem usesPorts_runTokens : ∀ turns : Nat, UsesPorts (runTokens turns)
  | 0 => usesPorts_pure ()
  | turns + 1 => .bind usesPorts_get fun _ => usesPorts_ite
      (.bind usesPorts_stepToken fun _ => usesPorts_runTokens turns) (usesPorts_pure ())

theorem usesPorts_copyStored : ∀ n : Nat, UsesPorts (copyStored n)
  | 0 => usesPorts_pure ()
  | n + 1 => .bind (usesPorts_require _) fun _ => .bind (usesPorts_getBits 8) fun _ => .bind (.emit _) fun _ =>
      .bind (usesPorts_countDecoded 1) fun _ => usesPorts_copyStored n

theorem usesPorts_runEntry : UsesPorts runEntry := by
  rw [runEntry_eq]
  refine .bind ?_ fun _ => usesPorts_modify fun _ => rfl
  exact .bind usesPorts_get fun _ => usesPorts_ite (usesPorts_copyStored _)
    (.bind (usesPorts_runTokens _) fun _ => usesPorts_winFlush)

theorem usesPorts_finishEntry : UsesPorts finishEntry := by
  rw [finishEntry_eq]
  refine .bind ?_ fun _ => usesPorts_modify fun _ => rfl
  exact .bind usesPorts_get fun _ => usesPorts_ite usesPorts_winFlush (usesPorts_pure ())

/-! ### The commands -/

/-- Every command but those that start the reader again or reset it is its checks and a body that uses the ports by the
port operations alone. -/
theorem exec_usesPorts {i : Instr} (hinit : i ≠ .brInit) (hstart : i ≠ .entryStart) (hreset : i ≠ .softReset) :
    ∃ body, (∀ s, exec i s = command (operandsLegal i) (allowedIn i) body s) ∧ UsesPorts body := by
  cases i
  case brInit => exact absurd rfl hinit
  case entryStart => exact absurd rfl hstart
  case softReset => exact absurd rfl hreset
  case nop => exact ⟨pure (), fun _ => rfl, usesPorts_pure ()⟩
  all_goals refine ⟨_, fun _ => rfl, ?_⟩
  case run => exact usesPorts_runEntry
  case step => exact .bind (usesPorts_require _) fun _ => usesPorts_stepToken
  case finish => exact usesPorts_finishEntry
  case decC => exact .bind usesPorts_decC fun c => usesPorts_setResult c
  case decP => exact .bind usesPorts_decP fun p => usesPorts_setResult p
  case blkStart => exact usesPorts_blkHdr
  case brPeek n => exact usesPorts_requireResult _ _
  case brSkip n => exact .bind (usesPorts_require _) fun _ => usesPorts_consume _
  case brGet n =>
    exact .bind (usesPorts_require _) fun _ => .bind (usesPorts_getBits _) fun v => usesPorts_setResult v
  case crc16Byte | crc32Byte | sumByte | ckClear => exact usesPorts_modify fun _ => rfl
  case lenClear t => exact usesPorts_editTab t _
  case lenWrite t j l => exact .bind (usesPorts_require _) fun _ => usesPorts_editTab t _
  case lenRead t j l => exact usesPorts_requireResult _ _
  case htBuild t c x => exact .bind (usesPorts_require _) fun _ => usesPorts_updateTab t _
  case htFill t c x => exact usesPorts_htFill t _ _
  case htDecode t =>
    exact .bind (usesPorts_require _) fun _ => .bind (usesPorts_require _) fun _ =>
      .bind (usesPorts_decodeSym t) fun j => usesPorts_setResult j
  case tblRead t j => exact usesPorts_requireResult _ _
  case treeRead t d j => exact usesPorts_checked fun _ => usesPorts_setResult _
  case htReadyMade m c => exact usesPorts_readyMade m _
  case nsReadPt c w x => exact .bind (usesPorts_require _) fun _ => usesPorts_readPtLen _ _ _
  case nsReadC => exact .bind (usesPorts_require _) fun _ => .bind (usesPorts_require _) fun _ => usesPorts_readCLen
  case st0ReadC => exact .bind (usesPorts_require _) fun _ => usesPorts_readTreeC
  case st0ReadP => exact .bind (usesPorts_require _) fun _ => usesPorts_readTreeP
  case dynStartC | dynStartP => exact usesPorts_modify fun _ => rfl
  case dynDecodeC => exact .bind usesPorts_dynDecodeC fun c => usesPorts_setResult c
  case dynDecodeP => exact .bind usesPorts_dynDecodeP fun p => usesPorts_setResult p
  case dynUpdateC | dynUpdateP => exact usesPorts_checked fun _ => usesPorts_updateArena _
  case dynReconst k =>
    exact usesPorts_ite (.bind (usesPorts_require _) fun _ => usesPorts_updateArena _)
      (usesPorts_checked fun _ => usesPorts_updateArena _)
  case dynNewNode x =>
    exact usesPorts_checked fun _ => .bind (usesPorts_raiseIf _ _) fun _ => usesPorts_updateArena _
  case dynRead f j => exact usesPorts_checked fun _ => usesPorts_setResult _
  case winInit k => exact usesPorts_modify fun _ => rfl
  case winLiteral b => exact usesPorts_winLiteral b
  case winMatch x => exact usesPorts_checked fun _ => usesPorts_copyMatch _ _
  case winFlush => exact usesPorts_winFlush
  case winRead j => exact usesPorts_checked fun _ => usesPorts_setResult _

end Sys2Proof.Proofs
end

section
/-! PROOFS. The requests of a command are for the next byte indices, in order (O55). -/

namespace Sys2Proof.Proofs

open Sys2Proof.Machine Sys2Proof.Laws

/-! ### Requests among the port events -/

/-- The port event is a request. -/
def isRequest : PortEvent → Bool
  | .request _ => true
  | .emit _ => false

/-- Some requests, and then more for the indices after theirs. -/
theorem requestEvents_add (first m n : Nat) :
    requestEvents first (m + n) = requestEvents (first + m) n ++ requestEvents first m := by
  simp only [requestEvents, ← List.range'_append_1, List.map_append, List.reverse_append]

/-! ### Requests in order -/

/-- From `s` to `t` there are `n` requests, among other port events: for the indices after those of the requests made
before, in order, below the packed size, and none after an `End` (R84, R156). -/
structure Asks (n : Nat) (s t : State) : Prop where
  trace : t.trace = s.trace
  events : ∃ es, t.inFlight = es ++ s.inFlight ∧ es.filter isRequest = requestEvents s.reader.requestsMade n
  room : s.reader.requestsMade + n ≤ s.reader.packed.toNat
  ended : s.reader.endAt.isSome = true → n = 0

/-- The requests have been answered, so the reader counts them. -/
structure Answered (n : Nat) (s t : State) : Prop extends Asks n s t where
  counted : ReaderCounted t.reader
  made : t.reader.requestsMade = s.reader.requestsMade + n
  packed : t.reader.packed = s.reader.packed
  endStays : s.reader.endAt.isSome = true → t.reader.endAt.isSome = true

/-- A computation that began in `s` has asked in order: it comes to its end with every request answered, or to a stop,
where the last may not have been. -/
inductive AskedInOrder {α : Type} (s : State) : EStateM.Result Stop State α → Prop
  | ok (n : Nat) (a : α) (t : State) (h : Answered n s t) : AskedInOrder s (.ok a t)
  | error (n : Nat) (e : Stop) (t : State) (h : Asks n s t) : AskedInOrder s (.error e t)

theorem requestsMade_le {r : Reader} (h : ReaderCounted r) : r.requestsMade ≤ r.packed.toNat := by
  have hpacked := h.withinPacked
  unfold Reader.requestsMade
  cases he : r.endAt with
  | none => simpa using hpacked
  | some e =>
    obtain ⟨hcount, hlt⟩ := h.endLast e he
    simp only [Option.isSome_some, if_true]
    omega

/-- No request: the reader at most stands elsewhere, and no event is a request. -/
theorem answered_none {s t : State} {es : List PortEvent} (h : ReaderCounted s.reader) (htrace : t.trace = s.trace)
    (hreader : t.reader = { s.reader with pos := t.reader.pos }) (hflight : t.inFlight = es ++ s.inFlight)
    (hes : es.filter isRequest = []) : Answered 0 s t where
  trace := htrace
  events := ⟨es, hflight, hes⟩
  room := requestsMade_le h
  ended _ := rfl
  counted := by
    rw [hreader]
    exact ⟨h.counted, h.withinPacked, h.endLast⟩
  made := by
    rw [hreader]
    rfl
  packed := by rw [hreader]
  endStays he := by rwa [hreader]

theorem answered_refl {s : State} (h : ReaderCounted s.reader) : Answered 0 s s :=
  answered_none h rfl rfl (List.nil_append _).symm rfl

theorem Answered.asks_trans {m n : Nat} {s t u : State} (h : Answered m s t) (k : Asks n t u) : Asks (m + n) s u where
  trace := k.trace.trans h.trace
  events := by
    obtain ⟨es, hes, hreq⟩ := h.events
    obtain ⟨fs, hfs, kreq⟩ := k.events
    refine ⟨fs ++ es, by rw [hfs, hes, List.append_assoc], ?_⟩
    rw [List.filter_append, hreq, kreq, h.made, requestEvents_add]
  room := by
    have hroom := k.room
    rw [h.made, h.packed] at hroom
    omega
  ended he := by rw [h.ended he, k.ended (h.endStays he)]

theorem Answered.trans {m n : Nat} {s t u : State} (h : Answered m s t) (k : Answered n t u) : Answered (m + n) s u :=
  { h.asks_trans k.toAsks with
    counted := k.counted
    made := by rw [k.made, h.made, Nat.add_assoc]
    packed := k.packed.trans h.packed
    endStays := k.endStays ∘ h.endStays }

theorem Answered.inOrder {α : Type} {m : Nat} {s t : State} {x : EStateM.Result Stop State α} (h : Answered m s t)
    (hx : AskedInOrder t x) : AskedInOrder s x := by
  cases hx with
  | ok n a u k => exact .ok _ a u (h.trans k)
  | error n e u k => exact .error _ e u (h.asks_trans k)

theorem askedInOrder_bind {α β : Type} {m : Eng α} {f : α → Eng β} {s : State} (hm : AskedInOrder s (m s))
    (hf : ∀ a t, m s = .ok a t → ReaderCounted t.reader → AskedInOrder t (f a t)) :
    AskedInOrder s ((m >>= f) s) := by
  rw [eng_bind]
  generalize hx : m s = x at hm
  cases hm with
  | ok n a t h => exact h.inOrder (hf a t hx h.counted)
  | error n e t h => exact .error n e t h

/-! ### The port operations ask in order -/

/-- One request that the reader may make. -/
theorem requestByte_inOrder {n : Nat} {s : State} (h : MayRequest (n + 1) s.reader) :
    AskedInOrder s (requestByte s) := by
  obtain ⟨hcounted, hmay⟩ := h
  obtain ⟨hend, hroom⟩ := hmay.resolve_left (Nat.succ_ne_zero n)
  have hmade : s.reader.requestsMade = s.reader.inCount.toNat := by simp [Reader.requestsMade, hend]
  have hasks : ∀ t, t.trace = s.trace → t.inFlight = .request s.reader.inCount.toNat :: s.inFlight → Asks 1 s t :=
    fun t htrace hflight => ⟨htrace, ⟨[.request s.reader.inCount.toNat], hflight, by rw [hmade]; rfl⟩,
      by omega, by simp [hend]⟩
  cases hreq : requestByte s with
  | error e t =>
    rcases requestByte_cases s with ⟨-, hs⟩ | ⟨b, rest, -, hs⟩ | ⟨rest, -, hs⟩ | ⟨rest, -, hs⟩ <;>
      cases hreq.symm.trans hs
    · exact .error 1 _ _ (hasks _ rfl rfl)
    · exact .error 1 _ _ (hasks _ rfl rfl)
  | ok a t =>
    obtain ⟨-, hcounts⟩ := requestByte_ok hreq
    have hcounts := hcounts n ⟨hcounted, hmay⟩
    rcases requestByte_cases s with ⟨-, hs⟩ | ⟨b, rest, -, hs⟩ | ⟨rest, -, hs⟩ | ⟨rest, -, hs⟩ <;>
      cases hreq.symm.trans hs
    · rw [if_neg (by simp [hend])] at hcounts
      obtain ⟨⟨hcounted', -⟩, hcount⟩ := hcounts
      refine .ok 1 _ _ ⟨hasks _ rfl rfl, hcounted', ?_, rfl, id⟩
      rw [hmade, ← hcount]
      simp [Reader.requestsMade, hend]
    · exact .ok 1 _ _ ⟨hasks _ rfl rfl, hcounts, by rw [hmade]; rfl, rfl, fun _ => rfl⟩

theorem requestBytes_inOrder : ∀ (n : Nat) {s : State}, MayRequest n s.reader → AskedInOrder s (requestBytes n s)
  | 0, s, h => .ok 0 () s (answered_refl h.1)
  | n + 1, s, h => askedInOrder_bind (requestByte_inOrder h) fun a t ht hcounted => by
    have hmay := (requestByte_ok ht).2 n h
    rw [eng_bind, eng_get]
    dsimp only
    split
    case isTrue => exact .ok 0 () t (answered_refl hcounted)
    case isFalse hend =>
      rw [if_neg hend] at hmay
      exact requestBytes_inOrder n hmay.1

theorem fillLookAhead_inOrder {s : State} (h : ReaderCounted s.reader) : AskedInOrder s (fillLookAhead s) :=
  requestBytes_inOrder _ (mayRequest_target h)

theorem quiet_inOrder {α : Type} {m : Eng α} (hm : Quiet m) {s : State} (h : ReaderCounted s.reader) :
    AskedInOrder s (m s) := by
  have hsame : ∀ t, portSide t = portSide s → Answered 0 s t := fun t ht => by
    simp only [portSide, Prod.mk.injEq] at ht
    obtain ⟨hreader, -, -, hflight, htrace⟩ := ht
    exact answered_none h htrace (by rw [hreader]) (es := []) hflight rfl
  rcases hm s with ⟨a, t, hok, ht⟩ | ⟨c, t, herr, ht⟩
  · rw [hok]
    exact .ok 0 a t (hsame t ht)
  · rw [herr]
    exact .error 0 _ t (hsame t ht).toAsks

theorem emit_inOrder (b : Byte) {s : State} (h : ReaderCounted s.reader) : AskedInOrder s (emit b s) := by
  unfold emit
  split
  · exact .error 0 _ s (answered_refl h).toAsks
  · exact .ok 0 () _ (answered_none h rfl rfl (es := [.emit b]) rfl rfl)

/-- Whatever is made of the port operations asks in order. -/
theorem UsesPorts.inOrder {α : Type} {m : Eng α} (hm : UsesPorts m) :
    ∀ s : State, ReaderCounted s.reader → AskedInOrder s (m s) := by
  induction hm with
  | quiet hq => exact fun s h => quiet_inOrder hq h
  | movePos pos draws =>
    intro s h
    have hmoved : Answered 0 s { s with draws := draws s, reader := { s.reader with pos := pos s } } :=
      answered_none h rfl rfl (es := []) rfl rfl
    exact hmoved.inOrder (fillLookAhead_inOrder hmoved.counted)
  | emit b => exact fun s h => emit_inOrder b h
  | bind _ _ ihm ihf => exact fun s h => askedInOrder_bind (ihm s h) fun a t _ ht => ihf a t ht

/-! ### The obligation -/

/-- The port events of a command that has ended, as the statement of O55 has them. -/
def RequestsNext (s t : State) : Prop :=
  ∃ es n, t.trace = es ++ s.trace ∧ s.reader.inCount.toNat + n ≤ s.reader.packed.toNat ∧
    (s.reader.endAt.isSome = true → n = 0) ∧ es.filter isRequest = requestEvents s.reader.inCount.toNat n

/-- A command that has made no port event. -/
theorem requestsNext_none {s t : State} (h : s.reader.Inv) (ht : t.trace = s.trace) : RequestsNext s t :=
  ⟨[], 0, ht, h.withinPacked, fun _ => rfl, rfl⟩

/-- The requests of a body, once they have joined the trace. -/
theorem Asks.requestsNext {n : Nat} {s u t : State} (h : Asks n (issued s) u) (ht : t.trace = u.inFlight ++ u.trace) :
    RequestsNext s t := by
  obtain ⟨htrace, ⟨es, hes, hreq⟩, hroom, hended⟩ := h
  have hevents : t.trace = es ++ s.trace := by
    rw [ht, hes, htrace]
    exact congrArg (· ++ s.trace) (List.append_nil es)
  change s.reader.requestsMade + n ≤ s.reader.packed.toNat at hroom
  change s.reader.endAt.isSome = true → n = 0 at hended
  change es.filter isRequest = requestEvents s.reader.requestsMade n at hreq
  refine ⟨es, n, hevents, ?_, hended, ?_⟩
  · unfold Reader.requestsMade at hroom
    omega
  · cases hend : s.reader.endAt.isSome with
    | true =>
      rw [hended hend] at hreq ⊢
      exact hreq
    | false =>
      simpa [Reader.requestsMade, hend] using hreq

theorem command_requestsNext {legal : Bool} {allowed : EState → Bool} {body : Eng Unit} {s t : State}
    (hbody : UsesPorts body) (hinv : s.reader.Inv) (hbusy : s.cmd ≠ none)
    (h : command legal allowed body s = .next t) (ht : t.cmd = none) : RequestsNext s t := by
  have horder := hbody.inOrder (issued s) (readerInv_counted hinv)
  rcases command_cases h with ⟨-, rfl⟩ | ⟨-, -, rfl⟩ | ⟨-, -, ⟨u, hu, rfl⟩ | ⟨c, u, hu, rfl⟩ | ⟨u, -, rfl⟩⟩
  · exact requestsNext_none hinv rfl
  · exact requestsNext_none hinv rfl
  · rw [issued, hu] at horder
    cases horder with
    | ok n _ _ hasks => exact hasks.toAsks.requestsNext rfl
  · rw [issued, hu] at horder
    cases horder with
    | error n _ _ hasks => exact hasks.requestsNext rfl
  · exact absurd ht hbusy

/-- Settles O55: every body but those of BR_INIT, ENTRY_START and SOFT_RESET is made of the port operations
(`exec_usesPorts`), which ask in order (`UsesPorts.inOrder`), and SOFT_RESET has no port event. -/
theorem requestsInOrder : Obligations.RequestsInOrder := by
  unfold Obligations.RequestsInOrder
  intro s t i hinv hinit hstart hbusy h ht
  have hnext : RequestsNext s t := by
    by_cases hreset : i = .softReset
    · subst hreset
      cases h
      exact requestsNext_none hinv rfl
    · obtain ⟨body, hbody, huses⟩ := exec_usesPorts hinit hstart hreset
      rw [hbody] at h
      exact command_requestsNext huses hinv hbusy h ht
  obtain ⟨es, n, htrace, hroom, hended, hreq⟩ := hnext
  exact ⟨es, n, htrace, hroom, hended, (List.filter_congr fun e _ => by cases e <;> rfl).trans hreq⟩

end Sys2Proof.Proofs
end

section
/-! PROOFS. Decoding and encoding agree on every command and every word (O1, O2), and a latched word that is no
command's word fails (O3). -/

namespace Sys2Proof.Proofs

open Sys2Proof.Machine Sys2Proof.Laws

/-! ### The enumerated fields of a word, as bits -/

theorem extract_tBit (w : Word) : w.extractLsb' 23 1 = tBit (tField w) := by
  unfold tField
  generalize w.extractLsb' 23 1 = b
  revert b
  decide

theorem extract_dBit (w : Word) : w.extractLsb' 22 1 = dBit (dField w) := by
  unfold dField
  generalize w.extractLsb' 22 1 = b
  revert b
  decide

theorem extract_readyBit (w : Word) : w.extractLsb' 16 1 = readyBit (readyField w) := by
  unfold readyField
  generalize w.extractLsb' 16 1 = b
  revert b
  decide

theorem dynFieldBits_dynFieldOf : ∀ f : BitVec 3, f = dynFieldBits (dynFieldOf f) := by
  decide

/-! ### A word is what its format makes of its fields

A format is a word's fields in a row, with zeros for the reserved ones. Where the word's reserved bits are 0, its
adjacent fields join, from the opcode down, until the row is the whole word. -/

section Formats

variable {w : Word} {op : BitVec 8}

/-- Two adjacent fields of a word are one field. -/
theorem extract_join {a b m n : Nat} {x : BitVec m} {y : BitVec n} (hx : w.extractLsb' b m = x)
    (hy : w.extractLsb' a n = y) (hab : b = a + n := by rfl) : w.extractLsb' a (m + n) = x ++ y := by
  subst hx hy
  exact (BitVec.extractLsb'_append_extractLsb'_eq_extractLsb' hab).symm

/-- A field and the `n` bits below it, from bit `a` up, which hold whatever they hold. -/
theorem extract_below {b m : Nat} {x : BitVec m} (a n : Nat) (hx : w.extractLsb' b m = x)
    (hab : b = a + n := by rfl) : w.extractLsb' a (m + n) = x ++ w.extractLsb' a n :=
  extract_join hx rfl hab

theorem eq_of_extract {x : Word} (h : w.extractLsb' 0 32 = x) : w = x :=
  BitVec.extractLsb'_eq_self.symm.trans h

/-- The reserved bits of a format that has two groups of them. -/
theorem append_eq_zero {m n : Nat} {a : BitVec m} {b : BitVec n} (h : a ++ b = 0#(m + n)) : a = 0#m ∧ b = 0#n :=
  ⟨by simpa [BitVec.extractLsb'_append_eq_left] using congrArg (BitVec.extractLsb' n m) h,
    by simpa [BitVec.extractLsb'_append_eq_right] using congrArg (BitVec.extractLsb' 0 n) h⟩

theorem eq_formF0 (hop : opField w = op) (hrest : w.extractLsb' 0 24 = 0#24) : w = formF0 op :=
  eq_of_extract (extract_join hop hrest)

theorem eq_formLow5 (hop : opField w = op) (hrest : w.extractLsb' 5 19 = 0#19) :
    w = formLow5 op (w.extractLsb' 0 5) :=
  eq_of_extract (extract_below 0 5 (extract_join hop hrest))

theorem eq_formFB (hop : opField w = op) (hrest : w.extractLsb' 8 16 = 0#16) :
    w = formFB op (w.extractLsb' 0 8) :=
  eq_of_extract (extract_below 0 8 (extract_join hop hrest))

theorem eq_formFM (hop : opField w = op) (hrest : w.extractLsb' 3 21 = 0#21) :
    w = formFM op (w.extractLsb' 0 3) :=
  eq_of_extract (extract_below 0 3 (extract_join hop hrest))

theorem eq_formFT (hop : opField w = op) (hrest : w.extractLsb' 0 23 = 0#23) : w = formFT op (tField w) :=
  eq_of_extract (extract_join (extract_join hop (extract_tBit w)) hrest)

theorem eq_formFL (hop : opField w = op) (hrest : w.extractLsb' 21 2 ++ w.extractLsb' 5 7 = 0#9) :
    w = formFL op (tField w) (w.extractLsb' 12 9) (w.extractLsb' 0 5) := by
  obtain ⟨hhigh, hlow⟩ := append_eq_zero hrest
  have htop := extract_below 12 9 (extract_join (extract_join hop (extract_tBit w)) hhigh)
  exact eq_of_extract (extract_below 0 5 (extract_join htop hlow))

theorem eq_formFA (hop : opField w = op) (hrest : w.extractLsb' 21 2 ++ w.extractLsb' 9 3 = 0#5) :
    w = formFA op (tField w) (w.extractLsb' 12 9) (w.extractLsb' 0 9) := by
  obtain ⟨hhigh, hlow⟩ := append_eq_zero hrest
  have htop := extract_below 12 9 (extract_join (extract_join hop (extract_tBit w)) hhigh)
  exact eq_of_extract (extract_below 0 9 (extract_join htop hlow))

theorem eq_formFI (hop : opField w = op) (hrest : w.extractLsb' 12 11 = 0#11) :
    w = formFI op (tField w) (w.extractLsb' 0 12) :=
  eq_of_extract (extract_below 0 12 (extract_join (extract_join hop (extract_tBit w)) hrest))

theorem eq_formFR (hop : opField w = op) (hrest : w.extractLsb' 10 12 = 0#12) :
    w = formFR op (tField w) (dField w) (w.extractLsb' 0 10) :=
  have htop := extract_join (extract_join hop (extract_tBit w)) (extract_dBit w)
  eq_of_extract (extract_below 0 10 (extract_join htop hrest))

theorem eq_formFRM (hop : opField w = op) (hrest : w.extractLsb' 17 7 ++ w.extractLsb' 8 8 = 0#15) :
    w = formFRM op (readyField w) (w.extractLsb' 0 8) := by
  obtain ⟨hhigh, hlow⟩ := append_eq_zero hrest
  have htop := extract_join (extract_join hop hhigh) (extract_readyBit w)
  exact eq_of_extract (extract_below 0 8 (extract_join htop hlow))

theorem eq_formFP (hop : opField w = op) (hrest : w.extractLsb' 21 3 ++ w.extractLsb' 4 4 = 0#7) :
    w = formFP op (w.extractLsb' 12 9) (w.extractLsb' 8 4) (w.extractLsb' 0 4) := by
  obtain ⟨hhigh, hlow⟩ := append_eq_zero hrest
  have htop := extract_below 8 4 (extract_below 12 9 (extract_join hop hhigh))
  exact eq_of_extract (extract_below 0 4 (extract_join htop hlow))

theorem eq_formFS9 (hop : opField w = op) (hrest : w.extractLsb' 9 15 = 0#15) :
    w = formFS9 op (w.extractLsb' 0 9) :=
  eq_of_extract (extract_below 0 9 (extract_join hop hrest))

theorem eq_formFS7 (hop : opField w = op) (hrest : w.extractLsb' 7 17 = 0#17) :
    w = formFS7 op (w.extractLsb' 0 7) :=
  eq_of_extract (extract_below 0 7 (extract_join hop hrest))

theorem eq_formFDR (hop : opField w = op) (hrest : w.extractLsb' 10 11 = 0#11) :
    w = formFDR op (dynFieldOf (w.extractLsb' 21 3)) (w.extractLsb' 0 10) :=
  eq_of_extract (extract_below 0 10 (extract_join (extract_join hop (dynFieldBits_dynFieldOf _)) hrest))

theorem eq_formFX (hop : opField w = op) (hrest : w.extractLsb' 16 8 = 0#8) :
    w = formFX op (w.extractLsb' 0 16) :=
  eq_of_extract (extract_below 0 16 (extract_join hop hrest))

/-- A branch of the decoder whose fields, in its format, are the word. -/
theorem encode_of_whenZero {n : Nat} {rest : BitVec n} {i j : Instr} (h : whenZero rest i = .ok j)
    (hform : opField w = op → rest = 0#n → w = encode i) (hop : (opField w).toNat = op.toNat) : w = encode j := by
  unfold whenZero at h
  split at h
  next hrest =>
    cases h
    exact hform (BitVec.eq_of_toNat_eq hop) hrest
  next => cases h

end Formats

/-! ### Decoding -/

/-- The decoder's fields of a command's word are the command's operands, format by format (Laws/Forms). -/
theorem decode_encode (i : Instr) : decode (encode i) = .ok i := by
  cases i <;> simp [encode, decode, whenZero, tField, dField, readyField]

/-- One case for each row of the opcode map, in its order, the rows of one format together. -/
theorem encode_of_decode {w : Word} {i : Instr} (h : decode w = .ok i) : w = encode i := by
  unfold decode at h
  split at h
  case h_1 hop | h_2 hop | h_3 hop | h_4 hop | h_5 hop | h_6 hop | h_7 hop | h_8 hop | h_9 hop | h_10 hop |
      h_28 hop | h_29 hop | h_30 hop | h_33 hop | h_34 hop | h_43 hop =>
    exact encode_of_whenZero h eq_formF0 hop
  case h_11 hop | h_12 hop | h_13 hop | h_31 hop | h_32 hop | h_37 hop | h_40 hop =>
    exact encode_of_whenZero h eq_formLow5 hop
  case h_14 hop | h_15 hop | h_16 hop | h_41 hop => exact encode_of_whenZero h eq_formFB hop
  case h_17 hop => exact encode_of_whenZero h eq_formFM hop
  case h_18 hop | h_23 hop => exact encode_of_whenZero h eq_formFT hop
  case h_19 hop | h_20 hop => exact encode_of_whenZero h eq_formFL hop
  case h_21 hop | h_22 hop => exact encode_of_whenZero h eq_formFA hop
  case h_24 hop => exact encode_of_whenZero h eq_formFI hop
  case h_25 hop => exact encode_of_whenZero h eq_formFR hop
  case h_26 hop => exact encode_of_whenZero h eq_formFRM hop
  case h_27 hop => exact encode_of_whenZero h eq_formFP hop
  case h_35 hop | h_42 hop => exact encode_of_whenZero h eq_formFS9 hop
  case h_36 hop | h_38 hop => exact encode_of_whenZero h eq_formFS7 hop
  case h_39 hop => exact encode_of_whenZero h eq_formFDR hop
  case h_44 hop => exact encode_of_whenZero h eq_formFX hop
  case h_45 => cases h

theorem decode_eq_ok_iff {w : Word} {i : Instr} : decode w = .ok i ↔ w = encode i := by
  constructor
  · exact encode_of_decode
  · rintro rfl
    exact decode_encode i

/-- Settles O1: `encode_of_decode` and `decode_encode`. -/
theorem decodeMatchesEncode : Obligations.DecodeMatchesEncode := by
  unfold Obligations.DecodeMatchesEncode
  exact fun _ _ => decode_eq_ok_iff

/-- Settles O2: by O1 it is enough that each word is its command's. -/
theorem specWordsDecode : Obligations.SpecWordsDecode := by
  unfold Obligations.SpecWordsDecode
  simp only [decode_eq_ok_iff]
  decide

/-! ### Reserved opcodes -/

theorem whenZero_ne_badOpcode {n : Nat} (rest : BitVec n) (i : Instr) : whenZero rest i ≠ .error .badOpcode := by
  unfold whenZero
  split <;> exact fun h => nomatch h

/-- The reserved opcodes (R121). -/
def ReservedOpcode (op : Nat) : Prop :=
  (0x09 ≤ op ∧ op ≤ 0x0F) ∨ (0x14 ≤ op ∧ op ≤ 0x17) ∨ (0x1C ≤ op ∧ op ≤ 0x1F) ∨ (0x2D ≤ op ∧ op ≤ 0x2F) ∨
    (0x39 ≤ op ∧ op ≤ 0x3F) ∨ 0x45 ≤ op

/-- Whether a word fails with BAD_OPCODE depends on its opcode alone. -/
theorem decode_badOpcode_iff (w : Word) : decode w = .error .badOpcode ↔ ReservedOpcode (opField w).toNat := by
  unfold decode ReservedOpcode
  split
  case h_45 =>
    simp only [true_iff, imp_false] at *
    omega
  all_goals
    simp only [whenZero_ne_badOpcode, false_iff]
    omega

theorem opcode_not_reserved (i : Instr) : ¬ ReservedOpcode (opField (encode i)).toNat := by
  rw [← decode_badOpcode_iff, decode_encode]
  exact fun h => nomatch h

/-! ### The verdict on a word (R123), and what the engine makes of it -/

theorem verdict_of_reserved {w : Word} (h : ReservedOpcode (opField w).toNat) : verdict w = .error .badOpcode := by
  rw [verdict, (decode_badOpcode_iff w).mpr h]

/-- A command's opcode, but no well-formed command's word. -/
theorem verdict_of_not_wellFormed {w : Word} {i : Instr} (hop : opField w = opField (encode i))
    (hword : ∀ j : Instr, j.WellFormed → w ≠ encode j) : verdict w = .error .badOperand := by
  unfold verdict
  split
  next e he =>
    cases e with
    | badOpcode =>
      rw [decode_badOpcode_iff, hop] at he
      exact absurd he (opcode_not_reserved i)
    | badOperand => rfl
  next j hj => exact if_neg fun hlegal => hword j hlegal (encode_of_decode hj)

theorem exec_of_illegal {i : Instr} (hi : operandsLegal i = false) (s : State) :
    exec i s = .next ((s.failedWith .badOperand).ended []) := by
  obtain ⟨body, hbody⟩ := exec_command i
  rw [hbody, hi, command_illegal]
  rfl

/-- A word that is no command fails with the verdict's code. -/
theorem runWord_of_verdict_error {w : Word} {e : DecodeError} (h : verdict w = .error e) (s : State) :
    runWord w s = .next ((s.failedWith (decodeErr e)).ended []) := by
  unfold verdict at h
  unfold runWord
  cases hw : decode w with
  | error e' =>
    rw [hw] at h
    cases h
    rfl
  | ok i =>
    simp only [hw] at h
    split at h
    next => cases h
    next hi =>
      cases h
      exact exec_of_illegal (Bool.eq_false_iff.mpr hi) s

theorem step_latched {s : State} {w : Word} (hsched : s.schedule = []) (hcmd : s.cmd = some w) :
    step s = runWord w s := by
  simp only [step, hsched, engineMove, hcmd]

/-- Settles O3: in both cases the verdict on the word is the failure. -/
theorem nonCommandWordsFail : Obligations.NonCommandWordsFail := by
  unfold Obligations.NonCommandWordsFail
  refine ⟨fun s w hsched hcmd hreserved => ?_, fun s w hsched hcmd ⟨i, hop⟩ hword => ?_⟩
  · rw [step_latched hsched hcmd]
    exact runWord_of_verdict_error (verdict_of_reserved hreserved) s
  · rw [step_latched hsched hcmd]
    exact runWord_of_verdict_error (verdict_of_not_wellFormed hop hword) s

end Sys2Proof.Proofs
end

section
/-! PROOFS. BR_INIT, BR_SKIP and BR_GET with their requests (O24). -/

namespace Sys2Proof.Proofs

open Sys2Proof.Machine Sys2Proof.Laws

/-- A computation goes on from where its first part ends. -/
theorem bind_of_ok {α β : Type} {m : Eng α} {f : α → Eng β} {s t : State} {a : α} (h : m s = .ok a t) :
    (m >>= f) s = f a t := by
  rw [eng_bind, h]

/-- `Consume` with a source that answers the requests of R156's look-ahead with bytes: they are received, in order
(R153, R156). -/
theorem consume_received {s : State} {n : Nat} {bs : List Byte} {rest : List Answer} (hend : s.reader.endAt = none)
    (hs : s.source = byteAnswers bs ++ rest)
    (hcount : s.reader.inCount.toNat + bs.length =
      min s.reader.packed.toNat (((s.reader.advance n).pos.toNat + 16 + 7) / 8)) :
    consume n s = .ok () { s with
      reader := (s.reader.advance n).receive bs
      source := rest
      inFlight := requestEvents s.reader.inCount.toNat bs.length ++ s.inFlight } := by
  have hmissing : (s.reader.advance n).requestTarget - (s.reader.advance n).requestsMade = bs.length := by
    simp only [Reader.requestTarget, Reader.requestsMade, Reader.advance, hend] at hcount ⊢
    simp only [Option.isSome_none, Bool.false_eq_true, if_false]
    omega
  have hfits : s.reader.inCount.toNat + bs.length < 2 ^ 64 := by
    have hpacked := s.reader.packed.isLt
    omega
  calc consume n s = requestBytes bs.length (s.skipped n) := congrArg (requestBytes · (s.skipped n)) hmissing
    _ = _ := requestBytes_received bs (s.skipped n) hs hend hfits

theorem getBits_of_consume {s t : State} {n : Nat} (hn : n ≤ 16) (h : consume n s = .ok () t) :
    getBits n s = .ok (s.reader.peek n) t := by
  simp [getBits, hn, h]

/-- BR_SKIP and BR_GET where `Consume` ends in `u`, but for the port events `es` that it made (R158, R159). -/
theorem exec_brSkip_brGet {s u : State} {n : BitVec 5} {es : List PortEvent} (he : s.estate ≠ .failed)
    (hr : s.reader.valid = true) (hn : n.toNat ≤ 16)
    (hconsume : consume n.toNat (issued s) = .ok () { u with inFlight := es }) :
    exec (.brSkip n) s = .next (u.ended es) ∧
    exec (.brGet n) s = .next ({ u with result := BitVec.ofNat 32 (s.reader.peek n.toNat) }.ended es) := by
  have hready : requireReader (issued s) = .ok () (issued s) := eng_require_true hr
  have hget := getBits_of_consume hn hconsume
  exact ⟨(exec_brSkip he hr hn).trans (congrArg (settle s) hconsume), command_ended _ es (decide_eq_true hn)
    (notInFailed_iff.mpr he) ((bind_of_ok hready).trans (bind_of_ok hget))⟩

/-- Settles O24: the commands are `Consume` and BR_INIT's start, on a source that answers each request with a byte
(`consume_received`, `brInit_received`) or on a drained reader, which requests nothing (`consume_drained`). -/
theorem bitReaderCommands : Obligations.BitReaderCommands := by
  unfold Obligations.BitReaderCommands
  refine ⟨fun s n he hr hn => ⟨fun bs rest hend hs hcount => ?_, fun hdrained => ?_⟩, fun s bs rest he hl hs => ?_⟩
  · have hconsume := consume_received (s := issued s) hend hs hcount
    rw [issued, List.append_nil] at hconsume
    exact exec_brSkip_brGet
      (u := { s with reader := (s.reader.advance n.toNat).receive bs, source := rest }) he hr hn hconsume
  · exact exec_brSkip_brGet (u := s.skipped n.toNat) he hr hn (consume_drained (s := issued s) hdrained n.toNat)
  · have hinit := brInit_received (s := issued s) hl hs
    rw [issued, List.append_nil] at hinit
    exact command_ended { s with reader := startedReader s.packedSize bs, source := rest } _ rfl
      (notInFailed_iff.mpr he) hinit

end Sys2Proof.Proofs
end

section
/-! PROOFS. RUN of a stored entry emits the next bytes of the stream, and closes the entry (O21). -/

namespace Sys2Proof.Proofs

open Sys2Proof.Machine Sys2Proof.Laws

/-! ### The bytes of the stream -/

/-- The `n` bytes of the stream from bit `k` on, zeros past the end included (R151). -/
def streamBytes (r : Reader) (k n : Nat) : List Byte :=
  (List.range n).map fun j => BitVec.ofNat 8 (r.bitsAt (k + 8 * j) 8)

@[simp] theorem streamBytes_length (r : Reader) (k n : Nat) : (streamBytes r k n).length = n := by
  simp [streamBytes]

theorem streamBytes_succ (r : Reader) (k n : Nat) :
    streamBytes r k (n + 1) = BitVec.ofNat 8 (r.bitsAt k 8) :: streamBytes r (k + 8) n := by
  simp [streamBytes, List.range_succ_eq_map, Nat.mul_add, Nat.add_assoc, Nat.add_comm 8]

/-- The stream is the same wherever the reader stands in it. -/
@[simp] theorem bitsAt_advance (r : Reader) (m : Nat) : ∀ n k : Nat, (r.advance m).bitsAt k n = r.bitsAt k n
  | 0, _ => rfl
  | n + 1, k => congrArg ((if r.bit k then 2 ^ n else 0) + ·) (bitsAt_advance r m n (k + 1))

@[simp] theorem streamBytes_advance (r : Reader) (m k n : Nat) :
    streamBytes (r.advance m) k n = streamBytes r k n := by
  simp [streamBytes]

theorem advance_pos {r : Reader} {n : Nat} (h : r.pos.toNat + n < 2 ^ 64) :
    (r.advance n).pos.toNat = r.pos.toNat + n := by
  simp only [Reader.advance, BitVec.toNat_add, BitVec.toNat_ofNat]
  omega

/-! ### The stored copy -/

/-- `n` bytes further on in the stream and in DECODE_COUNT, with these port events (R342). -/
def bytesOn (s : State) (n : Nat) (es : List PortEvent) : State :=
  { s.skipped (8 * n) with decodeCount := s.decodeCount + BitVec.ofNat 64 n, inFlight := es ++ s.inFlight }

theorem bytesOn_bytesOn (s : State) (m n : Nat) (es fs : List PortEvent) :
    bytesOn (bytesOn s m es) n fs = bytesOn s (m + n) (fs ++ es) := by
  have hskip : (s.reader.advance (8 * m)).advance (8 * n) = s.reader.advance (8 * (m + n)) := by
    rw [advance_advance, Nat.mul_add]
  have hcount : s.decodeCount + BitVec.ofNat 64 m + BitVec.ofNat 64 n = s.decodeCount + BitVec.ofNat 64 (m + n) := by
    rw [BitVec.ofNat_add, BitVec.add_assoc]
  simp only [bytesOn, State.skipped, hskip, hcount, List.append_assoc]

/-- What is emitted goes to no part that the reader or the count is in. -/
theorem bytesOn_emitted (s : State) (bs : List Byte) (n : Nat) (es : List PortEvent) :
    bytesOn (s.emitted bs) n es = (bytesOn s n es).emitted bs := rfl

/-- The state in which the stored copy has read, emitted and counted these bytes (R342). -/
def storedCopied (s : State) (bs : List Byte) : State := (bytesOn s bs.length (emitEvents bs)).emitted bs

theorem storedCopied_nil (s : State) : storedCopied s [] = s := by
  simp [storedCopied, bytesOn, State.skipped, Reader.advance]

theorem storedCopied_cons (s : State) (b : Byte) (bs : List Byte) :
    storedCopied (storedCopied s [b]) bs = storedCopied s (b :: bs) := by
  have hlen : [b].length + bs.length = (b :: bs).length := Nat.add_comm 1 bs.length
  rw [storedCopied, storedCopied, bytesOn_emitted, emitted_append, bytesOn_bytesOn, hlen, storedCopied,
    emitEvents_cons b bs]
  rfl

/-- One turn of the stored copy (R342). -/
theorem copyStored_succ {s : State} (hvalid : s.reader.valid = true) (hdrained : s.reader.drained)
    (hsink : s.sinkRoom = none) (n : Nat) :
    copyStored (n + 1) s = copyStored n (storedCopied s [BitVec.ofNat 8 (s.reader.peek 8)]) := by
  have hready : requireReader s = .ok () s := eng_require_true hvalid
  have hbits : getBits 8 s = .ok (s.reader.peek 8) (s.skipped 8) := getBits_drained hdrained (by decide)
  have hemit := emit_open (s := s.skipped 8) hsink (BitVec.ofNat 8 (s.reader.peek 8))
  exact (bind_of_ok hready).trans ((bind_of_ok hbits).trans (bind_of_ok hemit))

/-- The stored copy to a sink that takes every byte (R342). -/
theorem copyStored_open : ∀ (n : Nat) (s : State), s.reader.valid = true → s.reader.drained → s.sinkRoom = none →
    s.reader.pos.toNat + 8 * n < 2 ^ 64 →
    copyStored n s = .ok () (storedCopied s (streamBytes s.reader s.reader.pos.toNat n))
  | 0, s, _, _, _, _ => congrArg (EStateM.Result.ok ()) (storedCopied_nil s).symm
  | n + 1, s, hvalid, hdrained, hsink, hpos => by
    have hnext : (s.reader.advance 8).pos.toNat = s.reader.pos.toNat + 8 := advance_pos (by omega)
    have hreader (b : Byte) : (storedCopied s [b]).reader = s.reader.advance 8 := rfl
    have hrest (b : Byte) : copyStored n (storedCopied s [b]) =
        .ok () (storedCopied (storedCopied s [b]) (streamBytes s.reader (s.reader.pos.toNat + 8) n)) := by
      rw [copyStored_open n (storedCopied s [b]) hvalid hdrained hsink (by rw [hreader, hnext]; omega), hreader, hnext,
        streamBytes_advance]
    rw [copyStored_succ hvalid hdrained hsink, hrest, storedCopied_cons, streamBytes_succ]
    rfl

/-- The bytes up to ORIG_SIZE do not bring DECODE_COUNT past it. -/
theorem overrun_counted (o d : Count) :
    decide (o < d + BitVec.ofNat 64 (o.toNat - d.toNat)) = decide (o.toNat < d.toNat) := by
  have ho := o.isLt
  have hd := d.isLt
  refine decide_eq_decide.mpr (BitVec.lt_def.trans ?_)
  rw [BitVec.toNat_add, BitVec.toNat_ofNat]
  omega

/-- Settles O21: the loop emits `streamBytes` from BR_POS on (`copyStored_open`), and the end of the entry compares the
counts (`overrun_counted`). -/
theorem runCopiesStoredEntry : Obligations.RunCopiesStoredEntry := by
  unfold Obligations.RunCopiesStoredEntry
  intro s n bs he hm hvalid hdrained hsink hn hpos hbs
  have hlen : bs.length = n := (congrArg List.length hbs).trans (streamBytes_length _ _ n)
  have hcopy : copyStored n (issued s) = .ok () (storedCopied (issued s) bs) :=
    hbs ▸ copyStored_open n (issued s) hvalid hdrained hsink hpos
  have hwork : runWork (issued s) = .ok () (storedCopied (issued s) bs) :=
    (bind_of_ok (eng_get _)).trans ((congrFun (if_pos (storedEntry_eq_true hm)) _).trans (hn ▸ hcopy))
  have hover : decide (s.origSize < s.decodeCount + BitVec.ofNat 64 bs.length) =
      decide (s.origSize.toNat < s.decodeCount.toNat) := by
    rw [hlen, hn]
    exact overrun_counted _ _
  rw [← hlen, ← hover]
  refine command_ended _ _ rfl (congrArg inActive he) ?_
  rw [runEntry_eq]
  refine (bind_of_ok hwork).trans ?_
  rw [closeEntry, eng_modify, ← List.append_nil (emitEvents bs)]
  rfl

end Sys2Proof.Proofs
end

section
/-! PROOFS. The checksum update functions as iterated rounds, and the checksum commands (O26). -/

namespace Sys2Proof.Proofs

open Sys2Proof.Machine Sys2Proof.Laws

/-! ### The update functions -/

theorem crc16Rounds_eq_iterate : ∀ (n : Nat) (c : BitVec 16), crc16Rounds n c = crc16Round^[n] c
  | 0, _ => rfl
  | n + 1, c => crc16Rounds_eq_iterate n (crc16Round c)

theorem crc32Rounds_eq_iterate : ∀ (n : Nat) (c : BitVec 32), crc32Rounds n c = crc32Round^[n] c
  | 0, _ => rfl
  | n + 1, c => crc32Rounds_eq_iterate n (crc32Round c)

theorem crc16Update_eq_iterate (c : BitVec 16) (b : Byte) :
    crc16Update c b = crc16Round^[8] (c ^^^ b.zeroExtend 16) :=
  crc16Rounds_eq_iterate 8 _

theorem crc32Update_eq_iterate (c : BitVec 32) (b : Byte) :
    crc32Update c b = ~~~ (crc32Round^[8] (~~~ c ^^^ b.zeroExtend 32)) :=
  congrArg (~~~ ·) (crc32Rounds_eq_iterate 8 _)

/-- The ASCII bytes "123456789", of which R173 and R175 give the check values. -/
def checkBytes : List Byte :=
  [0x31#8, 0x32#8, 0x33#8, 0x34#8, 0x35#8, 0x36#8, 0x37#8, 0x38#8, 0x39#8]

theorem crc16_checkBytes : checkBytes.foldl crc16Update 0#16 = 0xBB3D#16 := by
  simp [checkBytes, crc16Update, crc16Rounds, crc16Round]

theorem crc32_checkBytes : checkBytes.foldl crc32Update 0#32 = 0xCBF43926#32 := by
  simp [checkBytes, crc32Update, crc32Rounds, crc32Round]

/-! ### The commands -/

section Commands

variable {s : State} (he : s.estate ≠ .failed)

include he

/-- A legal command that FAILED alone bars and that is one write `f` of the state, ends with that write done. -/
theorem command_modify {f : State → State} (u : State) (hf : f { s with inFlight := [] } = { u with inFlight := [] }) :
    command true notInFailed (modify f) s = .next (u.ended []) :=
  command_ended u [] rfl (notInFailed_iff.mpr he) (congrArg (EStateM.Result.ok ()) hf)

theorem exec_crc16Byte (b : Byte) :
    exec (.crc16Byte b) s = .next ({ s with crc16 := crc16Update s.crc16 b }.ended []) :=
  command_modify he _ rfl

theorem exec_crc32Byte (b : Byte) :
    exec (.crc32Byte b) s = .next ({ s with crc32 := crc32Update s.crc32 b }.ended []) :=
  command_modify he _ rfl

theorem exec_sumByte (b : Byte) : exec (.sumByte b) s = .next ({ s with sum8 := s.sum8 + b }.ended []) :=
  command_modify he _ rfl

theorem exec_ckClear (m : BitVec 3) :
    exec (.ckClear m) s = .next ({ s with
      crc16 := if m.getLsbD 0 then 0#16 else s.crc16
      crc32 := if m.getLsbD 1 then 0#32 else s.crc32
      sum8 := if m.getLsbD 2 then 0#8 else s.sum8 }.ended []) :=
  command_modify he _ rfl

end Commands

/-- Settles O26: the rounds of an update are the iterates of its one round, and each command is one write of the state
(`command_modify`). -/
theorem checksumCommands : Obligations.ChecksumCommands := by
  unfold Obligations.ChecksumCommands
  exact ⟨crc16Update_eq_iterate, crc32Update_eq_iterate, ⟨crc16_checkBytes, crc32_checkBytes⟩,
    fun _ he => ⟨exec_crc16Byte he, exec_crc32Byte he, exec_sumByte he, exec_ckClear he⟩⟩

end Sys2Proof.Proofs
end

section
/-! PROOFS. The checks that a command's pseudocode makes on its operands once its required flag is seen (O13). -/

namespace Sys2Proof.Proofs

open Sys2Proof.Machine Sys2Proof.Laws

/-- A command whose required flag is set and whose check of its operands then fails: nothing has changed yet (R404). -/
theorem command_check_fails {legal : Bool} {p bad : State → Bool} {code : ErrCode} {rest : State → Eng Unit} {s : State}
    (hl : legal = true) (he : s.estate ≠ .failed) (hp : p (issued s) = true) (hbad : bad (issued s) = true) :
    ∃ u, command legal notInFailed (do require p; let t ← get; raiseIf (bad t) code; rest t) s = .next u ∧
      s.RefusedAs u code := by
  refine command_refusedAs hl (notInFailed_iff.mpr he) ?_
  have hcheck : (raiseIf (bad (issued s)) code >>= fun _ => rest (issued s)) (issued s) =
      .error (.raise code) (issued s) := by
    rw [hbad]
    rfl
  exact (bind_of_ok (eng_require_true hp)).trans hcheck

theorem hasNode_iff {a : Arena} {i : Nat} :
    a.hasNode i = true ↔ i + 2 ≤ 2 * a.nMax.toNat ∨ 628 ≤ i ∧ i ≤ a.mostP.toNat := by
  simp only [Arena.hasNode, Bool.or_eq_true, Bool.and_eq_true, decide_eq_true_eq]
  rfl

/-- The nodes that R283 does not let DYN_READ read. -/
theorem dynReadLegal_eq_false {a : Arena} {f : DynField} {i : BitVec 10} (hf : f = .freq ∨ f = .child ∨ f = .parent)
    (h : ¬(i.toNat + 2 ≤ 2 * a.nMax.toNat ∨ 628 ≤ i.toNat ∧ i.toNat ≤ a.mostP.toNat) ∨
      f = .parent ∧ (i = 0#10 ∨ i = 628#10)) : dynReadLegal f i.toNat a = false := by
  rcases h with hnode | ⟨rfl, hroot⟩
  · have hnone : a.hasNode i.toNat = false := Bool.eq_false_iff.mpr (mt hasNode_iff.mp hnode)
    rcases hf with rfl | rfl | rfl <;> simp [dynReadLegal, hnone]
  · rcases hroot with rfl | rfl <;> simp [dynReadLegal, rootC, rootP]

/-- The symbols whose leaf R283 lets DYN_READ read. -/
theorem dynReadLegal_sNode_iff {a : Arena} {i : Nat} : dynReadLegal .sNode i a = true ↔
    i < a.nMax.toNat ∨ 314 ≤ i ∧ i ≤ 314 + (a.mostP.toNat - 628) / 2 := by
  simp only [dynReadLegal, Bool.or_eq_true, Bool.and_eq_true, decide_eq_true_eq]
  rfl

/-- WIN_MATCH's distance is ARG[16:0] (R304). -/
theorem argDistance_eq (s : State) : s.argDistance = s.arg.toNat % 2 ^ 17 := by
  simp [State.argDistance, BitVec.extractLsb'_toNat]

/-- Settles O13: HT_FILL and the other commands each come to their one check before they have changed anything
(`command_check_fails`), and the operand fails it. -/
theorem executionChecksFail : Obligations.ExecutionChecksFail := by
  unfold Obligations.ExecutionChecksFail
  intro s he
  refine ⟨fun t c x hl hx => ?htFill, fun t d i hl hv hi => ?treeRead, fun x hl hv hx => ?updateC,
    fun x hv hx => ?updateP, fun hv hm => ?reconst, fun x hv hx => ?newNode, fun f i hf hi hv h => ?readNode,
    fun i hi hv h => ?readSNode, fun x hv hd => ?winMatch, fun i hv hi => ?winRead⟩
  case htFill =>
    refine command_refusedAs hl (notInFailed_iff.mpr he) ?_
    simp [htFill, updateTab, hx]
  case treeRead =>
    have hbad : (decide (i.toNat < (s.tab t).nchar.toNat) || decide ((s.tab t).avail.toNat ≤ i.toNat)) = true := by
      simpa using hi
    cases t <;> exact command_check_fails
      (bad := fun u => decide (i.toNat < (u.tab _).nchar.toNat) || decide ((u.tab _).avail.toNat ≤ i.toNat)) hl he hv hbad
  case updateC => exact command_check_fails (bad := fun u => decide (u.arena.nMax.toNat ≤ x.toNat)) hl he hv (decide_eq_true hx)
  case updateP => exact command_check_fails (bad := fun u => decide (u.arena.lastPosition < x.toNat)) rfl he hv (decide_eq_true hx)
  case reconst =>
    exact command_check_fails (bad := fun u => decide (u.arena.mostP.toNat = rootP)) rfl he hv
      (decide_eq_true (congrArg BitVec.toNat hm))
  case newNode =>
    exact command_check_fails (bad := fun u => decide (x.toNat ≠ u.arena.lastPosition + 1)) rfl he hv (decide_eq_true hx)
  case readNode =>
    have hflag : dynReadFlag f i.toNat s.arena = true := by
      rcases hf with rfl | rfl | rfl <;> exact hv
    have hlegal : operandsLegal (.dynRead f i) = true := by
      rcases hf with rfl | rfl | rfl <;> exact decide_eq_true hi
    exact command_check_fails (bad := fun u => !dynReadLegal f i.toNat u.arena) hlegal he hflag
      (congrArg not (dynReadLegal_eq_false hf h))
  case readSNode =>
    exact command_check_fails (bad := fun u => !dynReadLegal .sNode i.toNat u.arena) (decide_eq_true hi) he hv
      (congrArg not (Bool.eq_false_iff.mpr (mt dynReadLegal_sNode_iff.mp h)))
  case winMatch =>
    have hbad : (decide (s.argDistance = 0) || decide (65536 < s.argDistance)) = true := by
      rw [argDistance_eq]
      simpa using hd
    exact command_check_fails (bad := fun u => decide (u.argDistance = 0) || decide (65536 < u.argDistance)) rfl he hv hbad
  case winRead =>
    exact command_check_fails (bad := fun u => decide (u.window.mask.toNat < i.toNat)) rfl he hv (decide_eq_true hi)

end Sys2Proof.Proofs
end

section
/-! PROOFS. The commands on the length arrays and the reads of a table (O27), HT_BUILD's two checks (O28), HT_FILL (O31)
and HT_DECODE (O32). -/

namespace Sys2Proof.Proofs

open Sys2Proof.Machine Sys2Proof.Laws

/-! ### A command on one table -/

@[simp] theorem issued_tab (s : State) (t : Table) : (issued s).tab t = s.tab t := by
  cases t <;> rfl

theorem issued_setTab (s : State) (t : Table) (h : HuffTable (entryWidth t)) :
    (issued s).setTab t h = issued (s.setTab t h) := by
  cases t <;> rfl

theorem build_error {t : Table} {nchar : Nat} {s : State} {e : ErrCode} (hb : buildTable t nchar (s.tab t) = .error e) :
    build t nchar s = .error (.raise e) s := by
  simp [build, updateTab, buildValid, hb]

section OneTable

variable {s : State} {t : Table} (he : s.estate ≠ .failed)

include he

/-- A command that FAILED alone bars, and that leaves a table replaced. -/
theorem command_setsTab {legal : Bool} {body : Eng Unit} (h : HuffTable (entryWidth t)) (hl : legal = true)
    (hb : body (issued s) = .ok () ((issued s).setTab t h)) :
    command legal notInFailed body s = .next ((s.setTab t h).ended []) :=
  command_ended _ [] hl (notInFailed_iff.mpr he) (hb.trans (congrArg _ (issued_setTab s t h)))

/-- A command that FAILED alone bars, and that requires a flag, set, and then gives a value in RESULT. -/
theorem command_reads {legal : Bool} {p : State → Bool} {body : Eng Unit} (v : Nat) (hl : legal = true)
    (hp : p (issued s) = true) (hb : body (issued s) = setResult v (issued s)) :
    command legal notInFailed (do require p; body) s = .next ({ s with result := BitVec.ofNat 32 v }.ended []) :=
  command_ended _ [] hl (notInFailed_iff.mpr he) ((bind_of_ok (eng_require_true hp)).trans hb)

/-! ### Lengths, and the entries of a built table (O27) -/

theorem exec_lenClear : exec (.lenClear t) s = .next ((s.setTab t (clearedLens (s.tab t))).ended []) :=
  command_setsTab he _ rfl (by rw [← issued_tab]; rfl)

theorem exec_lenWrite {i : BitVec 9} {l : BitVec 5} (hl : Instr.WellFormed (.lenWrite t i l))
    (hv : (s.tab t).lenValid = true) :
    exec (.lenWrite t i l) s =
      .next ((s.setTab t { (s.tab t).setLen t i.toNat l.toNat with tabValid := false }).ended []) := by
  rw [← issued_tab] at hv ⊢
  exact command_setsTab he _ hl (bind_of_ok (eng_require_true hv))

theorem exec_lenRead {i : BitVec 9} (hl : Instr.WellFormed (.lenRead t i 0#5)) (hv : (s.tab t).lenValid = true) :
    exec (.lenRead t i 0#5) s = .next ({ s with result := BitVec.ofNat 32 ((s.tab t).getLen i.toNat) }.ended []) := by
  rw [← issued_tab] at hv ⊢
  exact command_reads he _ hl hv rfl

theorem exec_tblRead {i : BitVec 12} (hl : Instr.WellFormed (.tblRead t i)) (hv : (s.tab t).tabValid = true) :
    exec (.tblRead t i) s = .next ({ s with result := BitVec.ofNat 32 ((s.tab t).getTable i.toNat) }.ended []) := by
  rw [← issued_tab] at hv ⊢
  exact command_reads he _ hl hv rfl

theorem exec_treeRead {d : Side} {i : BitVec 10} (hl : Instr.WellFormed (.treeRead t d i))
    (hv : (s.tab t).tabValid = true) (hlo : (s.tab t).nchar.toNat ≤ i.toNat) (hhi : i.toNat < (s.tab t).avail.toNat) :
    exec (.treeRead t d i) s = .next ({ s with
      result := BitVec.ofNat 32 (if d = Side.right then (s.tab t).getRight i.toNat else (s.tab t).getLeft i.toNat)
      }.ended []) := by
  have hgood : (decide (i.toNat < (s.tab t).nchar.toNat) || decide ((s.tab t).avail.toNat ≤ i.toNat)) = false := by
    simp [hlo, hhi]
  rw [← issued_tab] at hv hgood ⊢
  refine command_reads he _ hl hv ?_
  rw [eng_bind, eng_get]
  dsimp only
  rw [hgood, eng_bind, eng_raiseIf_false]
  cases d <;> rfl

/-! ### HT_BUILD, HT_FILL and HT_DECODE -/

/-- HT_BUILD of lengths that BuildTable accepts (R203). -/
theorem exec_htBuild_ok {c : BitVec 9} {h : HuffTable (entryWidth t)} (hl : Instr.WellFormed (.htBuild t c 0#9))
    (hv : (s.tab t).lenValid = true) (hb : buildValid t c.toNat (s.tab t) = .ok h) :
    exec (.htBuild t c 0#9) s = .next ((s.setTab t h).ended []) := by
  rw [← issued_tab] at hv hb
  exact command_setsTab he h hl ((bind_of_ok (eng_require_true hv)).trans (build_ok hb))

/-- HT_BUILD of lengths that BuildTable rejects: nothing has changed yet (R203). -/
theorem exec_htBuild_error {c : BitVec 9} {e : ErrCode} (hl : Instr.WellFormed (.htBuild t c 0#9))
    (hv : (s.tab t).lenValid = true) (hb : buildTable t c.toNat (s.tab t) = .error e) :
    ∃ u, exec (.htBuild t c 0#9) s = .next u ∧ s.RefusedAs u e := by
  rw [← issued_tab] at hv hb
  refine command_refusedAs hl (notInFailed_iff.mpr he) ((bind_of_ok (eng_require_true hv)).trans ?_)
  exact build_error hb

/-- HT_FILL of a symbol of the alphabet (R204). -/
theorem exec_htFill {c x : BitVec 9} (hl : Instr.WellFormed (.htFill t c x)) (hx : x.toNat < c.toNat) :
    exec (.htFill t c x) s = .next ((s.setTab t (constantTable t c.toNat x.toNat (s.tab t))).ended []) := by
  refine command_setsTab he _ hl ?_
  rw [← issued_tab]
  simp [htFill, updateTab, Nat.not_le.mpr hx]

/-- HT_DECODE with a valid table, by what `Decode` does (R206). -/
theorem exec_htDecode_ok {u : State} {j : Nat} (hr : s.reader.valid = true) (hv : (s.tab t).tabValid = true)
    (hd : decodeSym t (issued s) = .ok j (issued u)) :
    exec (.htDecode t) s = .next ({ u with result := BitVec.ofNat 32 j }.ended []) := by
  rw [← issued_tab] at hv
  exact command_ended _ [] rfl (notInFailed_iff.mpr he)
    ((bind_of_ok (eng_require_true hr)).trans ((bind_of_ok (eng_require_true hv)).trans (bind_of_ok hd)))

end OneTable

/-- Settles O27: each command's answer is one of the equations above; the written length is read by the law of the
length array. -/
theorem lengthAndTableCommands : Obligations.LengthAndTableCommands := by
  unfold Obligations.LengthAndTableCommands
  refine ⟨fun s t he => ⟨⟨_, exec_lenClear he, rfl, fun i => rfl⟩, fun i l hl hv hw => ?_, fun i => exec_lenRead he⟩,
    fun s t he hv => ⟨fun i hl => exec_tblRead he hl hv, fun d i hl hlo hhi => exec_treeRead he hl hv hlo hhi⟩⟩
  refine ⟨_, exec_lenWrite he hl hv, rfl, fun j => ?_⟩
  have hi : i.toNat < lenCount t := of_decide_eq_true hl
  have hlen : min l.toNat 31 = l.toNat := by omega
  refine (getLen_setLen (table_wf_iff.mp hw).1).trans ?_
  simp only [hi, and_true, hlen]

/-! ### The checks on the lengths (O28) -/

theorem codeSpace_eq_sum : ∀ ls : List Nat, codeSpace ls = (ls.map fun l => if 0 < l then 2 ^ (16 - l) else 0).sum
  | [] => rfl
  | _ :: ls => congrArg _ (codeSpace_eq_sum ls)

/-- R193's measure, as the model sums it and as the statements do. -/
theorem codeSpace_lens {w : Nat} (h : HuffTable w) (c : Nat) : codeSpace (h.lens c) = kraftSum h.getLen c := by
  rw [codeSpace_eq_sum, HuffTable.lens, List.map_map]
  rfl

theorem lens_any_long {w : Nat} {h : HuffTable w} {c : Nat} :
    ((h.lens c).any fun l => decide (16 < l)) = true ↔ ∃ ch, ch < c ∧ 16 < h.getLen ch := by
  simp [HuffTable.lens]

theorem lens_any_long_eq_false {w : Nat} {h : HuffTable w} {c : Nat} (hl : ∀ ch, ch < c → h.getLen ch ≤ 16) :
    ((h.lens c).any fun l => decide (16 < l)) = false := by
  simpa [HuffTable.lens] using hl

theorem buildTable_long {w : Nat} {t : Table} {c : Nat} {h : HuffTable w} (hl : ∃ ch, ch < c ∧ 16 < h.getLen ch) :
    buildTable t c h = .error .lenRange :=
  if_pos (lens_any_long.mpr hl)

theorem buildTable_space {w : Nat} {t : Table} {c : Nat} {h : HuffTable w} (hl : ∀ ch, ch < c → h.getLen ch ≤ 16)
    (hs : kraftSum h.getLen c ≠ 65536) : buildTable t c h = .error .codeSpace := by
  rw [← codeSpace_lens] at hs
  simp [buildTable, lens_any_long_eq_false hl, hs]

/-- Settles O28: BuildTable's two checks, in their order. -/
theorem htBuildChecksLengths : Obligations.HtBuildChecksLengths := by
  unfold Obligations.HtBuildChecksLengths
  intro s t c he hl hv
  exact ⟨fun hlong => exec_htBuild_error he hl hv (buildTable_long hlong),
    fun hshort hspace => exec_htBuild_error he hl hv (buildTable_space hshort hspace)⟩

/-! ### The constant table (O31) -/

theorem entryWidth_fits {t : Table} {n : Nat} (h : n ≤ lenCount t) : n < 2 ^ entryWidth t := by
  cases t
  · exact h.trans_lt (by decide)
  · exact h.trans_lt (by decide)

theorem lenCount_of_wellFormed {t : Table} {c : Nat} (h : alphabetLegal t c = true) : c ≤ lenCount t :=
  of_decide_eq_true (Bool.and_eq_true_iff.mp h).2

theorem constantTable_getTable {t : Table} {c x i : Nat} (hx : x < 2 ^ entryWidth t) (hi : i < tableCount t)
    (h : HuffTable (entryWidth t)) : (constantTable t c x h).getTable i = x := by
  simp only [HuffTable.getTable, constantTable, cellGet_cellRun]
  rw [if_pos (by omega), BitVec.toNat_ofNat, Nat.mod_eq_of_lt hx]

/-- A look-ahead's index of the direct table (R197). -/
theorem lookup_index_lt {bits : Nat} (t : Table) (h : bits < 65536) : bits / 2 ^ (16 - tableBits t) < tableCount t := by
  cases t
  · exact Nat.div_lt_of_lt_mul h
  · exact Nat.div_lt_of_lt_mul h

/-- A walk that stands at a symbol gives it (R197). -/
theorem walkTree_of_lt {w : Nat} {h : HuffTable w} {j : Nat} (hj : j < h.nchar.toNat) (bits n : Nat) :
    walkTree h bits n j = .ok j := by
  cases n <;> exact if_pos hj

/-- Settles O31: HT_FILL leaves `constantTable`, whose every entry is the symbol. -/
theorem htFillIsConstant : Obligations.HtFillIsConstant := by
  unfold Obligations.HtFillIsConstant
  intro s t c x he hl hx
  have hc := lenCount_of_wellFormed hl
  have hnchar : (constantTable t c.toNat x.toNat (s.tab t)).nchar.toNat = c.toNat := by
    simp only [constantTable]
    rw [BitVec.toNat_ofNat, Nat.mod_eq_of_lt (entryWidth_fits hc)]
  have hentry : ∀ i, i < tableCount t → (constantTable t c.toNat x.toNat (s.tab t)).getTable i = x.toNat := fun i hi =>
    constantTable_getTable (entryWidth_fits (hx.le.trans hc)) hi (s.tab t)
  refine ⟨_, exec_htFill he hl hx, rfl, rfl, hnchar, hnchar, rfl, rfl, fun i => rfl, hentry, fun bits hbits => ?_⟩
  rw [HuffTable.lookup, hentry _ (lookup_index_lt t hbits)]
  exact walkTree_of_lt (hx.trans_eq hnchar.symm) _ _

/-! ### Decoding a symbol (O32) -/

/-- `Decode` where the table finds a symbol and the reader has nothing left to request (R197). -/
theorem decodeSym_drained {s : State} {t : Table} {j : Nat} (hd : s.reader.drained)
    (hj : (s.tab t).lookup t (s.reader.peek 16) = .ok j) :
    decodeSym t s = .ok j (s.skipped ((s.tab t).getLen j)) := by
  simp only [decodeSym, eng_bind, eng_get, hj, consume_drained hd, eng_pure]

/-- Settles O32: the body is `Decode` on a drained reader (`decodeSym_drained`). -/
theorem htDecodeReadsSymbol : Obligations.HtDecodeReadsSymbol := by
  unfold Obligations.HtDecodeReadsSymbol
  intro s t j he hr hd hv hj
  rw [← issued_tab] at hj
  have hdecode := decodeSym_drained (s := issued s) hd hj
  rw [issued_tab] at hdecode
  exact exec_htDecode_ok he hr hv hdecode

end Sys2Proof.Proofs
end

section
/-! PROOFS. NS_READ_C with a count above 0 (O36): writes of whole lists of lengths, one turn of the loop of R223, and the
loop over the pretree symbols of a stream. -/

namespace Sys2Proof.Proofs

open Sys2Proof.Machine Sys2Proof.Laws

/-! ### A RAM given by a function -/

section Cells

variable {α : Type} [DecidableEq α] {d : α}

theorem cellsOf_succ (size : Nat) (f : Nat → α) :
    cellsOf d (size + 1) f = cellsOf d size f ++ cellRun d size 1 (f size) := by
  have hlast : [size].filterMap (fun a => if f a = d then none else some (a, f a)) = cellRun d size 1 (f size) := by
    by_cases h : f size = d <;> simp [cellRun, h]
  rw [cellsOf, List.range_succ, List.filterMap_append, hlast]
  rfl

/-- What a RAM given by a function reads as. -/
theorem cellGet_cellsOf (f : Nat → α) (a : Nat) :
    ∀ size : Nat, cellGet d (cellsOf d size f) a = if a < size then f a else d
  | 0 => rfl
  | size + 1 => by
    rw [cellsOf_succ, cellGet_append (cellsOf_wf f) (cellRun_wf (f size)), cellGet_cellsOf f a size, cellGet_cellRun]
    rcases lt_trichotomy a size with h | rfl | h
    · rw [if_pos h, if_pos h, if_pos (by omega)]
    · simp
    · rw [if_neg (by omega), if_neg (by omega), if_neg (by omega)]

end Cells

/-! ### Lists of lengths written to a length array -/

/-- The length array with these lengths written from element `i` on. -/
@[irreducible] def putLens (t : Table) (i : Nat) (ls : List Nat) (m : List (Nat × BitVec 5)) : List (Nat × BitVec 5) :=
  cellsOf 0#5 (lenCount t) fun a =>
    if i ≤ a ∧ a < i + ls.length then heldLen (ls.getD (a - i) 0) else cellGet 0#5 m a

section PutLens

variable {t : Table} {i : Nat} {m : List (Nat × BitVec 5)}

theorem putLens_wf (t : Table) (i : Nat) (ls : List Nat) (m : List (Nat × BitVec 5)) :
    cellsWf (lenCount t) 0#5 (putLens t i ls m) = true := by
  rw [putLens]
  exact cellsOf_wf _

theorem cellGet_putLens {ls : List Nat} {a : Nat} (ha : a < lenCount t) :
    cellGet 0#5 (putLens t i ls m) a =
      if i ≤ a ∧ a < i + ls.length then heldLen (ls.getD (a - i) 0) else cellGet 0#5 m a := by
  rw [putLens, cellGet_cellsOf, if_pos ha]

/-- A canonical length array that reads as the written one is it. -/
theorem eq_putLens {ls : List Nat} {n : List (Nat × BitVec 5)} (hn : cellsWf (lenCount t) 0#5 n = true)
    (h : ∀ a, a < lenCount t → cellGet 0#5 n a =
      if i ≤ a ∧ a < i + ls.length then heldLen (ls.getD (a - i) 0) else cellGet 0#5 m a) : n = putLens t i ls m := by
  refine cells_ext hn (putLens_wf t i ls m) fun a => ?_
  by_cases ha : a < lenCount t
  · rw [h a ha, cellGet_putLens ha]
  · rw [cellGet_above (Nat.not_lt.mp ha) hn, cellGet_above (Nat.not_lt.mp ha) (putLens_wf t i ls m)]

/-- One length written (R221, R223). -/
theorem setLen_eq_putLens {w : Nat} {h : HuffTable w} (hw : cellsWf (lenCount t) 0#5 h.len = true) (l : Nat) :
    h.setLen t i l = { h with len := putLens t i [l] h.len } := by
  refine congrArg (fun n => { h with len := n }) (eq_putLens (setLen_wf (h := h) i l hw) fun a ha => ?_)
  refine (cellGet_cellWrite hw).trans ?_
  by_cases hai : a = i
  · subst hai
    simp [ha]
  · have hout : ¬(i ≤ a ∧ a < i + 1) := by omega
    rw [if_neg (fun h => hai h.1), List.length_singleton, if_neg hout]

/-- A run of zero lengths written (R221, R223). -/
theorem zeroLens_eq_putLens {w : Nat} {h : HuffTable w} (hw : cellsWf (lenCount t) 0#5 h.len = true) (k n : Nat) :
    h.zeroLens t k n = { h with len := putLens t k (List.replicate n 0) h.len } := by
  refine congrArg (fun c => { h with len := c }) (eq_putLens (cellFill_wf k n _ hw) fun a ha => ?_)
  rw [cellGet_cellFill hw, List.length_replicate]
  by_cases hin : k ≤ a ∧ a < k + n
  · have hzero : (List.replicate n 0).getD (a - k) 0 = 0 := by
      rw [List.getD_replicate _ (by omega)]
    rw [if_pos ⟨hin.1, hin.2, ha⟩, if_pos hin, hzero]
    rfl
  · rw [if_neg hin, if_neg fun h' => hin ⟨h'.1, h'.2.1⟩]

/-- Lengths written after lengths. -/
theorem putLens_append (ls ks : List Nat) :
    putLens t (i + ls.length) ks (putLens t i ls m) = putLens t i (ls ++ ks) m := by
  refine eq_putLens (putLens_wf _ _ _ _) fun a ha => ?_
  rw [cellGet_putLens ha, cellGet_putLens ha, List.length_append]
  by_cases hin : i ≤ a ∧ a < i + ls.length
  · rw [if_neg (by omega), if_pos hin, if_pos (by omega), List.getD_append _ _ _ _ (by omega)]
  rw [if_neg hin]
  rcases lt_or_ge a (i + ls.length) with h | h
  · rw [if_neg (by omega), if_neg (by omega)]
  · rw [List.getD_append_right _ _ _ _ (by omega),
      show a - i - ls.length = a - (i + ls.length) by omega]
    exact if_congr (by omega) rfl rfl

end PutLens

/-- The length array of these lengths, and zeros. -/
@[irreducible] def heldLens (t : Table) (ls : List Nat) : List (Nat × BitVec 5) :=
  cellsOf 0#5 (lenCount t) fun a => heldLen (ls.getD a 0)

/-- The lengths written from the first on, and the rest made 0 (R221, R223). -/
theorem putLens_rest {t : Table} {ls : List Nat} {m : List (Nat × BitVec 5)} :
    putLens t ls.length (List.replicate (lenCount t - ls.length) 0) (putLens t 0 ls m) = heldLens t ls := by
  rw [heldLens]
  refine (eq_putLens (cellsOf_wf _) fun a ha => ?_).symm
  rw [cellGet_cellsOf, if_pos ha, cellGet_putLens ha, List.length_replicate]
  rcases lt_or_ge a ls.length with h | h
  · rw [if_neg (by omega), if_pos (by omega), Nat.sub_zero]
  · rw [if_pos (by omega), List.getD_eq_default _ _ h, List.getD_replicate _ (by omega)]

/-- Lengths that fit the RAM's 5 bits are held as they are. -/
theorem heldLens_eq_withLens {w : Nat} {t : Table} {ls : List Nat} {h : HuffTable w} (hl : ∀ l ∈ ls, l ≤ 31) :
    { h with len := heldLens t ls, lenValid := true } = h.withLens t ls := by
  have heach : (fun a => heldLen (ls.getD a 0)) = fun a => BitVec.ofNat 5 (ls.getD a 0) := by
    funext a
    refine heldLen_small ?_
    rcases lt_or_ge a ls.length with ha | ha
    · rw [List.getD_eq_getElem _ _ ha]
      exact hl _ (List.getElem_mem ha)
    · rw [List.getD_eq_default _ _ ha]
      omega
  rw [HuffTable.withLens, heldLens, heach]

/-! ### One turn of the loop of R223 -/

/-- The state `k` bits on in the stream, with this length array in the C table. -/
def lensRead (s : State) (k : Nat) (cells : List (Nat × BitVec 5)) : State :=
  { s.skipped k with tabC := { s.tabC with len := cells } }

@[simp] theorem lensRead_reader (s : State) (k : Nat) (m : List (Nat × BitVec 5)) :
    (lensRead s k m).reader = s.reader.advance k := rfl

@[simp] theorem lensRead_tabPt (s : State) (k : Nat) (m : List (Nat × BitVec 5)) : (lensRead s k m).tabPt = s.tabPt := rfl

@[simp] theorem lensRead_len (s : State) (k : Nat) (m : List (Nat × BitVec 5)) : (lensRead s k m).tabC.len = m := rfl

theorem lensRead_lensRead (s : State) (j k : Nat) (m n : List (Nat × BitVec 5)) :
    lensRead (lensRead s j m) k n = lensRead s (j + k) n := by
  have hskip : (s.reader.advance j).advance k = s.reader.advance (j + k) := advance_advance _ _ _
  simp only [lensRead, State.skipped, hskip]

theorem lensRead_skipped (s : State) (j k : Nat) (m : List (Nat × BitVec 5)) :
    lensRead (s.skipped j) k m = lensRead s (j + k) m := by
  rw [lensRead, skipped_skipped]
  rfl

theorem skipped_zero (s : State) : s.skipped 0 = s := by
  simp [State.skipped, Reader.advance]

theorem setLen_lensRead {s : State} (hw : cellsWf (lenCount .c) 0#5 s.tabC.len = true) (k i l : Nat) :
    setLen .c i l (s.skipped k) = .ok () (lensRead s k (putLens .c i [l] s.tabC.len)) :=
  congrArg (fun h => EStateM.Result.ok () ((s.skipped k).setTab .c h)) (setLen_eq_putLens (h := s.tabC) hw l)

theorem zeroLens_lensRead {s : State} (hw : cellsWf (lenCount .c) 0#5 s.tabC.len = true) (k i n : Nat) :
    zeroLens .c i n (s.skipped k) = .ok () (lensRead s k (putLens .c i (List.replicate n 0) s.tabC.len)) :=
  congrArg (fun h => EStateM.Result.ok () ((s.skipped k).setTab .c h)) (zeroLens_eq_putLens (h := s.tabC) hw i n)

theorem readCLengths_done {n i : Nat} (h : n ≤ i) (s : State) : ∀ turns, readCLengths n turns i s = .ok i s
  | 0 => rfl
  | _ + 1 => congrFun (if_neg (Nat.not_lt.mpr h)) s

/-- The run of zeros of a pretree symbol below 3, by its extra value (R223). -/
theorem zeroRun_drained {s : State} {c : Nat} (hc : c ≤ 2) (hd : s.reader.drained) :
    zeroRun c s = .ok (pretreeLens (c, s.reader.peek (runBits c))).length (s.skipped (runBits c)) := by
  match c with
  | 0 => exact congrArg (EStateM.Result.ok 1) (skipped_zero s).symm
  | 1 => simp [zeroRun, pretreeLens, runBits, getBits_drained hd]
  | 2 => simp [zeroRun, pretreeLens, runBits, getBits_drained hd]

theorem pretreeLens_short {c : Nat} (hc : c ≤ 2) (v : Nat) :
    pretreeLens (c, v) = List.replicate (pretreeLens (c, v)).length 0 := by
  match c with
  | 0 | 1 | 2 => simp [pretreeLens]

theorem pretreeLens_long {c : Nat} (hc : ¬c ≤ 2) (v : Nat) : pretreeLens (c, v) = [c - 2] := by
  match c with
  | 0 | 1 | 2 => omega
  | _ + 3 => rfl

theorem pretreeLens_pos (c v : Nat) : 0 < (pretreeLens (c, v)).length := by
  match c with
  | 0 | 1 | 2 | _ + 3 => simp [pretreeLens]

theorem runBits_long {c : Nat} (hc : ¬c ≤ 2) : runBits c = 0 := by
  match c with
  | 0 | 1 | 2 => omega
  | _ + 3 => rfl

section Turn

variable {s : State} {n turns i c v : Nat} (hd : s.reader.drained) (hi : i < n)
  (hc : s.tabPt.lookup .pt (s.reader.peek 16) = .ok c)
  (hv : v = (s.reader.advance (s.tabPt.getLen c)).peek (runBits c))

include hd hi hc hv

/-- A turn that reads a run of zeros (R223): the run is checked before it is written. -/
theorem readCLengths_run (hshort : c ≤ 2) :
    readCLengths n (turns + 1) i s =
      (raiseIf (decide (510 < i + (pretreeLens (c, v)).length)) .indexOverflow >>= fun _ =>
        zeroLens .c i (pretreeLens (c, v)).length >>= fun _ =>
        readCLengths n turns (i + (pretreeLens (c, v)).length)) (s.skipped (s.tabPt.getLen c + runBits c)) := by
  have hsym : decodeSym .pt s = .ok c (s.skipped (s.tabPt.getLen c)) := decodeSym_drained hd hc
  have hrun := zeroRun_drained (s := s.skipped (s.tabPt.getLen c)) hshort hd
  rw [skipped_skipped, skipped_reader, ← hv] at hrun
  rw [readCLengths, if_pos hi, bind_of_ok hsym, if_pos hshort, bind_of_ok hrun]
  rfl

/-- A turn whose lengths fit the alphabet. -/
theorem readCLengths_turn (hw : cellsWf (lenCount .c) 0#5 s.tabC.len = true)
    (hfits : i + (pretreeLens (c, v)).length ≤ 510) :
    readCLengths n (turns + 1) i s = readCLengths n turns (i + (pretreeLens (c, v)).length)
      (lensRead s (s.tabPt.getLen c + runBits c) (putLens .c i (pretreeLens (c, v)) s.tabC.len)) := by
  by_cases hshort : c ≤ 2
  · rw [readCLengths_run hd hi hc hv hshort, decide_eq_false (by omega), bind_of_ok (eng_raiseIf_false _ _),
      bind_of_ok (zeroLens_lensRead hw _ _ _), ← pretreeLens_short hshort]
  · have hsym : decodeSym .pt s = .ok c (s.skipped (s.tabPt.getLen c)) := decodeSym_drained hd hc
    rw [readCLengths, if_pos hi, bind_of_ok hsym, if_neg hshort, bind_of_ok (setLen_lensRead hw _ _ _),
      pretreeLens_long hshort, runBits_long hshort]
    rfl

/-- A turn whose run passes the alphabet. -/
theorem readCLengths_overflow (hn : n ≤ 510) (hover : 510 < i + (pretreeLens (c, v)).length) :
    readCLengths n (turns + 1) i s =
      .error (.raise .indexOverflow) (lensRead s (s.tabPt.getLen c + runBits c) s.tabC.len) := by
  have hshort : c ≤ 2 := by
    by_contra hlong
    rw [pretreeLens_long hlong, List.length_singleton] at hover
    omega
  rw [readCLengths_run hd hi hc hv hshort, decide_eq_true hover]
  rfl

end Turn

/-! ### The loop over a stream's pretree symbols -/

theorem readsItems_advance (h : HuffTable 8) (r : Reader) (m : Nat) : ∀ (items : List (Nat × Nat)) (k : Nat),
    h.readsItems (r.advance m) k items ↔ h.readsItems r k items
  | [], _ => Iff.rfl
  | (c, v) :: items, k => by
    simp only [HuffTable.readsItems, bitsAt_advance, readsItems_advance h r m items]

theorem itemBits_cons (h : HuffTable 8) (c v : Nat) (items : List (Nat × Nat)) :
    h.itemBits ((c, v) :: items) = h.getLen c + runBits c + h.itemBits items := by
  simp [HuffTable.itemBits]

/-- The loop's answer where it comes to length `j` by reading `k` bits and these lengths from the `i`-th on: the
lengths written, or the failure of a run past the alphabet. -/
structure LoopEnds (s : State) (i k : Nat) (ls : List Nat) (x : EStateM.Result Stop State Nat) : Prop where
  completes : i + ls.length ≤ 510 → x = .ok (i + ls.length) (lensRead s k (putLens .c i ls s.tabC.len))
  overflows : 510 < i + ls.length → ∃ j m, x = .error (.raise .indexOverflow) (lensRead s j m)

/-- A turn, and the loop after it. -/
theorem LoopEnds.after {s : State} {i j k : Nat} {ls ks : List Nat} {x : EStateM.Result Stop State Nat}
    (h : LoopEnds (lensRead s j (putLens .c i ls s.tabC.len)) (i + ls.length) k ks x) :
    LoopEnds s i (j + k) (ls ++ ks) x := by
  obtain ⟨hok, herr⟩ := h
  refine ⟨fun hfits => ?_, fun hover => ?_⟩ <;> rw [List.length_append, ← Nat.add_assoc] at *
  · rw [hok hfits, lensRead_lensRead, lensRead_len, putLens_append]
  · obtain ⟨j', m, hx⟩ := herr hover
    exact ⟨j + j', m, by rw [hx, lensRead_lensRead]⟩

theorem readCLengths_items {n : Nat} (hn : n ≤ 510) : ∀ (items : List (Nat × Nat)) (turns i : Nat) (s : State),
    s.reader.drained → cellsWf (lenCount .c) 0#5 s.tabC.len = true →
    s.tabPt.readsItems s.reader s.reader.pos.toNat items →
    s.reader.pos.toNat + s.tabPt.itemBits items < 2 ^ 64 →
    i + (items.dropLast.flatMap pretreeLens).length < n → n ≤ i + (items.flatMap pretreeLens).length → n ≤ i + turns →
    LoopEnds s i (s.tabPt.itemBits items) (items.flatMap pretreeLens) (readCLengths n turns i s)
  | [], _, _, _, _, _, _, _, h, h', _ => by
    simp only [List.dropLast_nil, List.flatMap_nil, List.length_nil] at h h'
    omega
  | (c, v) :: items, 0, i, s, _, _, _, _, h, _, ht => by omega
  | (c, v) :: items, turns + 1, i, s, hd, hw, ⟨hc, hv, hrest⟩, hpos, hlast, hall, ht => by
    rw [itemBits_cons] at hpos
    have hi : i < n := by omega
    have hstep : (s.reader.advance (s.tabPt.getLen c)).pos.toNat = s.reader.pos.toNat + s.tabPt.getLen c :=
      advance_pos (by omega)
    have hextra : v = (s.reader.advance (s.tabPt.getLen c)).peek (runBits c) := by
      rw [Reader.peek, hstep, bitsAt_advance]
      exact hv
    have hlen := pretreeLens_pos c v
    rw [List.flatMap_cons, List.length_append] at hall
    rw [itemBits_cons, List.flatMap_cons]
    by_cases hfits : i + (pretreeLens (c, v)).length ≤ 510
    · have hturn := readCLengths_turn (turns := turns) hd hi hc hextra hw hfits
      rcases items with _ | ⟨item, items⟩
      · rw [hturn, readCLengths_done (by simpa using hall)]
        rw [List.flatMap_nil, List.append_nil]
        exact ⟨fun _ => rfl, fun h => absurd h (Nat.not_lt.mpr hfits)⟩
      · rw [List.dropLast_cons_cons, List.flatMap_cons, List.length_append] at hlast
        have hnextPos : (s.reader.advance (s.tabPt.getLen c + runBits c)).pos.toNat =
            s.reader.pos.toNat + (s.tabPt.getLen c + runBits c) := advance_pos (by omega)
        have hitems : s.tabPt.readsItems (s.reader.advance (s.tabPt.getLen c + runBits c))
            (s.reader.advance (s.tabPt.getLen c + runBits c)).pos.toNat (item :: items) := by
          rw [hnextPos, readsItems_advance, ← Nat.add_assoc]
          exact hrest
        have hnext := readCLengths_items hn (item :: items) turns (i + (pretreeLens (c, v)).length)
          (lensRead s (s.tabPt.getLen c + runBits c) (putLens .c i (pretreeLens (c, v)) s.tabC.len))
          hd (by rw [lensRead_len]; exact putLens_wf _ _ _ _) hitems (by rw [lensRead_reader, lensRead_tabPt, hnextPos]; omega) (by omega) (by omega)
          (by omega)
        rw [hturn]
        exact hnext.after
    · have hover := readCLengths_overflow (turns := turns) hd hi hc hextra hn (Nat.not_le.mp hfits)
      exact ⟨fun h => absurd (List.length_append ▸ h) (by omega), fun _ => ⟨_, _, hover⟩⟩

/-! ### The end of the reader: the rest of the lengths is 0, and the build (R223) -/

/-- The state `k` bits on in the stream, with these lengths in the C table, then zeros, and LENV set. -/
def lensClosed (s : State) (k : Nat) (ls : List Nat) : State :=
  { s.skipped k with tabC := { s.tabC with len := heldLens .c ls, lenValid := true } }

theorem lensClosed_skipped (s : State) (j k : Nat) (ls : List Nat) :
    lensClosed (s.skipped j) k ls = lensClosed s (j + k) ls := by
  rw [lensClosed, skipped_skipped]
  rfl

/-- Lengths that fit the RAM's 5 bits are held as they are. -/
theorem lensClosed_eq_withLens {s : State} {k : Nat} {ls : List Nat} (hl : ∀ l ∈ ls, l ≤ 31) :
    lensClosed s k ls = { s.skipped k with tabC := s.tabC.withLens .c ls } :=
  congrArg (fun h => (s.skipped k).setTab .c h) (heldLens_eq_withLens hl)

/-- What ends NS_READ_C after its loop: lengths and LENV written, then `BuildTable(C, 510)`. -/
theorem closeLens_lensRead {s : State} {k : Nat} {ls : List Nat} {m : List (Nat × BitVec 5)} :
    closeLens .c ls.length alphabetNC (lensRead s k (putLens .c 0 ls m)) =
      build .c 510 (lensClosed s k ls) := by
  have hzero := zeroLens_lensRead (s := lensRead s k (putLens .c 0 ls m))
    (by rw [lensRead_len]; exact putLens_wf _ _ _ _) 0 ls.length (lenCount .c - ls.length)
  rw [lensRead_lensRead, lensRead_len, putLens_rest] at hzero
  rw [skipped_zero] at hzero
  rw [closeLens, bind_of_ok hzero, markLens, bind_of_ok (eng_modify _ _)]
  rfl

/-- A build never waits, so its answer ends the command alike from whatever state the command started in. -/
theorem settle_build (s s' : State) (t : Table) (n : Nat) (u : State) :
    settle s (build t n u) = settle s' (build t n u) := by
  rcases updateTab_ends t (buildValid t n) u with ⟨h, -, hu⟩ | ⟨e, hu⟩ <;> rw [build, hu] <;> rfl

/-- A failure after bits have been read and lengths written, and nothing else. -/
theorem failCommand_lensRead_refusedAs (code : ErrCode) (s : State) (k : Nat) (m : List (Nat × BitVec 5)) (v : Bool) :
    s.RefusedAs (State.failCommand code
      { (issued s).skipped k with tabC := { s.tabC with len := m, lenValid := v } }) code := by
  have h := failCommand_refusedAs code
    { s.skipped k with tabC := { s.tabC with len := m, lenValid := v } }
  exact ⟨h.notBusy, h.errSet, h.firstCode, h.failed, h.noneValid, h.flags, h.hostRegs, h.checksums, h.counters, h.entry,
    h.reader, h.tableRegs, h.arenaRegs, h.windowMask, h.ports, h.agents⟩

section Reading

variable {s : State}

/-- NS_READ_C with a count above 0: the loop from the bits after the count, and the end (R223, R224). -/
theorem exec_nsReadC_count (he : s.estate ≠ .failed) (hr : s.reader.valid = true) (hd : s.reader.drained)
    (hv : s.tabPt.tabValid = true) (hpos : 0 < s.reader.peek 9) (hn : s.reader.peek 9 ≤ 510) :
    exec .nsReadC s = settle s ((do
      let i ← readCLengths (s.reader.peek 9) (s.reader.peek 9) 0
      closeLens .c i alphabetNC) ((issued s).skipped 9)) := by
  have hcount : getBits 9 (issued s) = .ok (s.reader.peek 9) ((issued s).skipped 9) :=
    getBits_drained (s := issued s) hd (by decide)
  have hover : decide (alphabetNC < s.reader.peek 9) = false := decide_eq_false (Nat.not_lt.mpr hn)
  have hbody : readCLen (issued s) = (do
      let i ← readCLengths (s.reader.peek 9) (s.reader.peek 9) 0
      closeLens .c i alphabetNC) ((issued s).skipped 9) := by
    rw [readCLen, bind_of_ok hcount, if_neg hpos.ne', hover]
    rfl
  refine (command_run (legal := true) rfl (notInFailed_iff.mpr he)).trans (congrArg (settle s) ?_)
  exact (bind_of_ok (eng_require_true hr)).trans ((bind_of_ok (eng_require_true hv)).trans hbody)

/-- HT_BUILD C, 510 is the build that ends the readers (R203). -/
theorem exec_htBuild_c (he : s.estate ≠ .failed) (hv : s.tabC.lenValid = true) :
    exec (.htBuild .c 510#9 0#9) s = settle s (build .c 510 (issued s)) :=
  (command_run (legal := true) rfl (notInFailed_iff.mpr he)).trans
    (congrArg (settle s) (bind_of_ok (eng_require_true hv)))

end Reading

theorem getLen_heldLens {w : Nat} {t : Table} {ls : List Nat} {h : HuffTable w} {v : Bool} {a : Nat}
    (ha : a < lenCount t) :
    ({ h with len := heldLens t ls, lenValid := v } : HuffTable w).getLen a = min (ls.getD a 0) 31 := by
  rw [HuffTable.getLen, heldLens, cellGet_cellsOf, if_pos ha, heldLen_toNat]

/-- The build sees a length above 16, however long it was (R192). -/
theorem build_lensClosed_long {s : State} {k : Nat} {ls : List Nat} (hfits : ls.length ≤ 510) (hlong : ∃ l ∈ ls, 16 < l) :
    build .c 510 (lensClosed s k ls) = .error (.raise .lenRange) (lensClosed s k ls) := by
  obtain ⟨l, hl, hlong⟩ := hlong
  obtain ⟨a, ha, rfl⟩ := List.mem_iff_getElem.mp hl
  refine build_error (buildTable_long ⟨a, by omega, ?_⟩)
  have hget : ((lensClosed s k ls).tab .c).getLen a = min (ls.getD a 0) 31 :=
    getLen_heldLens (show a < 510 by omega)
  rw [hget, List.getD_eq_getElem _ _ ha]
  omega

/-- Settles O36: the loop over the stream's pretree symbols ends with the lengths written or fails on a run past the
alphabet (`readCLengths_items`); what follows it is the build of HT_BUILD C, 510 (`closeLens_lensRead`). -/
theorem nsReadCReadsLengths : Obligations.NsReadCReadsLengths := by
  unfold Obligations.NsReadCReadsLengths
  intro s items ls he hr hd hv hw hpos hn hbound hitems hls hlast hall
  subst hls
  have hexec := exec_nsReadC_count he hr hd hv hpos hn
  have hstart : (s.reader.advance 9).pos.toNat = s.reader.pos.toNat + 9 := advance_pos (by omega)
  have hlenWf : cellsWf (lenCount .c) 0#5 s.tabC.len = true := by
    simp only [State.ramsWf, Bool.and_eq_true] at hw
    exact (table_wf_iff.mp hw.1.1.1).1
  obtain ⟨hok, herr⟩ := readCLengths_items hn items (s.reader.peek 9) 0 ((issued s).skipped 9) hd hlenWf
    (by
      rw [skipped_reader, skipped_tabPt]
      exact (readsItems_advance _ _ _ _ _).mpr (hstart ▸ hitems))
    (by
      rw [skipped_reader, skipped_tabPt]
      exact hstart ▸ hbound) (by omega) (by omega) (by omega)
  rw [Nat.zero_add] at hok herr
  have hclosed (hfits : (items.flatMap pretreeLens).length ≤ 510) :
      exec .nsReadC s = settle s (build .c 510
        (lensClosed (issued s) (9 + s.tabPt.itemBits items) (items.flatMap pretreeLens))) := by
    rw [hexec, bind_of_ok (hok hfits), closeLens_lensRead, lensClosed_skipped]
    rfl
  refine ⟨fun hfits hshort => ?_, fun hfits hlong => ?_, fun hover => ?_⟩
  · rw [hclosed hfits, lensClosed_eq_withLens fun l hl => (hshort l hl).trans (by decide)]
    exact (settle_build _ _ _ _ _).trans (exec_htBuild_c (s := { s.skipped _ with tabC := _ }) he rfl).symm
  · rw [hclosed hfits, build_lensClosed_long hfits hlong]
    exact ⟨_, rfl, failCommand_lensRead_refusedAs _ _ _ _ _⟩
  · obtain ⟨j, m, hx⟩ := herr hover
    rw [hexec, eng_bind, hx, lensRead_skipped]
    exact ⟨_, rfl, failCommand_lensRead_refusedAs _ _ (9 + j) m s.tabC.lenValid⟩

end Sys2Proof.Proofs
end

section
/-! PROOFS. The canonical code of R191 and R194 as numbers of one tree: the word of a symbol, and its stems (the
first bits of it), are numbered from the root 1 down, node `q` having the children `2q` and `2q + 1`. -/

namespace Sys2Proof.Proofs

open Sys2Proof.Machine Sys2Proof.Laws

/-! ### Counting lengths -/

theorem lenTally_cons (x : Nat) (ls : List Nat) (l : Nat) :
    lenTally (x :: ls) l = (if x = l then 1 else 0) + lenTally ls l := by
  by_cases h : x = l <;> simp [lenTally, h, Nat.add_comm]

theorem lenTally_append (ls ks : List Nat) (l : Nat) : lenTally (ls ++ ks) l = lenTally ls l + lenTally ks l := by
  simp [lenTally]

/-- One symbol further on, its own length is counted. -/
theorem lenTally_take_succ {ls : List Nat} {ch : Nat} (h : ch < ls.length) (l : Nat) :
    lenTally (ls.take (ch + 1)) l = lenTally (ls.take ch) l + if ls.getD ch 0 = l then 1 else 0 := by
  rw [List.take_succ_eq_append_getElem h, lenTally_append, lenTally_cons, List.getD_eq_getElem _ _ h]
  rfl

theorem lenTally_take_mono {ls : List Nat} {a b : Nat} (h : a ≤ b) (l : Nat) :
    lenTally (ls.take a) l ≤ lenTally (ls.take b) l :=
  ((List.take_sublist_take_left h).filter _).length_le

theorem lenTally_take_le (ls : List Nat) (a l : Nat) : lenTally (ls.take a) l ≤ lenTally ls l :=
  ((List.take_sublist a ls).filter _).length_le

theorem sum_lenTally_le (n : Nat) : ∀ ls : List Nat, ∑ d ∈ Finset.range n, lenTally ls (d + 1) ≤ ls.length
  | [] => by simp [lenTally]
  | x :: ls => by
    have hone : ∑ d ∈ Finset.range n, (if x = d + 1 then 1 else 0) ≤ 1 := by
      rw [← Finset.card_filter]
      exact Finset.card_le_one.mpr (by simp only [Finset.mem_filter]; omega)
    have ih := sum_lenTally_le n ls
    simp only [lenTally_cons, Finset.sum_add_distrib, List.length_cons]
    omega

/-! ### The code space, length by length -/

/-- The part of R193's sum that the lengths up to `l` contribute. -/
def spaceUpTo (ls : List Nat) (l : Nat) : Nat := (ls.map fun x => if 0 < x ∧ x ≤ l then 2 ^ (16 - x) else 0).sum

theorem spaceUpTo_cons (x : Nat) (ls : List Nat) (l : Nat) :
    spaceUpTo (x :: ls) l = (if 0 < x ∧ x ≤ l then 2 ^ (16 - x) else 0) + spaceUpTo ls l := rfl

theorem spaceUpTo_zero : ∀ ls : List Nat, spaceUpTo ls 0 = 0
  | [] => rfl
  | x :: ls => by rw [spaceUpTo_cons, spaceUpTo_zero ls, if_neg (by omega)]

theorem spaceUpTo_succ (l : Nat) : ∀ ls : List Nat,
    spaceUpTo ls (l + 1) = spaceUpTo ls l + lenTally ls (l + 1) * 2 ^ (16 - (l + 1))
  | [] => by simp [spaceUpTo, lenTally]
  | x :: ls => by
    rw [spaceUpTo_cons, spaceUpTo_cons, lenTally_cons, spaceUpTo_succ l ls, Nat.add_mul]
    rcases lt_trichotomy x (l + 1) with h | rfl | h
    · rw [if_neg h.ne, if_congr (show 0 < x ∧ x ≤ l + 1 ↔ 0 < x ∧ x ≤ l by omega) rfl rfl]
      omega
    · rw [if_pos rfl, if_pos (by omega), if_neg (by omega)]
      omega
    · rw [if_neg h.ne', if_neg (by omega), if_neg (by omega)]
      omega

theorem spaceUpTo_all : ∀ {ls : List Nat}, (∀ l ∈ ls, l ≤ 16) → spaceUpTo ls 16 = codeSpace ls
  | [], _ => rfl
  | x :: ls, h => by
    obtain ⟨hx, hls⟩ := List.forall_mem_cons.mp h
    rw [spaceUpTo_cons, codeSpace, spaceUpTo_all hls]
    simp only [hx, and_true]

/-! ### Words -/

/-- The number of the first word of a length. -/
def wordStart (ls : List Nat) (l : Nat) : Nat := 2 ^ l + firstCode ls l

/-- The number past the last word of a length: there the stems of longer words begin. -/
def wordEnd (ls : List Nat) (l : Nat) : Nat := wordStart ls l + lenTally ls l

/-- The number of a symbol's word. -/
def word (ls : List Nat) (ch : Nat) : Nat := 2 ^ ls.getD ch 0 + canonicalCode ls ch

/-- The longer words follow the shorter ones (R191). -/
theorem wordStart_succ (ls : List Nat) {l : Nat} (hl : 1 ≤ l) : wordStart ls (l + 1) = 2 * wordEnd ls l := by
  obtain ⟨l, rfl⟩ := Nat.exists_eq_add_of_le' hl
  simp only [wordStart, wordEnd, firstCode, Nat.pow_succ]
  omega

theorem wordEnd_succ (ls : List Nat) {l : Nat} (hl : 1 ≤ l) :
    wordEnd ls (l + 1) = 2 * wordEnd ls l + lenTally ls (l + 1) :=
  congrArg (· + lenTally ls (l + 1)) (wordStart_succ ls hl)

/-- start[L] of R194 before its shift, as the first code of R191. -/
theorem startOf_eq (ls : List Nat) : ∀ {l : Nat}, l ≤ 16 → startOf ls l = firstCode ls l * 2 ^ (16 - l)
  | 0, _ => (Nat.zero_mul _).symm
  | 1, _ => (Nat.zero_mul _).symm
  | l + 2, h => by
    have ih := startOf_eq ls (l := l + 1) (by omega)
    have hpow : 2 ^ (16 - (l + 1)) = 2 * 2 ^ (16 - (l + 2)) := by
      rw [← Nat.pow_succ', show (16 - (l + 2)).succ = 16 - (l + 1) by omega]
    rw [startOf, ih, firstCode, ← Nat.add_mul, hpow]
    ring

/-- The first codes count the code space of the shorter lengths (R191, R193). -/
theorem spaceUpTo_eq (ls : List Nat) : ∀ {l : Nat}, l + 1 ≤ 16 →
    spaceUpTo ls (l + 1) = (firstCode ls (l + 1) + lenTally ls (l + 1)) * 2 ^ (16 - (l + 1))
  | 0, _ => by
    rw [spaceUpTo_succ, spaceUpTo_zero, firstCode, Nat.zero_add, Nat.zero_add, Nat.zero_add]
  | l + 1, h => by
    have ih := spaceUpTo_eq ls (l := l) (by omega)
    have hpow : 2 ^ (16 - (l + 1)) = 2 * 2 ^ (16 - (l + 1 + 1)) := by
      rw [← Nat.pow_succ', show (16 - (l + 1 + 1)).succ = 16 - (l + 1) by omega]
    rw [spaceUpTo_succ, ih, firstCode, hpow]
    ring

/-- Lengths that fill the code space exactly (R192, R193). -/
structure Complete (ls : List Nat) : Prop where
  le : ∀ l ∈ ls, l ≤ 16
  space : codeSpace ls = 65536

section Complete

variable {ls : List Nat} (hls : Complete ls)

include hls

theorem complete_getD_le (ch : Nat) : ls.getD ch 0 ≤ 16 := by
  rcases lt_or_ge ch ls.length with h | h
  · rw [List.getD_eq_getElem _ _ h]
    exact hls.le _ (List.getElem_mem h)
  · rw [List.getD_eq_default _ _ h]
    omega

theorem wordEnd_last : wordEnd ls 16 = 2 ^ 17 := by
  have hspace := spaceUpTo_eq ls (l := 15) le_rfl
  simp only [Nat.reduceAdd, spaceUpTo_all hls.le, hls.space] at hspace
  simp only [wordEnd, wordStart]
  omega

/-- Below every length are as many stems as fit. -/
theorem wordEnd_le : ∀ {k l : Nat}, l + k = 16 → 1 ≤ l → wordEnd ls l ≤ 2 ^ (l + 1)
  | 0, l, h, _ => by
    obtain rfl : l = 16 := h
    exact (wordEnd_last hls).le
  | k + 1, l, h, hl => by
    have ih := wordEnd_le (k := k) (l := l + 1) (by omega) (by omega)
    rw [wordEnd_succ ls hl, Nat.pow_succ] at ih
    omega

end Complete

/-! ### The words of the symbols -/

section Words

variable {ls : List Nat}

theorem lt_length_of_present {ch : Nat} (h : 0 < ls.getD ch 0) : ch < ls.length := by
  by_contra hge
  rw [List.getD_eq_default _ _ (Nat.not_lt.mp hge)] at h
  omega

theorem word_eq (ls : List Nat) (ch : Nat) :
    word ls ch = wordStart ls (ls.getD ch 0) + lenTally (ls.take ch) (ls.getD ch 0) := by
  simp only [word, canonicalCode, wordStart, Nat.add_assoc]

theorem wordStart_le_word (ls : List Nat) (ch : Nat) : wordStart ls (ls.getD ch 0) ≤ word ls ch :=
  word_eq ls ch ▸ Nat.le_add_right _ _

/-- The words of one length follow symbol order. -/
theorem word_lt_word {a b : Nat} (ha : a < ls.length) (hab : a < b) (hl : ls.getD a 0 = ls.getD b 0) :
    word ls a < word ls b := by
  have hsucc := lenTally_take_succ ha (ls.getD b 0)
  have hmono := lenTally_take_mono (ls := ls) (show a + 1 ≤ b from hab) (ls.getD b 0)
  rw [if_pos hl] at hsucc
  rw [word_eq, word_eq, hl]
  omega

theorem word_lt_wordEnd {ch : Nat} (hch : 0 < ls.getD ch 0) : word ls ch < wordEnd ls (ls.getD ch 0) := by
  have hsucc := lenTally_take_succ (lt_length_of_present hch) (ls.getD ch 0)
  have hle := lenTally_take_le ls (ch + 1) (ls.getD ch 0)
  rw [if_pos rfl] at hsucc
  rw [word_eq, wordEnd]
  omega

/-- All that begins with a longer word comes after all that begins with a shorter one. -/
theorem wordEnd_mul_le (ls : List Nat) {l : Nat} (hl : 1 ≤ l) : ∀ k : Nat,
    wordEnd ls l * 2 ^ (k + 1) ≤ wordStart ls (l + k + 1)
  | 0 => by
    rw [Nat.add_zero, wordStart_succ ls hl]
    omega
  | k + 1 => by
    have ih := wordEnd_mul_le ls hl k
    have hle : wordStart ls (l + k + 1) ≤ wordEnd ls (l + k + 1) := Nat.le_add_right _ _
    rw [← Nat.add_assoc, wordStart_succ ls (show 1 ≤ l + k + 1 by omega), Nat.pow_succ, ← Nat.mul_assoc]
    omega

/-- The same, for two depths by name. -/
theorem wordEnd_mul_le_wordStart (ls : List Nat) {l m : Nat} (hl : 1 ≤ l) (hlm : l < m) :
    wordEnd ls l * 2 ^ (m - l) ≤ wordStart ls m := by
  have h := wordEnd_mul_le ls hl (m - l - 1)
  rwa [show m - l - 1 + 1 = m - l by omega, show l + (m - l - 1) + 1 = m by omega] at h

/-- Two words that begin the same `u` bits are of one length: no word is a stem of another. -/
theorem length_le_of_stem {a b q u : Nat} (ha : 0 < ls.getD a 0) (hu : ls.getD a 0 ≤ u) (hv : ls.getD b 0 ≤ u)
    (hqa : q / 2 ^ (u - ls.getD a 0) = word ls a) (hqb : q / 2 ^ (u - ls.getD b 0) = word ls b) :
    ls.getD b 0 ≤ ls.getD a 0 := by
  by_contra hlt
  have hend := word_lt_wordEnd ha
  have hstart := wordStart_le_word ls b
  have hmul := wordEnd_mul_le_wordStart ls ha (Nat.not_le.mp hlt)
  have hqa' : q < wordEnd ls (ls.getD a 0) * 2 ^ (u - ls.getD a 0) :=
    (Nat.div_lt_iff_lt_mul (Nat.two_pow_pos _)).mp (hqa ▸ hend)
  have hqb' : wordStart ls (ls.getD b 0) * 2 ^ (u - ls.getD b 0) ≤ q :=
    (Nat.le_div_iff_mul_le (Nat.two_pow_pos _)).mp (hqb ▸ hstart)
  have hsplit : 2 ^ (u - ls.getD a 0) = 2 ^ (ls.getD b 0 - ls.getD a 0) * 2 ^ (u - ls.getD b 0) := by
    rw [← Nat.pow_add, show ls.getD b 0 - ls.getD a 0 + (u - ls.getD b 0) = u - ls.getD a 0 by omega]
  rw [hsplit, ← Nat.mul_assoc] at hqa'
  exact absurd (hqa'.trans_le (Nat.mul_le_mul_right _ hmul)) (Nat.not_lt.mpr hqb')

/-- Two words that begin the same bits are one symbol's. -/
theorem eq_of_stem {a b q u : Nat} (ha : 0 < ls.getD a 0) (hb : 0 < ls.getD b 0) (hu : ls.getD a 0 ≤ u)
    (hv : ls.getD b 0 ≤ u) (hqa : q / 2 ^ (u - ls.getD a 0) = word ls a)
    (hqb : q / 2 ^ (u - ls.getD b 0) = word ls b) : a = b := by
  have hl : ls.getD a 0 = ls.getD b 0 :=
    le_antisymm (length_le_of_stem hb hv hu hqb hqa) (length_le_of_stem ha hu hv hqa hqb)
  have hw : word ls a = word ls b := by rw [← hqa, ← hqb, hl]
  rcases lt_trichotomy a b with h | h | h
  · exact absurd hw (word_lt_word (lt_length_of_present ha) h hl).ne
  · exact h
  · exact absurd hw.symm (word_lt_word (lt_length_of_present hb) h hl.symm).ne

end Words

/-! ### The stems of words -/

/-- The numbers of the proper stems of words: depth `d` has those from `wordEnd` on. -/
def innerNodes (ls : List Nat) : Finset Nat :=
  (Finset.range 15).biUnion fun d => Finset.Ico (wordEnd ls (d + 1)) (2 ^ (d + 2))

theorem mem_innerNodes {ls : List Nat} {q : Nat} :
    q ∈ innerNodes ls ↔ ∃ d, 1 ≤ d ∧ d ≤ 15 ∧ wordEnd ls d ≤ q ∧ q < 2 ^ (d + 1) := by
  simp only [innerNodes, Finset.mem_biUnion, Finset.mem_range, Finset.mem_Ico]
  constructor
  · rintro ⟨d, hd, hq⟩
    exact ⟨d + 1, by omega, by omega, hq⟩
  · rintro ⟨d, h1, h15, hq⟩
    obtain ⟨d, rfl⟩ := Nat.exists_eq_add_of_le' h1
    exact ⟨d, by omega, hq⟩

/-- A number has one depth. -/
theorem depth_unique {q d e : Nat} (hd : 2 ^ d ≤ q) (hd' : q < 2 ^ (d + 1)) (he : 2 ^ e ≤ q) (he' : q < 2 ^ (e + 1)) :
    d = e := by
  have h1 := (Nat.pow_lt_pow_iff_right (a := 2) (by decide)).mp (hd.trans_lt he')
  have h2 := (Nat.pow_lt_pow_iff_right (a := 2) (by decide)).mp (he.trans_lt hd')
  omega

theorem pow_le_wordEnd (ls : List Nat) (l : Nat) : 2 ^ l ≤ wordEnd ls l :=
  (Nat.le_add_right _ _).trans (Nat.le_add_right _ _)

/-- At its depth a stem of a word comes after all the words. -/
theorem wordEnd_le_of_mem {ls : List Nat} {q d : Nat} (h : q ∈ innerNodes ls) (hd : 2 ^ d ≤ q) (hd' : q < 2 ^ (d + 1)) :
    wordEnd ls d ≤ q := by
  obtain ⟨e, -, -, he, he'⟩ := mem_innerNodes.mp h
  rwa [depth_unique hd hd' ((pow_le_wordEnd ls e).trans he) he']

section Counting

variable {ls : List Nat} (hls : Complete ls)

include hls

/-- A word stays below its depth's end. -/
theorem word_lt {ch : Nat} (hch : 0 < ls.getD ch 0) : word ls ch < 2 ^ (ls.getD ch 0 + 1) :=
  (word_lt_wordEnd hch).trans_le
    (wordEnd_le hls (Nat.add_sub_cancel' (complete_getD_le hls ch)) hch)

/-- A proper stem of a word is one. -/
theorem stem_mem_innerNodes {ch n : Nat} (hch : 0 < ls.getD ch 0) (hn : 0 < n) (hn' : n < ls.getD ch 0) :
    word ls ch / 2 ^ n ∈ innerNodes ls := by
  have h16 := complete_getD_le hls ch
  have hmul := wordEnd_mul_le_wordStart ls (show 1 ≤ ls.getD ch 0 - n by omega) (show ls.getD ch 0 - n < ls.getD ch 0 by omega)
  rw [show ls.getD ch 0 - (ls.getD ch 0 - n) = n by omega] at hmul
  refine mem_innerNodes.mpr ⟨ls.getD ch 0 - n, by omega, by omega, ?_, ?_⟩
  · exact (Nat.le_div_iff_mul_le (Nat.two_pow_pos _)).mpr (hmul.trans (wordStart_le_word ls ch))
  · rw [Nat.div_lt_iff_lt_mul (Nat.two_pow_pos _), ← Nat.pow_add, show ls.getD ch 0 - n + 1 + n = ls.getD ch 0 + 1 by omega]
    exact word_lt hls hch

/-- Two stems of each depth become the stems and words of the next, so there are fewer stems than words. -/
theorem sum_innerNodes : ∀ n : Nat, n ≤ 15 →
    ∑ d ∈ Finset.range n, (2 ^ (d + 2) - wordEnd ls (d + 1)) + 2 =
      2 ^ (n + 2) - wordEnd ls (n + 1) + ∑ d ∈ Finset.range (n + 1), lenTally ls (d + 1)
  | 0, _ => by
    have hle := wordEnd_le hls (k := 15) (l := 1) (by omega) le_rfl
    simp only [Nat.reduceAdd, wordEnd, wordStart, firstCode, Finset.sum_range_zero, Finset.sum_range_one] at *
    omega
  | n + 1, h => by
    have ih := sum_innerNodes n (by omega)
    have hle := wordEnd_le hls (k := 15 - n) (l := n + 1) (by omega) (by omega)
    have hle' := wordEnd_le hls (k := 14 - n) (l := n + 2) (by omega) (by omega)
    rw [wordEnd_succ ls (show 1 ≤ n + 1 by omega), Nat.pow_succ] at hle'
    rw [Finset.sum_range_succ, Finset.sum_range_succ _ (n + 1), wordEnd_succ ls (show 1 ≤ n + 1 by omega),
      show n + 1 + 2 = n + 2 + 1 by omega, Nat.pow_succ _ (n + 2)]
    omega

/-- R195: but for the root, a complete code has at least two stems fewer than symbols. -/
theorem card_innerNodes_le : (innerNodes ls).card + 2 ≤ ls.length := by
  have hunion : (innerNodes ls).card ≤ ∑ d ∈ Finset.range 15, (2 ^ (d + 2) - wordEnd ls (d + 1)) := by
    refine Finset.card_biUnion_le.trans (Finset.sum_le_sum fun d _ => ?_)
    rw [Nat.card_Ico]
  have hsum := sum_innerNodes hls 15 le_rfl
  have hlast := wordEnd_last hls
  have htally := sum_lenTally_le 16 ls
  simp only [Nat.reduceAdd, hlast] at hsum
  omega

end Counting

end Sys2Proof.Proofs
end

section
/-! PROOFS. BuildTable of a complete code (R194, R195): the tree that R194's loops thread, as the set of stems that have
a node, and what each step of the loops makes of it. -/

namespace Sys2Proof.Proofs

open Sys2Proof.Machine Sys2Proof.Laws

/-! ### Designated cells -/

/-- The cell lies in its RAM. -/
def CellRef.InRange (t : Table) : CellRef → Prop
  | .entry i => i < tableCount t
  | .leftOf n => n < treeCount t
  | .rightOf n => n < treeCount t

/-- An element of a table's RAM, as a number, after a number is written. -/
theorem toNat_cellWrite {w size a v : Nat} {m : List (Nat × BitVec w)} (hm : cellsWf size 0#w m = true) (ha : a < size)
    (hv : v < 2 ^ w) (c : Nat) : (cellGet 0#w (cellWrite size 0#w m a (BitVec.ofNat w v)) c).toNat =
      if c = a then v else (cellGet 0#w m c).toNat := by
  rw [cellGet_cellWrite hm]
  by_cases hc : c = a
  · rw [if_pos ⟨hc, ha⟩, if_pos hc, BitVec.toNat_ofNat, Nat.mod_eq_of_lt hv]
  · rw [if_neg fun h => hc h.1, if_neg hc]

/-- What a designated cell holds after a write to one. -/
theorem readRef_writeRef {w : Nat} {t : Table} {h : HuffTable w} (hw : h.wf t = true) {r : CellRef} {v : Nat}
    (hr : CellRef.InRange t r) (hv : v < 2 ^ w) (r' : CellRef) :
    (h.writeRef t r v).readRef r' = if r' = r then v else h.readRef r' := by
  obtain ⟨-, htable, hleft, hright⟩ := table_wf_iff.mp hw
  cases r <;> cases r'
  case entry.entry i j =>
    exact (toNat_cellWrite htable hr hv j).trans (if_congr (iff_of_eq (CellRef.entry.injEq j i)).symm rfl rfl)
  case leftOf.leftOf i j =>
    exact (toNat_cellWrite hleft hr hv j).trans (if_congr (iff_of_eq (CellRef.leftOf.injEq j i)).symm rfl rfl)
  case rightOf.rightOf i j =>
    exact (toNat_cellWrite hright hr hv j).trans (if_congr (iff_of_eq (CellRef.rightOf.injEq j i)).symm rfl rfl)
  all_goals rfl

@[simp] theorem writeRef_len {w : Nat} (t : Table) (h : HuffTable w) (r : CellRef) (v : Nat) :
    (h.writeRef t r v).len = h.len := by
  cases r <;> rfl

/-! ### The cell of a stem -/

/-- The cell of a stem or word of at least the lookup width, where the stems above it have these nodes. -/
def nodeCell (t : Table) (name : Nat → Nat) (q : Nat) : CellRef :=
  if q < 2 ^ (tableBits t + 1) then .entry (q - 2 ^ tableBits t)
  else if q.testBit 0 then .rightOf (name (q / 2)) else .leftOf (name (q / 2))

/-- The stem has a cell: a TABLE entry, or a child of a node. -/
def Live (t : Table) (nodes : Finset Nat) (q : Nat) : Prop :=
  2 ^ tableBits t ≤ q ∧ (q < 2 ^ (tableBits t + 1) ∨ q / 2 ∈ nodes)

/-- These stems have these nodes: each a node of its own from the alphabet size on, and a cell to hold it. -/
structure Named (t : Table) (ls : List Nat) (nodes : Finset Nat) (name : Nat → Nat) : Prop where
  inner : nodes ⊆ innerNodes ls
  live : ∀ q ∈ nodes, Live t nodes q
  lo : ∀ q ∈ nodes, ls.length ≤ name q
  hi : ∀ q ∈ nodes, name q < ls.length + nodes.card
  inj : ∀ p ∈ nodes, ∀ q ∈ nodes, name p = name q → p = q

theorem nodeCell_entry {t : Table} {name : Nat → Nat} {q : Nat} (h : q < 2 ^ (tableBits t + 1)) :
    nodeCell t name q = .entry (q - 2 ^ tableBits t) := if_pos h

theorem nodeCell_child {t : Table} {name : Nat → Nat} {q : Nat} (h : ¬q < 2 ^ (tableBits t + 1)) :
    nodeCell t name q = if q.testBit 0 then .rightOf (name (q / 2)) else .leftOf (name (q / 2)) := if_neg h

theorem tableCount_eq (t : Table) : tableCount t = 2 ^ tableBits t := by
  cases t <;> rfl

theorem tableBits_pos (t : Table) : 0 < tableBits t := by
  cases t <;> decide

theorem treeCount_eq (t : Table) : treeCount t + 1 = 2 * lenCount t := by
  cases t <;> rfl

theorem Live.insert {t : Table} {nodes : Finset Nat} {q : Nat} (h : Live t nodes q) (p : Nat) :
    Live t (insert p nodes) q :=
  ⟨h.1, h.2.imp_right Finset.mem_insert_of_mem⟩

section Named

variable {t : Table} {ls : List Nat} {nodes : Finset Nat} {name : Nat → Nat} (hn : Named t ls nodes name)

include hn

/-- Different stems have different cells. -/
theorem nodeCell_inj {p q : Nat} (hp : Live t nodes p) (hq : Live t nodes q)
    (h : nodeCell t name p = nodeCell t name q) : p = q := by
  obtain ⟨hp0, hp1⟩ := hp
  obtain ⟨hq0, hq1⟩ := hq
  by_cases hpe : p < 2 ^ (tableBits t + 1) <;> by_cases hqe : q < 2 ^ (tableBits t + 1)
  · rw [nodeCell_entry hpe, nodeCell_entry hqe, CellRef.entry.injEq] at h
    omega
  · rw [nodeCell_entry hpe, nodeCell_child hqe] at h
    split at h <;> cases h
  · rw [nodeCell_child hpe, nodeCell_entry hqe] at h
    split at h <;> cases h
  · rw [nodeCell_child hpe, nodeCell_child hqe] at h
    have hinj := hn.inj _ (hp1.resolve_left hpe) _ (hq1.resolve_left hqe)
    have hp2 := Nat.div_add_mod p 2
    have hq2 := Nat.div_add_mod q 2
    split at h <;> split at h <;> simp_all [Nat.testBit_zero]

/-- A stem's cell is no child of the next node. -/
theorem nodeCell_ne_next {q : Nat} (hq : Live t nodes q) :
    nodeCell t name q ≠ .leftOf (ls.length + nodes.card) ∧ nodeCell t name q ≠ .rightOf (ls.length + nodes.card) := by
  by_cases hqe : q < 2 ^ (tableBits t + 1)
  · rw [nodeCell_entry hqe]
    exact ⟨nofun, nofun⟩
  · have hhi := hn.hi _ (hq.2.resolve_left hqe)
    rw [nodeCell_child hqe]
    split
    · exact ⟨nofun, fun h => hhi.ne (CellRef.rightOf.inj h)⟩
    · exact ⟨fun h => hhi.ne (CellRef.leftOf.inj h), nofun⟩

/-- The nodes are fewer than the symbols by two at least, so there is always room for one more (R195). -/
theorem card_nodes_le (hls : Complete ls) : nodes.card + 2 ≤ ls.length :=
  (Nat.add_le_add_right (Finset.card_le_card hn.inner) 2).trans (card_innerNodes_le hls)

theorem nodeCell_inRange (hls : Complete ls) (hfits : ls.length ≤ lenCount t) {q : Nat} (hq : Live t nodes q) :
    CellRef.InRange t (nodeCell t name q) := by
  have hcard := card_nodes_le hn hls
  have htree := treeCount_eq t
  by_cases hqe : q < 2 ^ (tableBits t + 1)
  · have hlo := hq.1
    rw [Nat.pow_succ] at hqe
    rw [nodeCell_entry (by rwa [Nat.pow_succ])]
    exact (show q - 2 ^ tableBits t < 2 ^ tableBits t by omega).trans_eq (tableCount_eq t).symm
  · have hhi := hn.hi _ (hq.2.resolve_left hqe)
    rw [nodeCell_child hqe]
    split
    · exact show name (q / 2) < treeCount t by omega
    · exact show name (q / 2) < treeCount t by omega

omit hn in
/-- One more node: the cells of the stems that had one stay where they were. -/
theorem nodeCell_update {p q v : Nat} (hp : p ∉ nodes) (hq : Live t nodes q) :
    nodeCell t (Function.update name p v) q = nodeCell t name q := by
  by_cases hqe : q < 2 ^ (tableBits t + 1)
  · rw [nodeCell_entry hqe, nodeCell_entry hqe]
  · have hne : q / 2 ≠ p := fun h => hp (h ▸ hq.2.resolve_left hqe)
    rw [nodeCell_child hqe, nodeCell_child hqe, Function.update_of_ne hne]

theorem Named.insert {q : Nat} (hq : q ∈ innerNodes ls) (hlive : Live t nodes q) (hnot : q ∉ nodes) :
    Named t ls (insert q nodes) (Function.update name q (ls.length + nodes.card)) where
  inner := Finset.insert_subset hq hn.inner
  live p hp := by
    rcases Finset.mem_insert.mp hp with rfl | hp
    · exact hlive.insert p
    · exact (hn.live p hp).insert q
  lo p hp := by
    rcases Finset.mem_insert.mp hp with rfl | hp
    · rw [Function.update_self]
      omega
    · rw [Function.update_of_ne (ne_of_mem_of_not_mem hp hnot)]
      exact hn.lo p hp
  hi p hp := by
    rw [Finset.card_insert_of_notMem hnot]
    rcases Finset.mem_insert.mp hp with rfl | hp
    · rw [Function.update_self]
      omega
    · rw [Function.update_of_ne (ne_of_mem_of_not_mem hp hnot)]
      have := hn.hi p hp
      omega
  inj p hp r hr h := by
    rcases Finset.mem_insert.mp hp with hpq | hp <;> rcases Finset.mem_insert.mp hr with hrq | hr
    · exact hpq.trans hrq.symm
    · rw [hpq, Function.update_self, Function.update_of_ne (ne_of_mem_of_not_mem hr hnot)] at h
      have := hn.hi r hr
      omega
    · rw [hrq, Function.update_self, Function.update_of_ne (ne_of_mem_of_not_mem hp hnot)] at h
      have := hn.hi p hp
      omega
    · rw [Function.update_of_ne (ne_of_mem_of_not_mem hp hnot),
        Function.update_of_ne (ne_of_mem_of_not_mem hr hnot)] at h
      exact hn.inj p hp r hr h

end Named

/-! ### The cells of a word -/

/-- The word of the symbol ends here: at the word's own number where it is longer than the lookup width, else at each
number of the lookup width that begins with it. -/
def LeafAt (t : Table) (ls : List Nat) (ch q : Nat) : Prop := q / 2 ^ (tableBits t - ls.getD ch 0) = word ls ch

section Leaves

variable {t : Table} {ls : List Nat} {ch q : Nat}

theorem pow_le_word (ls : List Nat) (ch : Nat) : 2 ^ ls.getD ch 0 ≤ word ls ch := Nat.le_add_right _ _

/-- A word ends at its own depth, or at the lookup width's. -/
theorem leafAt_depth (hls : Complete ls) (hch : 0 < ls.getD ch 0) (h : LeafAt t ls ch q) :
    2 ^ max (tableBits t) (ls.getD ch 0) ≤ q ∧ q < 2 ^ (max (tableBits t) (ls.getD ch 0) + 1) := by
  have hlt := word_lt hls hch
  have hle := pow_le_word ls ch
  rw [← h] at hlt hle
  rw [Nat.div_lt_iff_lt_mul (Nat.two_pow_pos _), ← Nat.pow_add] at hlt
  rw [Nat.le_div_iff_mul_le (Nat.two_pow_pos _), ← Nat.pow_add] at hle
  rw [show ls.getD ch 0 + (tableBits t - ls.getD ch 0) = max (tableBits t) (ls.getD ch 0) by omega] at hle
  rw [show ls.getD ch 0 + 1 + (tableBits t - ls.getD ch 0) = max (tableBits t) (ls.getD ch 0) + 1 by omega] at hlt
  exact ⟨hle, hlt⟩

/-- No word ends at a proper stem of a word. -/
theorem leafAt_not_inner (hls : Complete ls) (hch : 0 < ls.getD ch 0) (h : LeafAt t ls ch q) : q ∉ innerNodes ls := by
  intro hq
  obtain ⟨hlo, hhi⟩ := leafAt_depth hls hch h
  have hend := wordEnd_le_of_mem hq hlo hhi
  have hlt := word_lt_wordEnd hch
  rw [← h, Nat.div_lt_iff_lt_mul (Nat.two_pow_pos _)] at hlt
  rcases Nat.lt_or_ge (ls.getD ch 0) (tableBits t) with hl | hl
  · have hmul := wordEnd_mul_le_wordStart ls hch hl
    have hle : wordStart ls (tableBits t) ≤ wordEnd ls (tableBits t) := Nat.le_add_right _ _
    rw [Nat.max_eq_left hl.le] at hend
    omega
  · rw [Nat.max_eq_right hl] at hend
    rw [Nat.sub_eq_zero_of_le hl, Nat.pow_zero, Nat.mul_one] at hlt
    omega

/-- One word ends in one place. -/
theorem leafAt_unique (hls : Complete ls) {a b : Nat} (ha : 0 < ls.getD a 0) (hb : 0 < ls.getD b 0)
    (hqa : LeafAt t ls a q) (hqb : LeafAt t ls b q) : a = b := by
  obtain ⟨hlo, hhi⟩ := leafAt_depth hls ha hqa
  obtain ⟨hlo', hhi'⟩ := leafAt_depth hls hb hqb
  have hdepth := depth_unique hlo hhi hlo' hhi'
  refine eq_of_stem (u := max (tableBits t) (ls.getD a 0)) (q := q) ha hb (le_max_right _ _)
    (hdepth ▸ le_max_right _ _) ?_ ?_
  · rw [show max (tableBits t) (ls.getD a 0) - ls.getD a 0 = tableBits t - ls.getD a 0 by omega]
    exact hqa
  · rw [show max (tableBits t) (ls.getD a 0) - ls.getD b 0 = tableBits t - ls.getD b 0 by omega]
    exact hqb

end Leaves

/-- The entries that begin with a word within the lookup width. -/
theorem leafAt_short_iff {t : Table} {ls : List Nat} {ch q : Nat} (hl : ls.getD ch 0 ≤ tableBits t) :
    LeafAt t ls ch q ↔ 2 ^ tableBits t + canonicalCode ls ch * 2 ^ (tableBits t - ls.getD ch 0) ≤ q ∧
      q < 2 ^ tableBits t + canonicalCode ls ch * 2 ^ (tableBits t - ls.getD ch 0) +
        2 ^ (tableBits t - ls.getD ch 0) := by
  have hpos := Nat.two_pow_pos (tableBits t - ls.getD ch 0)
  rw [LeafAt, Nat.div_eq_iff hpos, word, Nat.add_mul, ← Nat.pow_add, Nat.add_sub_cancel' hl]
  have hbits := Nat.two_pow_pos (tableBits t)
  omega

/-- What a designated cell holds after a fill of TABLE. -/
theorem readRef_fillTable {w : Nat} {t : Table} {h : HuffTable w} (hw : h.wf t = true) {k n v i : Nat} (hv : v < 2 ^ w) :
    (h.fillTable t k n v).readRef (.entry i) =
      if k ≤ i ∧ i < k + n ∧ i < tableCount t then v else h.readRef (.entry i) := by
  simp only [HuffTable.readRef, HuffTable.getTable, HuffTable.fillTable, cellGet_cellFill (table_wf_iff.mp hw).2.1]
  split
  · rw [BitVec.toNat_ofNat, Nat.mod_eq_of_lt hv]
  · rfl

/-! ### The table as far as it is built -/

/-- The table holds the words of the symbols before `done`, on these nodes; a stem that has a cell and no node reads 0,
which R194 takes as "not there"; and the length array is `m`. -/
structure Planted (t : Table) (ls : List Nat) (m : List (Nat × BitVec 5)) (done : Nat) (nodes : Finset Nat)
    (name : Nat → Nat) (b : Building (entryWidth t)) : Prop where
  wf : b.table.wf t = true
  len : b.table.len = m
  avail : b.avail = ls.length + nodes.card
  named : Named t ls nodes name
  nodeRead : ∀ q ∈ nodes, b.table.readRef (nodeCell t name q) = name q
  freeRead : ∀ q ∈ innerNodes ls, Live t nodes q → q ∉ nodes → b.table.readRef (nodeCell t name q) = 0
  leafRead : ∀ ch, ch < done → 0 < ls.getD ch 0 → ∀ q, LeafAt t ls ch q →
    Live t nodes q ∧ b.table.readRef (nodeCell t name q) = ch

section Planting

variable {t : Table} {ls : List Nat} {m : List (Nat × BitVec 5)} {done : Nat} {nodes : Finset Nat} {name : Nat → Nat}
  {b : Building (entryWidth t)} (h : Planted t ls m done nodes name b) (hls : Complete ls)

include h hls

/-- The next symbol's word is written wherever it ends, and nothing else. -/
theorem Planted.plant {b' : Building (entryWidth t)} (hwf : b'.table.wf t = true) (hlen : b'.table.len = m)
    (havail : b'.avail = b.avail)
    (hleaf : 0 < ls.getD done 0 → ∀ q, LeafAt t ls done q →
      Live t nodes q ∧ b'.table.readRef (nodeCell t name q) = done)
    (hrest : ∀ q, Live t nodes q → ¬(0 < ls.getD done 0 ∧ LeafAt t ls done q) →
      b'.table.readRef (nodeCell t name q) = b.table.readRef (nodeCell t name q)) :
    Planted t ls m (done + 1) nodes name b' where
  wf := hwf
  len := hlen
  avail := havail.trans h.avail
  named := h.named
  nodeRead q hq := by
    rw [hrest q (h.named.live q hq) fun hl => leafAt_not_inner hls hl.1 hl.2 (h.named.inner hq)]
    exact h.nodeRead q hq
  freeRead q hq hlive hnot := by
    rw [hrest q hlive fun hl => leafAt_not_inner hls hl.1 hl.2 hq]
    exact h.freeRead q hq hlive hnot
  leafRead ch hch hpos q hq := by
    rcases Nat.lt_succ_iff_lt_or_eq.mp hch with hch | rfl
    · obtain ⟨hlive, hread⟩ := h.leafRead ch hch hpos q hq
      rw [hrest q hlive fun hl => hch.ne (leafAt_unique hls hpos hl.1 hq hl.2)]
      exact ⟨hlive, hread⟩
    · exact hleaf hpos q hq

/-- A symbol without a word. -/
theorem Planted.skip (h0 : ls.getD done 0 = 0) : Planted t ls m (done + 1) nodes name b :=
  h.plant hls h.wf h.len rfl (fun hpos => absurd hpos (by omega)) fun _ _ _ => rfl

/-- A word within the lookup width is written to every entry that begins with it. -/
theorem Planted.plantShort (hpos : 0 < ls.getD done 0) (hl : ls.getD done 0 ≤ tableBits t)
    (hwidth : done < 2 ^ entryWidth t) :
    Planted t ls m (done + 1) nodes name { b with
      table := b.table.fillTable t (canonicalCode ls done * 2 ^ (tableBits t - ls.getD done 0))
        (2 ^ (tableBits t - ls.getD done 0)) done } := by
  refine h.plant hls (table_wf_fillTable h.wf _ _ _) h.len rfl (fun _ q hq => ?_) fun q hq hnot => ?_
  · obtain ⟨hlo, hhi⟩ := leafAt_depth hls hpos hq
    rw [Nat.max_eq_left hl] at hlo hhi
    rw [leafAt_short_iff hl] at hq
    rw [nodeCell_entry hhi, readRef_fillTable h.wf hwidth, if_pos]
    · exact ⟨⟨hlo, .inl hhi⟩, rfl⟩
    · rw [tableCount_eq]
      rw [Nat.pow_succ] at hhi
      omega
  · by_cases hqe : q < 2 ^ (tableBits t + 1)
    · have hlo := hq.1
      rw [leafAt_short_iff hl] at hnot
      rw [nodeCell_entry hqe, readRef_fillTable h.wf hwidth, if_neg (by omega)]
    · rw [nodeCell_child hqe]
      split <;> rfl

variable (hfits : ls.length ≤ lenCount t)

include hfits

theorem next_lt : ls.length + nodes.card < treeCount t ∧ ls.length + nodes.card < 2 ^ entryWidth t := by
  have hcard := card_nodes_le h.named hls
  have htree := treeCount_eq t
  have hwidth := two_mul_lenCount_le t
  omega

/-- A word longer than the lookup width is written to its cell. -/
theorem Planted.plantLong (hl : tableBits t < ls.getD done 0) (hlive : Live t nodes (word ls done)) :
    Planted t ls m (done + 1) nodes name
      { b with table := b.table.writeRef t (nodeCell t name (word ls done)) done } := by
  have hdone := lt_length_of_present (show 0 < ls.getD done 0 by omega)
  have hwidth := (next_lt h hls hfits).2
  have hleaf : ∀ q, LeafAt t ls done q ↔ q = word ls done := fun q => by
    rw [LeafAt, Nat.sub_eq_zero_of_le hl.le, Nat.pow_zero, Nat.div_one]
  have hread := readRef_writeRef h.wf (nodeCell_inRange h.named hls hfits hlive)
    (show done < 2 ^ entryWidth t by omega)
  refine h.plant hls (table_wf_writeRef h.wf _ _) ((writeRef_len _ _ _ _).trans h.len) rfl (fun _ q hq => ?_)
    fun q hq hnot => ?_
  · rw [hleaf] at hq
    subst hq
    exact ⟨hlive, by rw [hread, if_pos rfl]⟩
  · rw [hread, if_neg fun hcell => hnot ⟨by omega, (hleaf q).mpr (nodeCell_inj h.named hq hlive hcell)⟩]

/-- A stem gets a node: the cell designates it, and its children read 0. -/
def allocNode {w : Nat} (t : Table) (b : Building w) (ref : CellRef) : Building w :=
  { b with
    table := (((b.table.writeRef t (.leftOf b.avail) 0).writeRef t (.rightOf b.avail) 0).writeRef t ref b.avail)
    avail := b.avail + 1 }

theorem allocNode_read {q : Nat} (hlive : Live t nodes q) (r : CellRef) :
    (allocNode t b (nodeCell t name q)).table.readRef r =
      if r = nodeCell t name q then ls.length + nodes.card
      else if r = .rightOf (ls.length + nodes.card) then 0
      else if r = .leftOf (ls.length + nodes.card) then 0
      else b.table.readRef r := by
  obtain ⟨htree, hwidth⟩ := next_lt h hls hfits
  have hcell := nodeCell_inRange h.named hls hfits hlive
  have hwf1 := table_wf_writeRef h.wf (.leftOf (ls.length + nodes.card)) 0
  have hwf2 := table_wf_writeRef hwf1 (.rightOf (ls.length + nodes.card)) 0
  rw [allocNode, h.avail, readRef_writeRef hwf2 hcell hwidth,
    readRef_writeRef hwf1 (show CellRef.InRange t (.rightOf _) from htree) (Nat.two_pow_pos _),
    readRef_writeRef h.wf (show CellRef.InRange t (.leftOf _) from htree) (Nat.two_pow_pos _)]

theorem Planted.alloc {q : Nat} (hq : q ∈ innerNodes ls) (hlive : Live t nodes q) (hnot : q ∉ nodes) :
    Planted t ls m done (insert q nodes) (Function.update name q (ls.length + nodes.card))
      (allocNode t b (nodeCell t name q)) := by
  have hread := allocNode_read h hls hfits hlive
  have hself := nodeCell_ne_next h.named hlive
  have hold : ∀ p, Live t nodes p → p ≠ q → (allocNode t b (nodeCell t name q)).table.readRef
      (nodeCell t (Function.update name q (ls.length + nodes.card)) p) = b.table.readRef (nodeCell t name p) := by
    intro p hp hpq
    obtain ⟨hleft, hright⟩ := nodeCell_ne_next h.named hp
    rw [nodeCell_update hnot hp, hread, if_neg (fun hc => hpq (nodeCell_inj h.named hp hlive hc)), if_neg hright,
      if_neg hleft]
  refine ⟨?wf, ?len, ?avail, h.named.insert hq hlive hnot, ?nodeRead, ?freeRead, ?leafRead⟩
  case wf => exact table_wf_writeRef (table_wf_writeRef (table_wf_writeRef h.wf _ _) _ _) _ _
  case len => exact (by simp [allocNode] : _ = b.table.len).trans h.len
  case avail =>
    rw [Finset.card_insert_of_notMem hnot, allocNode, h.avail]
    rfl
  case nodeRead =>
    intro p hp
    rcases Finset.mem_insert.mp hp with rfl | hp
    · rw [nodeCell_update hnot hlive, hread, if_pos rfl, Function.update_self]
    · have hne := ne_of_mem_of_not_mem hp hnot
      rw [hold p (h.named.live p hp) hne, h.nodeRead p hp, Function.update_of_ne hne]
  case freeRead =>
    intro p hp hplive hpnot
    rw [Finset.mem_insert, not_or] at hpnot
    by_cases hpold : Live t nodes p
    · rw [hold p hpold hpnot.1, h.freeRead p hp hpold hpnot.2]
    · have hdeep : ¬p < 2 ^ (tableBits t + 1) := fun hlt => hpold ⟨hplive.1, .inl hlt⟩
      have hparent : p / 2 = q := (Finset.mem_insert.mp (hplive.2.resolve_left hdeep)).resolve_right
        fun hm => hpold ⟨hplive.1, .inr hm⟩
      rw [nodeCell_child hdeep, hparent, Function.update_self]
      split
      · rw [hread, if_neg hself.2.symm, if_pos rfl]
      · rw [hread, if_neg hself.1.symm, if_neg nofun, if_pos rfl]
  case leafRead =>
    intro ch hch hpos p hp
    obtain ⟨hplive, hpread⟩ := h.leafRead ch hch hpos p hp
    have hne : p ≠ q := fun hpq => leafAt_not_inner hls hpos hp (hpq ▸ hq)
    exact ⟨hplive.insert q, (hold p hplive hne).trans hpread⟩

/-- A cell that is given a node if it has none, as R194's inner loop does. -/
def entered {w : Nat} (t : Table) (b : Building w) (ref : CellRef) : Building w :=
  if b.table.readRef ref = 0 then allocNode t b ref else b

/-- R194's inner loop enters a stem of a word. -/
theorem Planted.enter {q : Nat} (hq : q ∈ innerNodes ls) (hlive : Live t nodes q) :
    ∃ nodes' name', Planted t ls m done nodes' name' (entered t b (nodeCell t name q)) ∧ q ∈ nodes' ∧
      nodeCell t name' q = nodeCell t name q := by
  by_cases hmem : q ∈ nodes
  · have hread := h.nodeRead q hmem
    have hlo := h.named.lo q hmem
    have hcard := card_nodes_le h.named hls
    rw [entered, if_neg (by omega)]
    exact ⟨nodes, name, h, hmem, rfl⟩
  · rw [entered, if_pos (h.freeRead q hq hlive hmem)]
    exact ⟨_, _, h.alloc hls hfits hq hlive hmem, Finset.mem_insert_self q nodes, nodeCell_update hmem hlive⟩

end Planting

/-! ### R194's loops -/

/-- One step of the inner loop, where there is room for a node. -/
theorem threadCode_succ {w : Nat} {t : Table} {nchar k ch n j : Nat} {ref : CellRef} {b : Building w}
    (hroom : b.avail < 2 * nchar - 1) :
    threadCode t nchar k ch (n + 1) j ref b =
      threadCode t nchar k ch n (j + 1)
        (if k.testBit (15 - tableBits t - j) then .rightOf ((entered t b ref).table.readRef ref)
          else .leftOf ((entered t b ref).table.readRef ref)) (entered t b ref) := by
  have hnot : ¬((decide (b.table.readRef ref = 0) && decide (2 * nchar - 1 ≤ b.avail)) = true) := by
    simp [Nat.not_le.mpr hroom]
  rw [threadCode, if_neg hnot]
  rfl

@[simp] theorem entered_start {w : Nat} (t : Table) (b : Building w) (ref : CellRef) :
    (entered t b ref).start = b.start := by
  unfold entered
  split <;> rfl

/-- The bit of a left-aligned code that chooses a child is the parity of the child's number. -/
theorem code_testBit {ls : List Nat} {ch n : Nat} (hn : n < ls.getD ch 0) {i : Nat}
    (hi : i = 16 - ls.getD ch 0 + n) :
    (canonicalCode ls ch * 2 ^ (16 - ls.getD ch 0)).testBit i = (word ls ch / 2 ^ n).testBit 0 := by
  rw [Nat.testBit_mul_two_pow, Nat.testBit_div_two_pow, word, Nat.zero_add, Nat.testBit_two_pow_add_gt hn,
    show i - (16 - ls.getD ch 0) = n by omega, decide_eq_true (by omega), Bool.true_and]

/-- The distance from a word's depth to the one at which R194 counts it: the lookup width, or 16. -/
def codeUnit (t : Table) (l : Nat) : Nat := if l ≤ tableBits t then tableBits t - l else 16 - l

/-- start[1 .. 16] when the symbols before `done` have been placed (R194). -/
structure StartsAt (t : Table) (ls : List Nat) (done : Nat) (start : List Nat) : Prop where
  length : start.length = 17
  get : ∀ l, 1 ≤ l → l ≤ 16 → start.getD l 0 = (firstCode ls l + lenTally (ls.take done) l) * 2 ^ codeUnit t l

section Starts

variable {t : Table} {ls : List Nat} {done : Nat} {start : List Nat} (hs : StartsAt t ls done start)

include hs

/-- start holds the symbol's code (R191, R194). -/
theorem StartsAt.code (hpos : 0 < ls.getD done 0) (h16 : ls.getD done 0 ≤ 16) :
    start.getD (ls.getD done 0) 0 = canonicalCode ls done * 2 ^ codeUnit t (ls.getD done 0) :=
  hs.get _ hpos h16

theorem StartsAt.skip (hdone : done < ls.length) (h0 : ls.getD done 0 = 0) : StartsAt t ls (done + 1) start where
  length := hs.length
  get l hl hl' := by
    rw [lenTally_take_succ hdone, if_neg (by omega), Nat.add_zero]
    exact hs.get l hl hl'

/-- The symbol's code is used up. -/
theorem StartsAt.next (hpos : 0 < ls.getD done 0) (h16 : ls.getD done 0 ≤ 16) :
    StartsAt t ls (done + 1) (start.set (ls.getD done 0)
      (canonicalCode ls done * 2 ^ codeUnit t (ls.getD done 0) + 2 ^ codeUnit t (ls.getD done 0))) where
  length := by rw [List.length_set, hs.length]
  get l hl hl' := by
    have hlen := hs.length
    rw [List.getD_eq_getElem?_getD, List.getElem?_set, lenTally_take_succ (lt_length_of_present hpos)]
    by_cases h : ls.getD done 0 = l
    · subst h
      rw [if_pos rfl, if_pos (by omega), if_pos rfl, canonicalCode, Option.getD_some]
      ring
    · rw [if_neg h, if_neg h, ← List.getD_eq_getElem?_getD, Nat.add_zero]
      exact hs.get l hl hl'

end Starts

/-- What is planted does not depend on the codes to come. -/
theorem Planted.withStart {t : Table} {ls : List Nat} {m : List (Nat × BitVec 5)} {done : Nat} {nodes : Finset Nat}
    {name : Nat → Nat} {b : Building (entryWidth t)} (h : Planted t ls m done nodes name b) (start : List Nat) :
    Planted t ls m done nodes name { b with start := start } :=
  ⟨h.wf, h.len, h.avail, h.named, h.nodeRead, h.freeRead, h.leafRead⟩

/-- The first bits of a code that R194 holds left-aligned in 16. -/
theorem leftAligned_div {b l : Nat} (hb : b ≤ l) (hl : l ≤ 16) (code : Nat) :
    code * 2 ^ (16 - l) / 2 ^ (16 - b) = code / 2 ^ (l - b) := by
  have hsplit : 2 ^ (16 - b) = 2 ^ (l - b) * 2 ^ (16 - l) := by
    rw [← Nat.pow_add, show l - b + (16 - l) = 16 - b by omega]
  rw [hsplit, Nat.mul_div_mul_right _ _ (Nat.two_pow_pos _)]

/-- The entry at which R194's inner loop begins is the cell of the stem of the lookup width. -/
theorem longWord_entry {t : Table} {ls : List Nat} {ch : Nat} (hls : Complete ls) (hl : tableBits t < ls.getD ch 0)
    (nodes : Finset Nat) (name : Nat → Nat) :
    Live t nodes (word ls ch / 2 ^ (ls.getD ch 0 - tableBits t)) ∧
      nodeCell t name (word ls ch / 2 ^ (ls.getD ch 0 - tableBits t)) =
        .entry (canonicalCode ls ch / 2 ^ (ls.getD ch 0 - tableBits t)) := by
  have hlt : word ls ch / 2 ^ (ls.getD ch 0 - tableBits t) < 2 ^ (tableBits t + 1) := by
    rw [Nat.div_lt_iff_lt_mul (Nat.two_pow_pos _), ← Nat.pow_add,
      show tableBits t + 1 + (ls.getD ch 0 - tableBits t) = ls.getD ch 0 + 1 by omega]
    exact word_lt hls (by omega)
  have hsplit : 2 ^ ls.getD ch 0 = 2 ^ tableBits t * 2 ^ (ls.getD ch 0 - tableBits t) := by
    rw [← Nat.pow_add, Nat.add_sub_cancel' hl.le]
  have hdiv : word ls ch / 2 ^ (ls.getD ch 0 - tableBits t) =
      2 ^ tableBits t + canonicalCode ls ch / 2 ^ (ls.getD ch 0 - tableBits t) := by
    rw [word, hsplit, Nat.mul_comm, Nat.mul_add_div (Nat.two_pow_pos _)]
  refine ⟨⟨hdiv ▸ Nat.le_add_right _ _, .inl hlt⟩, ?_⟩
  rw [nodeCell_entry hlt, hdiv, Nat.add_sub_cancel_left]

section Loops

variable {t : Table} {ls : List Nat} {m : List (Nat × BitVec 5)} (hls : Complete ls) (hfits : ls.length ≤ lenCount t)

include hls hfits

/-- The inner loop, from a stem of the symbol's word down to the word. -/
theorem threadCode_planted {done : Nat} (hl : tableBits t < ls.getD done 0) :
    ∀ (n j : Nat) (nodes : Finset Nat) (name : Nat → Nat) (b : Building (entryWidth t)),
      Planted t ls m done nodes name b → tableBits t + j + n = ls.getD done 0 → Live t nodes (word ls done / 2 ^ n) →
      ∃ nodes' name' b', threadCode t ls.length (canonicalCode ls done * 2 ^ (16 - ls.getD done 0)) done n j
          (nodeCell t name (word ls done / 2 ^ n)) b = .ok b' ∧ b'.start = b.start ∧
        Planted t ls m (done + 1) nodes' name' b'
  | 0, _, nodes, name, b, h, _, hlive => by
    rw [Nat.pow_zero, Nat.div_one] at hlive ⊢
    exact ⟨nodes, name, _, rfl, rfl, h.plantLong hls hfits hl hlive⟩
  | n + 1, j, nodes, name, b, h, hj, hlive => by
    have h16 := complete_getD_le hls done
    have hcard := card_nodes_le h.named hls
    have havail := h.avail
    have hparent : word ls done / 2 ^ n / 2 = word ls done / 2 ^ (n + 1) := by
      rw [Nat.div_div_eq_div_mul, Nat.pow_succ]
    have hinner : word ls done / 2 ^ (n + 1) ∈ innerNodes ls :=
      stem_mem_innerNodes hls (by omega) n.succ_pos (by have := tableBits_pos t; omega)
    obtain ⟨nodes', name', h', hmem, hcell⟩ := h.enter hls hfits hinner hlive
    have hread := h'.nodeRead _ hmem
    rw [hcell] at hread
    have hdeep : 2 ^ (tableBits t + 1) ≤ word ls done / 2 ^ n := by
      have hlo := hlive.1
      rw [Nat.pow_succ]
      omega
    have hchild : nodeCell t name' (word ls done / 2 ^ n) =
        if (word ls done / 2 ^ n).testBit 0 then .rightOf (name' (word ls done / 2 ^ (n + 1)))
          else .leftOf (name' (word ls done / 2 ^ (n + 1))) := by
      rw [nodeCell_child (Nat.not_lt.mpr hdeep), hparent]
    have hlive' : Live t nodes' (word ls done / 2 ^ n) :=
      ⟨(Nat.pow_le_pow_right (by decide) (Nat.le_succ _)).trans hdeep, .inr (hparent ▸ hmem)⟩
    obtain ⟨nodes'', name'', b'', hthread, hstart, h''⟩ :=
      threadCode_planted hl n (j + 1) nodes' name' _ h' (by omega) hlive'
    refine ⟨nodes'', name'', b'', ?_, hstart.trans (entered_start _ _ _), h''⟩
    rw [threadCode_succ (by omega), hread, code_testBit (n := n) (by omega) (by omega), ← hchild]
    exact hthread

/-- The outer loop, from a symbol on, where the symbols before it are planted. -/
theorem placeSymbols_planted :
    ∀ (rest : List Nat) (done : Nat) (nodes : Finset Nat) (name : Nat → Nat) (b : Building (entryWidth t)),
      ls.drop done = rest → Planted t ls m done nodes name b → StartsAt t ls done b.start →
      ∃ nodes' name' b', placeSymbols t ls.length rest done b = .ok b' ∧ Planted t ls m ls.length nodes' name' b'
  | [], done, nodes, name, b, hrest, h, _ =>
    have hdone : ls.length ≤ done := List.drop_eq_nil_iff.mp hrest
    ⟨nodes, name, b, rfl, { h with leafRead := fun ch hch => h.leafRead ch (hch.trans_le hdone) }⟩
  | l :: rest, done, nodes, name, b, hrest, h, hs => by
    have hdone : done < ls.length := by
      by_contra hge
      rw [List.drop_eq_nil_of_le (Nat.not_lt.mp hge)] at hrest
      cases hrest
    rw [List.drop_eq_getElem_cons hdone, List.cons.injEq, ← List.getD_eq_getElem _ 0 hdone] at hrest
    obtain ⟨hl, hrest⟩ := hrest
    subst hl
    unfold placeSymbols
    by_cases h0 : ls.getD done 0 = 0
    · rw [if_pos h0]
      exact placeSymbols_planted rest _ nodes name b hrest (h.skip hls h0) (hs.skip hdone h0)
    rw [if_neg h0]
    have hpos := Nat.pos_of_ne_zero h0
    have h16 := complete_getD_le hls done
    have hcode := hs.code hpos h16
    have hnext := hs.next hpos h16
    by_cases hshort : ls.getD done 0 ≤ tableBits t
    · have hwidth : done < 2 ^ entryWidth t := entryWidth_fits (hdone.le.trans hfits)
      rw [codeUnit, if_pos hshort] at hcode hnext
      simp only [hshort, if_true, hcode]
      exact placeSymbols_planted rest _ nodes name _ hrest ((h.plantShort hls hpos hshort hwidth).withStart _) hnext
    · have hlong := Nat.not_le.mp hshort
      obtain ⟨hlive, hentry⟩ := longWord_entry hls hlong nodes name
      obtain ⟨nodes', name', b', hthread, hstart, h'⟩ := threadCode_planted hls hfits hlong (ls.getD done 0 - tableBits t) 0
        nodes name b h (by omega) hlive
      rw [hentry, ← leftAligned_div hlong.le h16] at hthread
      rw [codeUnit, if_neg hshort] at hcode hnext
      simp only [hshort, if_false, hcode, hthread, hstart]
      exact placeSymbols_planted rest _ nodes' name' _ hrest (h'.withStart _) hnext

end Loops

end Sys2Proof.Proofs
end

section
/-! PROOFS. HT_BUILD of a complete code: the table is planted with every symbol's word, so a direct table holds each symbol
at the entries of its code (O29), and every table decodes the canonical code (O30). -/

namespace Sys2Proof.Proofs

open Sys2Proof.Machine Sys2Proof.Laws

/-- The first `k` of `u` bits, numbered from the root. -/
theorem stem_number {u k : Nat} (hk : k ≤ u) (i : Nat) : (2 ^ u + i) / 2 ^ (u - k) = 2 ^ k + i / 2 ^ (u - k) := by
  have hsplit : 2 ^ u = 2 ^ (u - k) * 2 ^ k := by rw [← Nat.pow_add, Nat.sub_add_cancel hk]
  rw [hsplit, Nat.mul_add_div (Nat.two_pow_pos _)]

/-! ### The table before the loops -/

section Begun

variable {t : Table}

/-- The codes before the first symbol is placed (R194). -/
theorem startsAt_startList (t : Table) (ls : List Nat) : StartsAt t ls 0 (startList t ls) where
  length := by simp [startList]
  get l _ hl := by
    have hget : (startList t ls).getD l 0 =
        if l ≤ tableBits t then startOf ls l / 2 ^ (16 - tableBits t) else startOf ls l := by
      simp [startList, Nat.lt_succ_of_le hl]
    rw [hget, startOf_eq ls hl, List.take_zero, codeUnit]
    split
    case isTrue hshort =>
      have hle := tableBits_le t
      have hsplit : 2 ^ (16 - l) = 2 ^ (tableBits t - l) * 2 ^ (16 - tableBits t) := by
        rw [← Nat.pow_add, show tableBits t - l + (16 - tableBits t) = 16 - l by omega]
      rw [hsplit, ← Nat.mul_assoc, Nat.mul_div_cancel _ (Nat.two_pow_pos _)]
      rfl
    case isFalse => rfl

theorem tableBits_lt (t : Table) : tableBits t < 16 := by
  cases t <;> decide

/-- The first entry that R194 clears is the first that no word within the lookup width begins. -/
theorem clearedFrom_eq (t : Table) (ls : List Nat) :
    2 ^ tableBits t + startOf ls (tableBits t + 1) / 2 ^ (16 - tableBits t) = wordEnd ls (tableBits t) := by
  have hlt : tableBits t + 1 ≤ 16 := tableBits_lt t
  have hsucc := wordStart_succ ls (tableBits_pos t)
  have hsplit : 2 ^ (16 - tableBits t) = 2 * 2 ^ (16 - (tableBits t + 1)) := by
    rw [← Nat.pow_succ', show (16 - (tableBits t + 1)).succ = 16 - tableBits t by omega]
  rw [startOf_eq ls hlt, hsplit, Nat.mul_div_mul_right _ _ (Nat.two_pow_pos _)]
  rw [wordStart, Nat.pow_succ] at hsucc
  omega

/-- Before the loops nothing is planted, and the entries past the short codes are 0. -/
theorem planted_clearedTail {c : Nat} {h : HuffTable (entryWidth t)} (hw : h.wf t = true) (start : List Nat) :
    Planted t (h.lens c) h.len 0 ∅ id { table := clearedTail t c h, avail := c, start := start } where
  wf := table_wf_fillTable hw _ _ _
  len := rfl
  avail := by simp [HuffTable.lens]
  named := ⟨Finset.empty_subset _, nofun, nofun, nofun, nofun⟩
  nodeRead := nofun
  freeRead q hq hlive _ := by
    obtain ⟨hlo, hhi | hmem⟩ := hlive
    · have hend := wordEnd_le_of_mem hq hlo hhi
      rw [← clearedFrom_eq] at hend
      rw [nodeCell_entry hhi, clearedTail, readRef_fillTable hw (Nat.two_pow_pos _), if_pos]
      rw [Nat.pow_succ] at hhi
      rw [tableCount_eq]
      omega
    · exact absurd hmem (Finset.notMem_empty _)
  leafRead := nofun

end Begun

/-! ### The built table -/

/-- What BuildTable and the command make of the table that R194's loops leave (R194, R203). -/
def builtTable {w : Nat} (c : Nat) (b : Building w) : HuffTable w :=
  { b.table with nchar := BitVec.ofNat w c, avail := BitVec.ofNat w b.avail, tabValid := true }

theorem lens_length {w : Nat} (h : HuffTable w) (c : Nat) : (h.lens c).length = c := by simp [HuffTable.lens]

section Built

variable {t : Table} {c : Nat} {h : HuffTable (entryWidth t)}

theorem complete_lens (hlen : ∀ ch, ch < c → h.getLen ch ≤ 16) (hs : kraftSum h.getLen c = 65536) :
    Complete (h.lens c) where
  le := by simpa [HuffTable.lens] using hlen
  space := (codeSpace_lens h c).trans hs

theorem lens_getD {ch : Nat} (hch : ch < c) : (h.lens c).getD ch 0 = h.getLen ch := by
  simp [HuffTable.lens, hch]

/-- The build of a complete code succeeds, with every symbol planted (R194, R195). -/
theorem buildValid_planted (hw : h.wf t = true) (hc : c ≤ lenCount t) (hlen : ∀ ch, ch < c → h.getLen ch ≤ 16)
    (hs : kraftSum h.getLen c = 65536) :
    ∃ nodes name b, buildValid t c h = .ok (builtTable c b) ∧
      Planted t (h.lens c) h.len (h.lens c).length nodes name b := by
  have hls := complete_lens hlen hs
  obtain ⟨nodes, name, b, hplaced, hplanted⟩ := placeSymbols_planted (m := h.len) hls ((lens_length h c).trans_le hc) (h.lens c) 0 ∅
    id { table := clearedTail t c h, avail := c, start := startList t (h.lens c) } rfl
    (planted_clearedTail hw _) (startsAt_startList t _)
  rw [lens_length] at hplaced
  unfold clearedTail at hplaced
  refine ⟨nodes, name, b, ?_, hplanted⟩
  simp only [buildValid, buildTable, lens_any_long_eq_false hlen, hls.space, ne_eq, not_true_eq_false, if_false,
    Bool.false_eq_true, hplaced]
  rfl

end Built

/-! ### Decoding with the built table (R197) -/

section Decoding

variable {t : Table} {ls : List Nat} {m : List (Nat × BitVec 5)} {nodes : Finset Nat} {name : Nat → Nat}
  {b : Building (entryWidth t)} {ch c : Nat} (h : Planted t ls m ls.length nodes name b) (hls : Complete ls)
  (hpos : 0 < ls.getD ch 0)

include h hls hpos

/-- The entry of a code within the lookup width, at each of its indices. -/
theorem Planted.entry_short {i : Nat} (hl : ls.getD ch 0 ≤ tableBits t)
    (hi : i / 2 ^ (tableBits t - ls.getD ch 0) = canonicalCode ls ch) : b.table.getTable i = ch := by
  have hleaf : LeafAt t ls ch (2 ^ tableBits t + i) := by rw [LeafAt, stem_number hl, hi, word]
  obtain ⟨-, hread⟩ := h.leafRead ch (lt_length_of_present hpos) hpos _ hleaf
  have hhi := (leafAt_depth hls hpos hleaf).2
  rw [Nat.max_eq_left hl] at hhi
  rwa [nodeCell_entry hhi, Nat.add_sub_cancel_left] at hread

omit hls in
/-- Every stem of a long word, from the lookup width on, has a node. -/
theorem Planted.stem_mem (hl : tableBits t < ls.getD ch 0) : ∀ i, i < ls.getD ch 0 - tableBits t →
    word ls ch / 2 ^ (i + 1) ∈ nodes := by
  have hdeep : ∀ i, i < ls.getD ch 0 - tableBits t → ¬word ls ch / 2 ^ i < 2 ^ (tableBits t + 1) := by
    intro i hi
    rw [Nat.not_lt, Nat.le_div_iff_mul_le (Nat.two_pow_pos _), ← Nat.pow_add]
    exact (Nat.pow_le_pow_right (by decide) (by omega)).trans (pow_le_word ls ch)
  intro i
  induction i with
  | zero =>
    intro hi
    have hleaf : LeafAt t ls ch (word ls ch) := by
      rw [LeafAt, Nat.sub_eq_zero_of_le hl.le, Nat.pow_zero, Nat.div_one]
    have hlive := (h.leafRead ch (lt_length_of_present hpos) hpos _ hleaf).1
    have hnot := hdeep 0 hi
    rw [Nat.pow_zero, Nat.div_one] at hnot
    exact hlive.2.resolve_left hnot
  | succ i ih =>
    intro hi
    have hmem := (h.named.live _ (ih (by omega))).2.resolve_left (hdeep (i + 1) hi)
    rwa [Nat.div_div_eq_div_mul, ← Nat.pow_succ] at hmem

/-- The walk from a stem of a long word down to its symbol. -/
theorem Planted.walk (hl : tableBits t < ls.getD ch 0) (hn : (builtTable c b).nchar.toNat = ls.length)
    {bits : Nat} (hbits : (2 ^ 16 + bits) / 2 ^ (16 - ls.getD ch 0) = word ls ch) :
    ∀ i, i ≤ ls.getD ch 0 - tableBits t →
      walkTree (builtTable c b) bits (16 - ls.getD ch 0 + i)
        (b.table.readRef (nodeCell t name (word ls ch / 2 ^ i))) = .ok ch := by
  have h16 := complete_getD_le hls ch
  intro i
  induction i with
  | zero =>
    intro _
    have hleaf : LeafAt t ls ch (word ls ch) := by
      rw [LeafAt, Nat.sub_eq_zero_of_le hl.le, Nat.pow_zero, Nat.div_one]
    rw [Nat.pow_zero, Nat.div_one, (h.leafRead ch (lt_length_of_present hpos) hpos _ hleaf).2]
    exact walkTree_of_lt ((lt_length_of_present hpos).trans_eq hn.symm) _ _
  | succ i ih =>
    intro hi
    have hmem := h.stem_mem hpos hl i (by omega)
    have hnode : ¬name (word ls ch / 2 ^ (i + 1)) < (builtTable c b).nchar.toNat :=
      Nat.not_lt.mpr (hn.trans_le (h.named.lo _ hmem))
    have hparent : word ls ch / 2 ^ i / 2 = word ls ch / 2 ^ (i + 1) := by
      rw [Nat.div_div_eq_div_mul, Nat.pow_succ]
    have hdeep : ¬word ls ch / 2 ^ i < 2 ^ (tableBits t + 1) := by
      have hlo := (h.named.live _ hmem).1
      rw [Nat.pow_succ]
      omega
    have hbit : bits.testBit (16 - ls.getD ch 0 + i) = (word ls ch / 2 ^ i).testBit 0 := by
      rw [← hbits, Nat.testBit_div_two_pow, Nat.testBit_div_two_pow, Nat.testBit_two_pow_add_gt (by omega)]
      congr 1
      omega
    have hnext := ih (by omega)
    rw [nodeCell_child hdeep, hparent, ← hbit] at hnext
    rw [h.nodeRead _ hmem, ← Nat.add_assoc, walkTree, if_neg hnode, ← hnext]
    split <;> rfl

/-- Sixteen bits that begin with a symbol's code give the symbol (R197). -/
theorem Planted.lookup (hn : (builtTable c b).nchar.toNat = ls.length) {bits : Nat}
    (hcode : bits / 2 ^ (16 - ls.getD ch 0) = canonicalCode ls ch) :
    (builtTable c b).lookup t bits = .ok ch := by
  have h16 := complete_getD_le hls ch
  have hle := tableBits_le t
  rcases Nat.lt_or_ge (tableBits t) (ls.getD ch 0) with hl | hl
  · have hbits : (2 ^ 16 + bits) / 2 ^ (16 - ls.getD ch 0) = word ls ch := by rw [stem_number h16, hcode, word]
    have hwalk := h.walk hls hpos hl hn hbits (ls.getD ch 0 - tableBits t) le_rfl
    have hindex : bits / 2 ^ (16 - tableBits t) = canonicalCode ls ch / 2 ^ (ls.getD ch 0 - tableBits t) := by
      rw [← hcode, Nat.div_div_eq_div_mul, ← Nat.pow_add,
        show 16 - ls.getD ch 0 + (ls.getD ch 0 - tableBits t) = 16 - tableBits t by omega]
    rw [(longWord_entry hls hl nodes name).2, ← hindex,
      show 16 - ls.getD ch 0 + (ls.getD ch 0 - tableBits t) = 16 - tableBits t by omega] at hwalk
    exact hwalk
  · have hentry : bits / 2 ^ (16 - tableBits t) / 2 ^ (tableBits t - ls.getD ch 0) = canonicalCode ls ch := by
      rw [Nat.div_div_eq_div_mul, ← Nat.pow_add,
        show 16 - tableBits t + (tableBits t - ls.getD ch 0) = 16 - ls.getD ch 0 by omega, hcode]
    have hread : (builtTable c b).getTable (bits / 2 ^ (16 - tableBits t)) = ch :=
      h.entry_short hls hpos hl hentry
    rw [HuffTable.lookup, hread]
    exact walkTree_of_lt ((lt_length_of_present hpos).trans_eq hn.symm) _ _

end Decoding

/-! ### The obligations -/

section Legal

variable {s : State} {t : Table} {c : BitVec 9} (hl : Instr.WellFormed (.htBuild t c 0#9))

include hl

theorem htBuild_alphabet : c.toNat ≤ lenCount t := lenCount_of_wellFormed (Bool.and_eq_true_iff.mp hl).1

theorem htBuild_alphabet_toNat : (BitVec.ofNat (entryWidth t) c.toNat).toNat = c.toNat := by
  rw [BitVec.toNat_ofNat, Nat.mod_eq_of_lt (entryWidth_fits (htBuild_alphabet hl))]

end Legal

/-- Settles O30: the build ends with every symbol planted (`buildValid_planted`), so the look-ahead leads to it
(`Planted.lookup`); the bound on AVAIL is that of every build (`buildValid_ok`). -/
theorem htBuildDecodesCanonicalCode : Obligations.HtBuildDecodesCanonicalCode := by
  unfold Obligations.HtBuildDecodesCanonicalCode
  intro s t c he hl hv hw hlen hspace
  have hc := htBuild_alphabet hl
  have hls := complete_lens hlen hspace
  obtain ⟨nodes, name, b, hbuild, hplanted⟩ := buildValid_planted hw hc hlen hspace
  obtain ⟨hlenValid, -, -, -, hroom⟩ := (buildValid_ok hbuild).2 hc hv rfl
  have hnchar : (builtTable c.toNat b).nchar.toNat = c.toNat := htBuild_alphabet_toNat hl
  refine ⟨_, exec_htBuild_ok he hl hv hbuild, rfl, hlenValid, hplanted.len, hnchar, hnchar ▸ hroom,
    fun ch bits hch hpos _ hcode => ?_⟩
  rw [← lens_getD hch] at hpos hcode
  exact hplanted.lookup hls hpos (hnchar.trans (lens_length _ _).symm) hcode

/-- Settles O29: a build within the lookup width makes no node (`buildValid_direct`), and plants every symbol at the entries
that begin with its code (`Planted.entry_short`). -/
theorem htBuildFillsDirectTable : Obligations.HtBuildFillsDirectTable := by
  unfold Obligations.HtBuildFillsDirectTable
  intro s t c he hl hv hw hlen hspace
  have hlen16 : ∀ ch, ch < c.toNat → (s.tab t).getLen ch ≤ 16 := fun ch hch => (hlen ch hch).trans (tableBits_le t)
  have hls := complete_lens hlen16 hspace
  have hdirect : buildValid t c.toNat (s.tab t) = .ok (directTable t c.toNat (s.tab t)) :=
    buildValid_direct (by simpa [HuffTable.lens] using hlen) ((codeSpace_lens _ _).trans hspace)
  obtain ⟨nodes, name, b, hbuild, hplanted⟩ := buildValid_planted hw (htBuild_alphabet hl) hlen16 hspace
  have hsame : directTable t c.toNat (s.tab t) = builtTable c.toNat b := Except.ok.inj (hdirect.symm.trans hbuild)
  have hnchar := htBuild_alphabet_toNat hl
  refine ⟨_, exec_htBuild_ok he hl hv hdirect, rfl, hv, rfl, rfl, rfl, hnchar, hnchar, fun ch i hch hpos _ hi => ?_⟩
  have hshort := hlen ch hch
  rw [← lens_getD hch] at hpos hi hshort
  rw [hsame]
  exact hplanted.entry_short hls hpos hshort hi

end Sys2Proof.Proofs
end

section
/-! PROOFS. DEC_C inside a block and DEC_P of the static methods, from a reader that has nothing left to request
(O17, O18). -/

namespace Sys2Proof.Proofs

open Sys2Proof.Machine Sys2Proof.Laws

/-! ### The procedure of a method (R335) -/

section Dispatch

variable {s : State}

theorem newStatic_methods (hlo : 4 ≤ s.eMethod.toNat) (hhi : s.eMethod.toNat ≤ 7) :
    s.methodNow = 4 ∨ s.methodNow = 5 ∨ s.methodNow = 6 ∨ s.methodNow = 7 := by
  simp only [State.methodNow]
  omega

theorem decC_newStatic (hlo : 4 ≤ s.eMethod.toNat) (hhi : s.eMethod.toNat ≤ 7) : decC s = nsDecodeC s := by
  rw [decC, eng_bind, eng_get]
  rcases newStatic_methods hlo hhi with h | h | h | h <;> simp only [h]

theorem decC_lh3 (h : s.eMethod.toNat = 3) : decC s = st0DecodeC s := by
  rw [decC, eng_bind, eng_get]
  simp only [State.methodNow, h]

theorem decP_newStatic (hlo : 4 ≤ s.eMethod.toNat) (hhi : s.eMethod.toNat ≤ 7) : decP s = nsDecodeP s := by
  rw [decP, eng_bind, eng_get]
  rcases newStatic_methods hlo hhi with h | h | h | h <;> simp only [h]

theorem decP_fixed (h : s.eMethod.toNat = 1 ∨ s.eMethod.toNat = 3) : decP s = fixDecodeP s := by
  rw [decP, eng_bind, eng_get]
  rcases h with h | h <;> simp only [State.methodNow, h]

end Dispatch

/-! ### Commands of an entry that end with a decoded value -/

theorem exec_decC_ok {s u : State} {c : Nat} (he : s.estate = .active) (h : decC (issued s) = .ok c (issued u)) :
    exec .decC s = .next ({ u with result := BitVec.ofNat 32 c }.ended []) :=
  command_ended _ [] rfl (congrArg inActive he) (bind_of_ok h)

theorem exec_decP_ok {s u : State} {p : Nat} (he : s.estate = .active) (h : decP (issued s) = .ok p (issued u)) :
    exec .decP s = .next ({ u with result := BitVec.ofNat 32 p }.ended []) :=
  command_ended _ [] rfl (congrArg inActive he) (bind_of_ok h)

/-! ### DEC_C inside a block (O17) -/

/-- Inside a block with a valid C table nothing is read before the symbol (R226, R233). -/
theorem openBlock_open {s : State} (hr : s.reader.valid = true) (hb : s.blockSize ≠ 0#16)
    (hv : s.tabC.tabValid = true) (header : Eng Unit) :
    openBlock header s = .ok () { s with blockSize := s.blockSize - 1 } := by
  have hready : requireReader s = .ok () s := eng_require_true hr
  have htable : requireTable .c s = .ok () s := eng_require_true hv
  rw [openBlock, bind_of_ok hready, bind_of_ok (eng_get s), if_neg hb, bind_of_ok htable]
  rfl

/-- The state with a symbol of the block taken, `n` bits on in the stream (R226). -/
def symbolTaken (s : State) (n : Nat) : State := { s.skipped n with blockSize := s.blockSize - 1 }

section Symbol

variable {s : State} {c : Nat} (hr : s.reader.valid = true) (hd : s.reader.drained) (hb : s.blockSize ≠ 0#16)
  (hv : s.tabC.tabValid = true) (hc : s.tabC.lookup .c (s.reader.peek 16) = .ok c)

include hr hd hb hv hc

/-- `NsDecodeC` inside a block (R226). -/
theorem nsDecodeC_drained :
    nsDecodeC s = .ok c (symbolTaken s (s.tabC.getLen c)) := by
  rw [nsDecodeC, bind_of_ok (openBlock_open hr hb hv _)]
  exact decodeSym_drained (s := { s with blockSize := s.blockSize - 1 }) (t := .c) hd hc

/-- `St0DecodeC` inside a block, for a symbol without an extension (R233). -/
theorem st0DecodeC_short (hne : c ≠ 285) :
    st0DecodeC s = .ok c (symbolTaken s (s.tabC.getLen c)) := by
  have hsym := decodeSym_drained (s := { s with blockSize := s.blockSize - 1 }) (t := .c) hd hc
  rw [st0DecodeC, bind_of_ok (openBlock_open hr hb hv _), bind_of_ok hsym, if_neg hne]
  rfl

/-- `St0DecodeC` inside a block, for the symbol with eight bits more (R233). -/
theorem st0DecodeC_extended (heq : c = 285) :
    st0DecodeC s = .ok (c + (s.reader.advance (s.tabC.getLen c)).peek 8)
      (symbolTaken s (s.tabC.getLen c + 8)) := by
  have hsym := decodeSym_drained (s := { s with blockSize := s.blockSize - 1 }) (t := .c) hd hc
  have hbits := getBits_drained (s := State.skipped { s with blockSize := s.blockSize - 1 } (s.tabC.getLen c))
    (n := 8) hd (by decide)
  rw [skipped_skipped] at hbits
  rw [st0DecodeC, bind_of_ok (openBlock_open hr hb hv _), bind_of_ok hsym, if_pos heq]
  exact bind_of_ok hbits

end Symbol

/-- Settles O17: DEC_C is the method's procedure, and each is worked out inside a block. -/
theorem decCDecodesStaticSymbol : Obligations.DecCDecodesStaticSymbol := by
  unfold Obligations.DecCDecodesStaticSymbol
  intro s c he hr hd hb hv hc
  refine ⟨fun hm => exec_decC_ok (u := symbolTaken s _) he ?_,
    fun ⟨hm, hext⟩ => exec_decC_ok (u := symbolTaken s _) he ?_⟩
  · rcases hm with ⟨hlo, hhi⟩ | ⟨hm, hne⟩
    · exact (decC_newStatic (s := issued s) hlo hhi).trans (nsDecodeC_drained (s := issued s) hr hd hb hv hc)
    · exact (decC_lh3 (s := issued s) hm).trans (st0DecodeC_short (s := issued s) hr hd hb hv hc hne)
  · exact (decC_lh3 (s := issued s) hm).trans (st0DecodeC_extended (s := issued s) hr hd hb hv hc hext)

/-! ### DEC_P (O18) -/

section Position

variable {s : State} {j : Nat} (hr : s.reader.valid = true) (hd : s.reader.drained) (hv : s.tabPt.tabValid = true)
  (hj : s.tabPt.lookup .pt (s.reader.peek 16) = .ok j)

include hr hd hv hj

/-- The two flags that a position procedure requires are set, and then the position symbol is decoded (R227, R234). -/
theorem decodePosition_drained (f : Nat → Eng Nat) :
    (do requireReader; requireTable .pt; let j ← decodeSym .pt; f j) s = f j (s.skipped (s.tabPt.getLen j)) := by
  have hready : requireReader s = .ok () s := eng_require_true hr
  have htable : requireTable .pt s = .ok () s := eng_require_true hv
  rw [bind_of_ok hready, bind_of_ok htable]
  exact bind_of_ok (decodeSym_drained (t := .pt) hd hj)

omit hr hv hj in
/-- The bits after the position symbol. -/
theorem getBits_afterPosition {n : Nat} (hn : n ≤ 16) :
    getBits n (s.skipped (s.tabPt.getLen j)) =
      .ok ((s.reader.advance (s.tabPt.getLen j)).peek n) (s.skipped (s.tabPt.getLen j + n)) := by
  rw [← skipped_skipped]
  exact getBits_drained (s := s.skipped (s.tabPt.getLen j)) hd hn

/-- `FixDecodeP` (R234). -/
theorem fixDecodeP_drained :
    fixDecodeP s = .ok (j * 64 + (s.reader.advance (s.tabPt.getLen j)).peek 6) (s.skipped (s.tabPt.getLen j + 6)) :=
  (decodePosition_drained hr hd hv hj _).trans (bind_of_ok (getBits_afterPosition hd (by decide)))

/-- `NsDecodeP` of a symbol without extra bits (R227). -/
theorem nsDecodeP_short (hle : j ≤ 1) : nsDecodeP s = .ok j (s.skipped (s.tabPt.getLen j)) :=
  (decodePosition_drained hr hd hv hj _).trans (congrFun (if_pos hle) _)

/-- `NsDecodeP` of a symbol with extra bits (R227). -/
theorem nsDecodeP_long (hlo : 2 ≤ j) (hhi : j ≤ 17) :
    nsDecodeP s = .ok (2 ^ (j - 1) + (s.reader.advance (s.tabPt.getLen j)).peek (j - 1))
      (s.skipped (s.tabPt.getLen j + (j - 1))) := by
  refine (decodePosition_drained hr hd hv hj _).trans ((congrFun (if_neg (by omega)) _).trans ?_)
  exact bind_of_ok (getBits_afterPosition hd (by omega))

end Position

/-- Settles O18: DEC_P is the method's procedure, and each is worked out. -/
theorem decPDecodesStaticPosition : Obligations.DecPDecodesStaticPosition := by
  unfold Obligations.DecPDecodesStaticPosition
  intro s j he hr hd hv hj
  refine ⟨fun hm => exec_decP_ok he ?_, fun ⟨hlo, hhi⟩ hle => exec_decP_ok he ?_,
    fun ⟨hlo, hhi⟩ hj2 hj17 => exec_decP_ok he ?_⟩
  · exact (decP_fixed (s := issued s) hm).trans (fixDecodeP_drained (s := issued s) hr hd hv hj)
  · exact (decP_newStatic (s := issued s) hlo hhi).trans (nsDecodeP_short (s := issued s) hr hd hv hj hle)
  · exact (decP_newStatic (s := issued s) hlo hhi).trans (nsDecodeP_long (s := issued s) hr hd hv hj hj2 hj17)

end Sys2Proof.Proofs
end

section
/-! PROOFS. NS_READ_PT and NS_READ_C where the count is 0 or above the alphabet (O34). -/

namespace Sys2Proof.Proofs

open Sys2Proof.Machine Sys2Proof.Laws

/-! ### A table's reader in the middle of its work -/

/-- The state `k` bits on in the stream, with this length array in table `t`. -/
def tabRead (t : Table) (s : State) (k : Nat) (m : List (Nat × BitVec 5)) : State :=
  (s.skipped k).setTab t { s.tab t with len := m }

@[simp] theorem tabRead_reader (t : Table) (s : State) (k : Nat) (m : List (Nat × BitVec 5)) :
    (tabRead t s k m).reader = s.reader.advance k := setTab_reader _ _ _

@[simp] theorem tabRead_tab (t : Table) (s : State) (k : Nat) (m : List (Nat × BitVec 5)) :
    (tabRead t s k m).tab t = { s.tab t with len := m } := tab_setTab _ _ _

@[simp] theorem skipped_tab (t : Table) (s : State) (k : Nat) : (s.skipped k).tab t = s.tab t := by
  cases t <;> rfl

theorem skipped_setTab (t : Table) (s : State) (k : Nat) (h : HuffTable (entryWidth t)) :
    (s.setTab t h).skipped k = (s.skipped k).setTab t h := by
  cases t <;> rfl

/-- A failure after bits have been read and lengths written, and nothing else (R402, R403). -/
theorem failCommand_tabRead_refusedAs (code : ErrCode) (t : Table) (s : State) (k : Nat) (m : List (Nat × BitVec 5)) :
    s.RefusedAs (State.failCommand code (tabRead t (issued s) k m)) code := by
  have h := failCommand_refusedAs code (tabRead t s k m)
  cases t <;> exact ⟨h.notBusy, h.errSet, h.firstCode, h.failed, h.noneValid, h.flags, h.hostRegs, h.checksums,
    h.counters, h.entry, h.reader, h.tableRegs, h.arenaRegs, h.windowMask, h.ports, h.agents⟩

/-! ### The constant table (R204) -/

theorem htFill_ok {t : Table} {c x : Nat} (h : x < c) (s : State) :
    htFill t c x s = .ok () (s.setTab t (constantTable t c x (s.tab t))) := by
  simp [htFill, updateTab, Nat.not_le.mpr h]

theorem htFill_error {t : Table} {c x : Nat} (h : c ≤ x) (s : State) :
    htFill t c x s = .error (.raise .symbolRange) s := by
  simp [htFill, updateTab, h]

/-! ### The count of R221 and R223 -/

section Count

variable {s : State} (hd : s.reader.drained)

include hd

/-- A count of 0 is followed by the constant's symbol. -/
theorem getBits_twice {w : Nat} (hw : w ≤ 16) (hzero : s.reader.peek w = 0) (f g : Nat → Eng Unit) :
    (do
      let n ← getBits w
      if n = 0 then do
        let c ← getBits w
        f c
      else g n) s = f ((s.reader.advance w).peek w) (s.skipped (2 * w)) := by
  have hsecond := getBits_drained (s := s.skipped w) hd hw
  rw [skipped_skipped, ← Nat.two_mul] at hsecond
  rw [bind_of_ok (getBits_drained hd hw), if_pos hzero, bind_of_ok hsecond]
  rfl

/-- A count above the alphabet. -/
theorem getBits_overflow {w c : Nat} (hw : w ≤ 16) (hover : c < s.reader.peek w) (f : Eng Unit) (g : Nat → Eng Unit) :
    (do
      let n ← getBits w
      if n = 0 then f
      else do
        raiseIf (decide (c < n)) .indexOverflow
        g n) s = .error (.raise .indexOverflow) (s.skipped w) := by
  rw [bind_of_ok (getBits_drained hd hw), if_neg (by omega), decide_eq_true hover]
  rfl

/-- `ReadPtLen` with a count of 0 (R221). -/
theorem readPtLen_zero {nn nbit : Nat} {special : Option Nat} (hw : nbit ≤ 16) (hzero : s.reader.peek nbit = 0) :
    readPtLen nn nbit special s = htFill .pt nn ((s.reader.advance nbit).peek nbit) (s.skipped (2 * nbit)) :=
  getBits_twice hd hw hzero _ _

/-- `ReadPtLen` with a count above the alphabet (R221). -/
theorem readPtLen_overflow {nn nbit : Nat} {special : Option Nat} (hw : nbit ≤ 16) (hover : nn < s.reader.peek nbit) :
    readPtLen nn nbit special s = .error (.raise .indexOverflow) (s.skipped nbit) :=
  getBits_overflow hd hw hover _ _

/-- `ReadCLen` with a count of 0 (R223). -/
theorem readCLen_zero (hzero : s.reader.peek 9 = 0) :
    readCLen s = htFill .c 510 ((s.reader.advance 9).peek 9) (s.skipped 18) :=
  getBits_twice hd (by decide) hzero _ _

/-- `ReadCLen` with a count above the alphabet (R223). -/
theorem readCLen_overflow (hover : 510 < s.reader.peek 9) :
    readCLen s = .error (.raise .indexOverflow) (s.skipped 9) :=
  getBits_overflow hd (by decide) hover _ _

end Count

/-! ### The two commands -/

section Commands

variable {s : State} (he : s.estate ≠ .failed) (hr : s.reader.valid = true)

include he hr

/-- NS_READ_PT by what its reader does (R222). -/
theorem exec_nsReadPt {c : BitVec 9} {w x : BitVec 4} (hl : Instr.WellFormed (.nsReadPt c w x)) :
    exec (.nsReadPt c w x) s = settle s (readPtLen c.toNat w.toNat (specialIndex x) (issued s)) :=
  (command_run hl (notInFailed_iff.mpr he)).trans (congrArg (settle s) (bind_of_ok (eng_require_true hr)))

/-- NS_READ_C by what its reader does (R224). -/
theorem exec_nsReadC (hv : s.tabPt.tabValid = true) : exec .nsReadC s = settle s (readCLen (issued s)) :=
  (command_run (legal := true) rfl (notInFailed_iff.mpr he)).trans (congrArg (settle s)
    ((bind_of_ok (eng_require_true hr)).trans (bind_of_ok (eng_require_true hv))))

end Commands

/-- A failure of a command's body after bits have been read and lengths written, and nothing else. -/
theorem settle_tabRead {s : State} {x : EStateM.Result Stop State Unit} {code : ErrCode} (t : Table)
    (hx : ∃ k m, x = .error (.raise code) (tabRead t (issued s) k m)) :
    ∃ u, settle s x = .next u ∧ s.RefusedAs u code := by
  obtain ⟨k, m, rfl⟩ := hx
  exact ⟨_, rfl, failCommand_tabRead_refusedAs code t s k m⟩

/-- A failure of a command's body after bits have been read, and nothing else. -/
theorem settle_skipped {s : State} {x : EStateM.Result Stop State Unit} {code : ErrCode}
    (hx : ∃ k, x = .error (.raise code) ((issued s).skipped k)) : ∃ u, settle s x = .next u ∧ s.RefusedAs u code := by
  obtain ⟨k, rfl⟩ := hx
  exact settle_tabRead .c ⟨k, _, rfl⟩

theorem nsReadPt_width {c : BitVec 9} {w x : BitVec 4} (hl : Instr.WellFormed (.nsReadPt c w x)) : w.toNat ≤ 9 :=
  of_decide_eq_true (Bool.and_eq_true_iff.mp hl).2

/-- Settles O34: both readers begin with the count, and what follows a count of 0 or a count above the alphabet is HT_FILL's
computation or the failure. -/
theorem newStaticConstantTables : Obligations.NewStaticConstantTables := by
  unfold Obligations.NewStaticConstantTables
  intro s he hr hd
  refine ⟨fun c w x hl => ?_, fun hv => ?_⟩
  · have hw : w.toNat ≤ 16 := (nsReadPt_width hl).trans (by decide)
    have hconst := readPtLen_zero (s := issued s) (nn := c.toNat) (special := specialIndex x) hd hw
    rw [exec_nsReadPt he hr hl]
    exact ⟨fun hzero hsym => congrArg (settle s) ((hconst hzero).trans (htFill_ok hsym _)),
      fun hzero hsym => settle_skipped ⟨_, (hconst hzero).trans (htFill_error hsym _)⟩,
      fun hover => settle_skipped ⟨_, readPtLen_overflow (s := issued s) hd hw hover⟩⟩
  · have hconst := readCLen_zero (s := issued s) hd
    rw [exec_nsReadC he hr hv]
    exact ⟨fun hzero hsym => congrArg (settle s) ((hconst hzero).trans (htFill_ok hsym _)),
      fun hzero hsym => settle_skipped ⟨_, (hconst hzero).trans (htFill_error hsym _)⟩,
      fun hover => settle_skipped ⟨_, readCLen_overflow (s := issued s) hd hover⟩⟩

end Sys2Proof.Proofs
end

section
/-! PROOFS. What the work before a computation may have left otherwise without its noticing, and the frame of the readers
of lengths and of the adaptive commands (O53). -/

namespace Sys2Proof.Proofs

open Sys2Proof.Machine Sys2Proof.Laws

/-! ### What a computation carries

A command that is made of others runs each part where the parts before it have left RESULT, ARG, BLOCKSIZE and the port
events otherwise than a command of its own would find them. -/

/-- What a part of a command does not see: the command word, RESULT, ARG, BLOCKSIZE, the trace, and the port events that
the command has made before it. -/
structure Past where
  cmd : Option Word
  result : Word
  arg : Word
  blockSize : BitVec 16
  trace : List PortEvent
  flight : List PortEvent

/-- The state with this past. -/
def Past.over (p : Past) (s : State) : State :=
  { s with
    cmd := p.cmd
    result := p.result
    arg := p.arg
    blockSize := p.blockSize
    trace := p.trace
    inFlight := s.inFlight ++ p.flight }

/-- The past of the state itself. -/
def ownPast (s : State) : Past :=
  { cmd := s.cmd, result := s.result, arg := s.arg, blockSize := s.blockSize, trace := s.trace, flight := [] }

theorem ownPast_over (s : State) : (ownPast s).over s = s := by
  simp [ownPast, Past.over]

/-- An answer with its state changed. -/
def mapEnd {α : Type} (f : State → State) : EStateM.Result Stop State α → EStateM.Result Stop State α
  | .ok a s => .ok a (f s)
  | .error e s => .error e (f s)

/-- Whatever the past is, the computation runs the same and carries it along. -/
def Carries {α : Type} (m : Eng α) : Prop := ∀ p s, m (Past.over p s) = mapEnd p.over (m s)

section Carries

variable {α β : Type}

theorem carries_pure (a : α) : Carries (pure a : Eng α) := fun _ _ => rfl

theorem carries_raiseErr (c : ErrCode) : Carries (raiseErr c : Eng α) := fun _ _ => rfl

theorem carries_bind {m : Eng α} {f : α → Eng β} (hm : Carries m) (hf : ∀ a, Carries (f a)) : Carries (m >>= f) := by
  intro p s
  rw [eng_bind, eng_bind, hm p s]
  cases m s with
  | ok a t => exact hf a p t
  | error e t => rfl

/-- What is read from the state is not its past. -/
theorem carries_get_bind {f : State → Eng β} (hf : ∀ s, Carries (f s)) (hsame : ∀ p s, f (Past.over p s) = f s) :
    Carries ((get : Eng State) >>= f) := by
  intro p s
  change f (p.over s) (p.over s) = mapEnd p.over (f s s)
  rw [hsame]
  exact hf s p s

theorem carries_ite {c : Prop} [Decidable c] {m n : Eng α} (hm : Carries m) (hn : Carries n) :
    Carries (if c then m else n) := by
  split
  · exact hm
  · exact hn

theorem carries_modify {f : State → State} (h : ∀ p s, f (Past.over p s) = p.over (f s)) :
    Carries (modify f : Eng Unit) := fun p s => congrArg (EStateM.Result.ok ()) (h p s)

theorem carries_require {q : State → Bool} (h : ∀ p s, q (Past.over p s) = q s) : Carries (require q) := by
  intro p s
  rw [eng_require, eng_require, h]
  cases q s <;> rfl

/-- The past is as it was. -/
theorem Carries.keeps {m : Eng α} (hm : Carries m) {s t : State} {a : α} (h : m s = .ok a t) :
    (ownPast s).over t = t := by
  have hown := hm (ownPast s) s
  rw [ownPast_over, h] at hown
  exact (EStateM.Result.ok.inj hown).2.symm

end Carries

/-! ### The requests, and the tables -/

theorem carries_requestByte : Carries requestByte := by
  intro p s
  have hsource : (p.over s).source = s.source := rfl
  unfold requestByte
  rw [hsource]
  cases s.source with
  | nil => rfl
  | cons a rest => cases a <;> rfl

theorem carries_requestBytes : ∀ n : Nat, Carries (requestBytes n)
  | 0 => carries_pure ()
  | n + 1 => carries_bind carries_requestByte fun _ =>
      carries_get_bind (fun _ => carries_ite (carries_pure ()) (carries_requestBytes n)) fun _ _ => rfl

theorem carries_consume (n : Nat) : Carries (consume n) :=
  carries_bind (carries_modify fun _ _ => rfl) fun _ =>
    carries_get_bind (fun _ => carries_requestBytes _) fun _ _ => rfl

@[simp] theorem over_tab (p : Past) (s : State) (t : Table) : (p.over s).tab t = s.tab t := by
  cases t <;> rfl

theorem over_setTab (p : Past) (s : State) (t : Table) (h : HuffTable (entryWidth t)) :
    (p.over s).setTab t h = p.over (s.setTab t h) := by
  cases t <;> rfl

theorem carries_updateTab (t : Table) (f : HuffTable (entryWidth t) → Except ErrCode (HuffTable (entryWidth t))) :
    Carries (updateTab t f) := by
  intro p s
  simp only [updateTab, over_tab]
  cases f (s.tab t) with
  | error e => rfl
  | ok h => exact congrArg (EStateM.Result.ok ()) (over_setTab p s t h)

/-! ### The readers of lengths -/

/-- The computation is made of the steps of a reader of table `t`'s lengths: it looks at the state but not at its past,
consumes bits, and replaces table `t`. -/
inductive ReadsLens (t : Table) : {α : Type} → Eng α → Prop
  | pure {α : Type} (a : α) : ReadsLens t (Pure.pure a : Eng α)
  | raise {α : Type} (c : ErrCode) : ReadsLens t (raiseErr c : Eng α)
  | bind {α β : Type} {m : Eng α} {f : α → Eng β} (hm : ReadsLens t m) (hf : ∀ a, ReadsLens t (f a)) :
      ReadsLens t (m >>= f)
  | look {β : Type} {f : State → Eng β} (hf : ∀ s, ReadsLens t (f s)) (hsame : ∀ p s, f (Past.over p s) = f s) :
      ReadsLens t ((get : Eng State) >>= f)
  | require {q : State → Bool} (hsame : ∀ p s, q (Past.over p s) = q s) : ReadsLens t (require q)
  | consume (n : Nat) : ReadsLens t (consume n)
  | update (f : HuffTable (entryWidth t) → Except ErrCode (HuffTable (entryWidth t))) : ReadsLens t (updateTab t f)

/-- `u` is `s` with table `t` replaced and its reader read on. -/
def ReadOn (t : Table) (s u : State) : Prop :=
  ∃ h r src fl, u = { s.setTab t h with reader := r, source := src, inFlight := fl } ∧
    r.packed = s.reader.packed ∧ r.valid = s.reader.valid

theorem readOn_refl (t : Table) (s : State) : ReadOn t s s :=
  ⟨s.tab t, s.reader, s.source, s.inFlight, by rw [setTab_tab], rfl, rfl⟩

theorem ReadOn.trans {t : Table} {s u v : State} (h : ReadOn t s u) (k : ReadOn t u v) : ReadOn t s v := by
  obtain ⟨h, r, src, fl, rfl, hp, hv⟩ := h
  obtain ⟨h', r', src', fl', rfl, hp', hv'⟩ := k
  refine ⟨h', r', src', fl', ?_, hp'.trans hp, hv'.trans hv⟩
  cases t <;> rfl

/-- `Consume` moves the reader alone (R153, R156). -/
theorem consume_ok {n : Nat} {s u : State} {a : Unit} (h : consume n s = .ok a u) :
    u = { s with reader := u.reader, source := u.source, inFlight := u.inFlight } ∧
      u.reader.packed = s.reader.packed ∧ u.reader.valid = s.reader.valid := by
  obtain ⟨hasked, -⟩ := fillLookAhead_ok h
  exact ⟨hasked.frame, by rw [hasked.reader], by rw [hasked.reader]⟩

theorem ReadsLens.readOn {t : Table} {α : Type} {m : Eng α} (hm : ReadsLens t m) :
    ∀ {s u : State} {a : α}, m s = .ok a u → ReadOn t s u := by
  induction hm with
  | pure a =>
    intro s u b h
    cases h
    exact readOn_refl t s
  | raise c =>
    intro s u b h
    cases h
  | bind hm hf ihm ihf =>
    intro s u b h
    rw [eng_bind] at h
    split at h
    case h_1 a v hv => exact (ihm hv).trans (ihf a h)
    case h_2 => cases h
  | look hf hsame ih =>
    intro s u b h
    exact ih s h
  | require hsame =>
    intro s u b h
    rw [eng_require] at h
    split at h <;> cases h
    exact readOn_refl t s
  | consume n =>
    intro s u b h
    obtain ⟨hframe, hpacked, hvalid⟩ := consume_ok h
    exact ⟨s.tab t, u.reader, u.source, u.inFlight, by rw [setTab_tab]; exact hframe, hpacked, hvalid⟩
  | update f =>
    intro s u b h
    rcases updateTab_ends t f s with ⟨k, -, hu⟩ | ⟨e, hu⟩ <;> rw [hu] at h <;> cases h
    exact ⟨k, s.reader, s.source, s.inFlight, by cases t <;> rfl, rfl, rfl⟩

theorem ReadsLens.carries {t : Table} {α : Type} {m : Eng α} (hm : ReadsLens t m) : Carries m := by
  induction hm with
  | pure a => exact carries_pure a
  | raise c => exact carries_raiseErr c
  | bind _ _ ihm ihf => exact carries_bind ihm ihf
  | look _ hsame ih => exact carries_get_bind ih hsame
  | require hsame => exact carries_require hsame
  | consume n => exact carries_consume n
  | update f => exact carries_updateTab t f

section Steps

variable {t : Table} {α : Type}

theorem readsLens_ite {c : Prop} [Decidable c] {m n : Eng α} (hm : ReadsLens t m) (hn : ReadsLens t n) :
    ReadsLens t (if c then m else n) := by
  split
  · exact hm
  · exact hn

theorem readsLens_raiseIf (b : Bool) (c : ErrCode) : ReadsLens t (raiseIf b c) :=
  readsLens_ite (.raise c) (.pure ())

/-- A replaced table is one of the updates that never fail. -/
theorem readsLens_edit (f : HuffTable (entryWidth t) → HuffTable (entryWidth t)) :
    ReadsLens t (modify fun s => s.setTab t (f (s.tab t))) :=
  .update fun h => .ok (f h)

theorem readsLens_setLen (i l : Nat) : ReadsLens t (setLen t i l) := readsLens_edit fun h => h.setLen t i l

theorem readsLens_zeroLens (k n : Nat) : ReadsLens t (zeroLens t k n) := readsLens_edit fun h => h.zeroLens t k n

theorem readsLens_markLens : ReadsLens t (markLens t) := readsLens_edit fun h => { h with lenValid := true }

theorem readsLens_getBits {n : Nat} (hn : n ≤ 16) : ReadsLens t (getBits n) := by
  rw [getBits, if_pos hn]
  exact .look (fun _ => .bind (.consume n) fun _ => .pure _) fun _ _ => rfl

theorem readsLens_decodeSym (u : Table) : ReadsLens t (decodeSym u) := by
  refine .look (fun s => ?_) fun p s => by simp only [over_tab]; rfl
  split
  · exact .raise _
  · exact .bind (.consume _) fun _ => .pure _

theorem readsLens_closeLens (i nchar : Nat) : ReadsLens t (closeLens t i nchar) :=
  .bind (readsLens_zeroLens _ _) fun _ => .bind readsLens_markLens fun _ => .update _

end Steps

theorem readsLens_unaryLen (w : Nat) : ∀ n c : Nat, ReadsLens .pt (unaryLen w n c)
  | 0, c => .pure c
  | n + 1, c => readsLens_ite (readsLens_ite (.raise _) (readsLens_unaryLen w n (c + 1))) (.pure c)

theorem readsLens_readPtLength : ReadsLens .pt readPtLength := by
  have hlast : ∀ c : Nat, ReadsLens .pt (do consume (if c < 7 then 3 else c - 3); pure c) := fun c =>
    .bind (.consume _) fun _ => .pure c
  exact .look (fun _ => readsLens_ite (.bind (readsLens_unaryLen _ _ _) hlast) (.bind (.pure _) hlast)) fun _ _ => rfl

theorem readsLens_readPtLengths (nn n : Nat) (special : Option Nat) :
    ∀ turns i : Nat, ReadsLens .pt (readPtLengths nn n special turns i)
  | 0, i => .pure i
  | turns + 1, i => readsLens_ite
      (.bind readsLens_readPtLength fun _ => .bind (readsLens_setLen _ _) fun _ => readsLens_ite
        (.bind (readsLens_getBits (by decide)) fun _ => .bind (readsLens_raiseIf _ _) fun _ =>
          .bind (readsLens_zeroLens _ _) fun _ => readsLens_readPtLengths nn n special turns _)
        (readsLens_readPtLengths nn n special turns _))
      (.pure i)

theorem readsLens_readPtLen (nn : Nat) {nbit : Nat} (hw : nbit ≤ 16) (special : Option Nat) :
    ReadsLens .pt (readPtLen nn nbit special) :=
  .bind (readsLens_getBits hw) fun n => readsLens_ite
    (.bind (readsLens_getBits hw) fun _ => .update _)
    (.bind (readsLens_raiseIf _ _) fun _ => .bind (readsLens_readPtLengths nn n special n 0) fun i =>
      readsLens_closeLens i nn)

theorem readsLens_zeroRun (c : Nat) : ReadsLens .c (zeroRun c) := by
  unfold zeroRun
  split
  · exact .pure 1
  · exact .bind (readsLens_getBits (by decide)) fun _ => .pure _
  · exact .bind (readsLens_getBits (by decide)) fun _ => .pure _

theorem readsLens_readCLengths (n : Nat) : ∀ turns i : Nat, ReadsLens .c (readCLengths n turns i)
  | 0, i => .pure i
  | turns + 1, i => readsLens_ite
      (.bind (readsLens_decodeSym .pt) fun _ => readsLens_ite
        (.bind (readsLens_zeroRun _) fun _ => .bind (readsLens_raiseIf _ _) fun _ =>
          .bind (readsLens_zeroLens _ _) fun _ => readsLens_readCLengths n turns _)
        (.bind (readsLens_setLen _ _) fun _ => readsLens_readCLengths n turns _))
      (.pure i)

theorem readsLens_readCLen : ReadsLens .c readCLen :=
  .bind (readsLens_getBits (by decide)) fun n => readsLens_ite
    (.bind (readsLens_getBits (by decide)) fun _ => .update _)
    (.bind (readsLens_raiseIf _ _) fun _ => .bind (readsLens_readCLengths n n 0) fun i =>
      readsLens_closeLens i alphabetNC)

theorem readsLens_readTreeLength : ReadsLens .c readTreeLength :=
  .bind (readsLens_getBits (by decide)) fun _ => readsLens_ite
    (.bind (readsLens_getBits (by decide)) fun _ => .pure _) (.pure 0)

theorem threeOnes_over (p : Past) (s : State) (t : Table) : threeOnes t (p.over s) = threeOnes t s := by
  simp only [threeOnes, over_tab]

theorem readsLens_readTreeLengths : ∀ left i : Nat, ReadsLens .c (readTreeLengths left i)
  | 0, _ => .pure false
  | left + 1, i => .bind readsLens_readTreeLength fun _ => .bind (readsLens_setLen _ _) fun _ =>
      .look (fun _ => readsLens_ite
        (.bind (readsLens_getBits (by decide)) fun _ => .bind (.update _) fun _ => .pure true)
        (readsLens_readTreeLengths left (i + 1))) fun p s => by rw [threeOnes_over]

theorem readsLens_readTreeC : ReadsLens .c readTreeC :=
  .bind (readsLens_readTreeLengths _ _) fun _ => readsLens_ite (.pure ()) (readsLens_closeLens _ _)

theorem readsLens_readyMade (m : ReadyTable) (np : Nat) : ReadsLens .pt (readyMade m np) :=
  .bind (readsLens_edit fun h => readyLengths np 0 (fixedTable m).1 (fixedTable m).2 h) fun _ => readsLens_closeLens np np

theorem readsLens_readPosLengths : ∀ left i : Nat, ReadsLens .pt (readPosLengths left i)
  | 0, _ => .pure false
  | left + 1, i => .bind (readsLens_getBits (by decide)) fun _ => .bind (readsLens_setLen _ _) fun _ =>
      .look (fun _ => readsLens_ite
        (.bind (readsLens_getBits (by decide)) fun _ => .bind (.update _) fun _ => .pure true)
        (readsLens_readPosLengths left (i + 1))) fun p s => by rw [threeOnes_over]

theorem readsLens_readTreeP : ReadsLens .pt readTreeP :=
  .bind (readsLens_getBits (by decide)) fun _ => readsLens_ite
    (.bind (readsLens_readPosLengths _ _) fun _ => readsLens_ite (.pure ()) (readsLens_closeLens _ _))
    (readsLens_readyMade _ _)

/-! ### The frame of the readers of lengths -/

/-- Where a command does not fail, it waits with the block as it was, or its body has come to its end. -/
theorem command_goesOn {legal : Bool} {allowed : EState → Bool} {body : Eng Unit} {s u : State}
    (h : command legal allowed body s = .next u) (hu : u.estate ≠ .failed) :
    (∃ fl, u = { s with inFlight := fl }) ∨ ∃ v, body (issued s) = .ok () v ∧ u = v.retire := by
  rcases command_cases h with ⟨-, rfl⟩ | ⟨-, -, rfl⟩ | ⟨-, -, ⟨v, hv, rfl⟩ | ⟨c, v, -, rfl⟩ | ⟨v, -, rfl⟩⟩
  · exact absurd rfl hu
  · exact absurd rfl hu
  · exact .inr ⟨v, hv, rfl⟩
  · exact absurd rfl hu
  · exact .inl ⟨_, rfl⟩

/-- What a reader of table `t`'s lengths leaves as it was (R222, R224, R230, R231, R241). -/
structure LensFrame (t : Table) (s u : State) : Prop where
  status : s.sameStatus u
  entry : s.sameEntry u
  result : u.result = s.result
  blockSize : u.blockSize = s.blockSize
  arena : u.arena = s.arena
  window : u.window = s.window
  otherTab : ∀ t', t' ≠ t → u.tab t' = s.tab t'
  packed : u.reader.packed = s.reader.packed
  valid : u.reader.valid = s.reader.valid
  draws : u.draws = s.draws

theorem ReadOn.lensFrame {t : Table} {s v : State} (h : ReadOn t (issued s) v) : LensFrame t s v.retire := by
  obtain ⟨h, r, src, fl, rfl, hp, hv⟩ := h
  refine ⟨?_, ?_, ?_, ?_, ?_, ?_, fun t' ht => ?_, hp, hv, ?_⟩
  case refine_7 => cases t <;> cases t' <;> first | rfl | exact absurd rfl ht
  all_goals cases t <;> simp [State.sameStatus, State.sameHostRegs, State.sameEntry, issued]

theorem command_lensFrame {t : Table} {legal : Bool} {body : Eng Unit} {s u : State} (hb : ReadsLens t body)
    (h : command legal notInFailed body s = .next u) (hu : u.estate ≠ .failed) : LensFrame t s u := by
  rcases command_goesOn h hu with ⟨fl, rfl⟩ | ⟨v, hv, rfl⟩
  · exact ⟨sameStatus_refl s, ⟨rfl, rfl, rfl, rfl, rfl, rfl, rfl, rfl, rfl, rfl, rfl⟩, rfl, rfl, rfl, rfl,
      fun t' _ => by cases t' <;> rfl, rfl, rfl, rfl⟩
  · exact (hb.readOn hv).lensFrame

theorem readsLens_requireReader {t : Table} : ReadsLens t requireReader := .require fun _ _ => rfl

/-- The table whose lengths a command reads. -/
def lensTable : Instr → Table
  | .nsReadC | .st0ReadC => .c
  | _ => .pt

/-- Each of these commands is its checks and a body made of a reader's steps. -/
theorem lensReader_command {i : Instr}
    (hi : (∃ c w x, i = .nsReadPt c w x) ∨ i = .nsReadC ∨ i = .st0ReadC ∨ i = .st0ReadP ∨
      (∃ m c, i = .htReadyMade m c)) :
    ∃ body, (∀ s, exec i s = command (operandsLegal i) notInFailed body s) ∧ ReadsLens (lensTable i) body := by
  rcases hi with ⟨c, w, x, rfl⟩ | rfl | rfl | rfl | ⟨m, c, rfl⟩ <;> refine ⟨_, fun _ => rfl, ?_⟩
  · have hw : w.toNat ≤ 16 := by omega
    exact .bind readsLens_requireReader fun _ => readsLens_readPtLen _ hw _
  · exact .bind readsLens_requireReader fun _ => .bind (.require fun _ _ => rfl) fun _ => readsLens_readCLen
  · exact .bind readsLens_requireReader fun _ => readsLens_readTreeC
  · exact .bind readsLens_requireReader fun _ => readsLens_readTreeP
  · exact readsLens_readyMade m c.toNat

/-! ### The frame of the adaptive commands -/

/-- `b` is `a` but for its RAMs and the registers that a tree's growth moves. -/
def SameTrees (a b : Arena) : Prop :=
  b = { a with
    freq := b.freq, child := b.child, parent := b.parent, sNode := b.sNode, totalP := b.totalP, mostP := b.mostP
    nextCount := b.nextCount }

theorem SameTrees.trans {a b c : Arena} (h : SameTrees a b) (k : SameTrees b c) : SameTrees a c := by
  unfold SameTrees at *
  rw [k, h]

theorem Rewrites.sameTrees {a b : Arena} (h : Rewrites a b) : SameTrees a b := by
  rw [SameTrees, h.regs]

/-- The computation is made of the steps of an adaptive command: it looks at the state, replaces the arena and draws free
values, and where `reads` it reads on and sets RESULT. -/
inductive AdaptsTrees (reads : Prop) : {α : Type} → Eng α → Prop
  | pure {α : Type} (a : α) : AdaptsTrees reads (Pure.pure a : Eng α)
  | raise {α : Type} (c : ErrCode) : AdaptsTrees reads (raiseErr c : Eng α)
  | bind {α β : Type} {m : Eng α} {f : α → Eng β} (hm : AdaptsTrees reads m) (hf : ∀ a, AdaptsTrees reads (f a)) :
      AdaptsTrees reads (m >>= f)
  | get : AdaptsTrees reads (MonadState.get : Eng State)
  | require (q : State → Bool) : AdaptsTrees reads (require q)
  | update {f : Arena → Nat → Arena × Nat} (hf : ∀ a k, SameTrees a (f a k).1) : AdaptsTrees reads (updateArena f)
  | movePos (h : reads) (pos : State → Count) (draws : State → Nat) : AdaptsTrees reads (do
      modify fun s => { s with draws := draws s, reader := { s.reader with pos := pos s } }
      fillLookAhead)
  | result (h : reads) (v : Nat) : AdaptsTrees reads (setResult v)

/-- `u` is `s` with its trees moved on, and where `reads` with its reader read on and another RESULT. -/
structure Adapted (reads : Prop) (s u : State) : Prop where
  frame : u = { s with
    arena := u.arena, draws := u.draws, reader := u.reader, source := u.source, inFlight := u.inFlight
    result := u.result }
  trees : SameTrees s.arena u.arena
  packed : u.reader.packed = s.reader.packed
  valid : u.reader.valid = s.reader.valid
  unread : ¬reads → u.reader = s.reader ∧ u.source = s.source ∧ u.result = s.result

theorem adapted_refl (reads : Prop) (s : State) : Adapted reads s s :=
  ⟨rfl, rfl, rfl, rfl, fun _ => ⟨rfl, rfl, rfl⟩⟩

theorem Adapted.trans {reads : Prop} {s u v : State} (h : Adapted reads s u) (k : Adapted reads u v) :
    Adapted reads s v := by
  refine ⟨?_, h.trees.trans k.trees, k.packed.trans h.packed, k.valid.trans h.valid, fun hno => ?_⟩
  · rw [k.frame, h.frame]
  · obtain ⟨hr, hs, hv⟩ := h.unread hno
    obtain ⟨hr', hs', hv'⟩ := k.unread hno
    exact ⟨hr'.trans hr, hs'.trans hs, hv'.trans hv⟩

theorem AdaptsTrees.adapted {reads : Prop} {α : Type} {m : Eng α} (hm : AdaptsTrees reads m) :
    ∀ {s u : State} {a : α}, m s = .ok a u → Adapted reads s u := by
  induction hm with
  | pure a =>
    intro s u b h
    cases h
    exact adapted_refl reads s
  | raise c =>
    intro s u b h
    cases h
  | bind hm hf ihm ihf =>
    intro s u b h
    rw [eng_bind] at h
    split at h
    case h_1 a v hv => exact (ihm hv).trans (ihf a h)
    case h_2 => cases h
  | get =>
    intro s u b h
    cases h
    exact adapted_refl reads s
  | require q =>
    intro s u b h
    rw [eng_require] at h
    split at h <;> cases h
    exact adapted_refl reads s
  | update hf =>
    intro s u b h
    cases h
    exact ⟨rfl, hf _ _, rfl, rfl, fun _ => ⟨rfl, rfl, rfl⟩⟩
  | movePos hreads pos draws =>
    intro s u b h
    obtain ⟨hasked, -⟩ := fillLookAhead_ok h
    refine ⟨?_, ?_, by rw [hasked.reader], by rw [hasked.reader], fun hno => absurd hreads hno⟩
    · rw [hasked.frame]
    · rw [hasked.frame]
      exact rfl
  | result hreads v =>
    intro s u b h
    cases h
    exact ⟨rfl, rfl, rfl, rfl, fun hno => absurd hreads hno⟩

section Trees

variable {reads : Prop} {α : Type}

theorem adapts_ite {c : Prop} [Decidable c] {m n : Eng α} (hm : AdaptsTrees reads m) (hn : AdaptsTrees reads n) :
    AdaptsTrees reads (if c then m else n) := by
  split
  · exact hm
  · exact hn

theorem adapts_raiseIf (b : Bool) (c : ErrCode) : AdaptsTrees reads (raiseIf b c) := adapts_ite (.raise c) (.pure ())

/-- A requirement, and then a check on the state, before anything is done. -/
theorem adapts_checked {p bad : State → Bool} {c : ErrCode} {m : State → Eng Unit} (hm : ∀ s, AdaptsTrees reads (m s)) :
    AdaptsTrees reads (do
      require p
      let s ← get
      raiseIf (bad s) c
      m s) :=
  .bind (.require p) fun _ => .bind .get fun s => .bind (adapts_raiseIf _ c) fun _ => hm s

theorem makeNewNode_sameTrees (p : Nat) (a : Arena) (k : Nat) : SameTrees a (Arena.makeNewNode p a k).1 :=
  SameTrees.trans (b := { a with mostP := BitVec.ofNat 10 (a.mostP.toNat + 1 + 1) }) rfl
    (rewrites_makeNewNode p a k).sameTrees

theorem adapts_makeNewNode (p : Nat) : AdaptsTrees reads (updateArena (Arena.makeNewNode p)) :=
  .update (makeNewNode_sameTrees p)

theorem adapts_growP : ∀ turns : Nat, AdaptsTrees reads (growP turns)
  | 0 => .pure ()
  | turns + 1 => .bind .get fun _ => adapts_ite
      (.bind (adapts_raiseIf _ _) fun _ => .bind (adapts_makeNewNode _) fun _ =>
        .bind (.update (f := fun a k => (a.stepNextCount, k)) fun _ _ => rfl) fun _ => adapts_growP turns)
      (.pure ())

theorem adapts_drawSymbol : AdaptsTrees reads drawSymbol :=
  .bind .get fun _ => .bind (.update (f := fun a k => (a, k + 1)) fun _ _ => rfl) fun _ => .pure _

variable (hreads : reads)

include hreads

theorem adapts_getBits {n : Nat} (hn : n ≤ 16) : AdaptsTrees reads (getBits n) := by
  rw [getBits, if_pos hn]
  exact .bind .get fun _ => .bind (.movePos hreads (fun s => s.reader.pos + BitVec.ofNat 64 n) State.draws) fun _ =>
    .pure _

theorem adapts_walkFrom : ∀ (turns : Nat) (c : Int), AdaptsTrees reads (walkFrom turns c)
  | 0, _ => by
    unfold walkFrom
    rw [← bind_assoc]
    exact .bind (.movePos hreads (fun s => Config.freeBitPos s.draws) fun s => s.draws + 1) fun _ => .pure _
  | turns + 1, c => adapts_ite
      (.bind (adapts_getBits hreads (by decide)) fun _ => .bind .get fun _ => adapts_walkFrom turns _) (.pure c)

theorem adapts_dynWalk (root : Nat) : AdaptsTrees reads (dynWalk root) :=
  .bind .get fun _ => .bind (adapts_walkFrom hreads _ _) fun _ => adapts_ite (.pure _) adapts_drawSymbol

theorem adapts_dynDecodeC : AdaptsTrees reads dynDecodeC :=
  .bind (.require _) fun _ => .bind (.require _) fun _ => .bind (adapts_dynWalk hreads _) fun c =>
    .bind (.update fun a k => (rewrites_updateC c a k).sameTrees) fun _ => .bind .get fun _ =>
      adapts_ite (.bind (adapts_getBits hreads (by decide)) fun _ => .pure _) (.pure _)

theorem adapts_dynDecodeP : AdaptsTrees reads dynDecodeP :=
  .bind (.require _) fun _ => .bind (.require _) fun _ => .bind (adapts_growP _) fun _ =>
    .bind (adapts_dynWalk hreads _) fun sym =>
      .bind (.update fun a k => (rewrites_countLeafP sym a k).sameTrees) fun _ =>
        .bind (adapts_getBits hreads (by decide)) fun _ => .pure _

end Trees

/-- What an adaptive command leaves as it was (R270, R271, R274, R277, R280, R281). -/
structure TreesFrame (reads : Prop) (s u : State) : Prop where
  status : s.sameStatus u
  entry : s.sameEntry u
  blockSize : u.blockSize = s.blockSize
  tables : u.tabC = s.tabC ∧ u.tabPt = s.tabPt
  window : u.window = s.window
  packed : u.reader.packed = s.reader.packed
  valid : u.reader.valid = s.reader.valid
  trees : SameTrees s.arena u.arena
  unread : ¬reads → u.result = s.result ∧ u.reader = s.reader ∧ u.source = s.source

theorem Adapted.treesFrame {reads : Prop} {s v : State} (h : Adapted reads (issued s) v) :
    TreesFrame reads s v.retire where
  status := by rw [h.frame]; exact sameStatus_refl s
  entry := by rw [h.frame]; exact ⟨rfl, rfl, rfl, rfl, rfl, rfl, rfl, rfl, rfl, rfl, rfl⟩
  blockSize := by rw [h.frame]; rfl
  tables := by rw [h.frame]; exact ⟨rfl, rfl⟩
  window := by rw [h.frame]; rfl
  packed := h.packed
  valid := h.valid
  trees := h.trees
  unread := fun hno => by
    obtain ⟨hr, hs, hv⟩ := h.unread hno
    exact ⟨hv, hr, hs⟩

theorem command_treesFrame {reads : Prop} {legal : Bool} {body : Eng Unit} {s u : State} (hb : AdaptsTrees reads body)
    (h : command legal notInFailed body s = .next u) (hu : u.estate ≠ .failed) : TreesFrame reads s u := by
  rcases command_goesOn h hu with ⟨fl, rfl⟩ | ⟨v, hv, rfl⟩
  · exact ⟨sameStatus_refl s, ⟨rfl, rfl, rfl, rfl, rfl, rfl, rfl, rfl, rfl, rfl, rfl⟩, rfl, ⟨rfl, rfl⟩, rfl, rfl, rfl,
      rfl, fun _ => ⟨rfl, rfl, rfl⟩⟩
  · exact (hb.adapted hv).treesFrame

/-- Each of these commands is its checks and a body made of an adaptive command's steps. -/
theorem adaptive_command {i : Instr}
    (hi : (∃ x, i = .dynUpdateC x) ∨ (∃ x, i = .dynUpdateP x) ∨ (∃ k, i = .dynReconst k) ∨ (∃ x, i = .dynNewNode x) ∨
      i = .dynDecodeC ∨ i = .dynDecodeP) :
    ∃ body, (∀ s, exec i s = command (operandsLegal i) notInFailed body s) ∧
      AdaptsTrees (i = .dynDecodeC ∨ i = .dynDecodeP) body := by
  rcases hi with ⟨x, rfl⟩ | ⟨x, rfl⟩ | ⟨k, rfl⟩ | ⟨x, rfl⟩ | rfl | rfl <;> refine ⟨_, fun _ => rfl, ?_⟩
  · exact adapts_checked fun _ => .update fun a k => (rewrites_updateC _ a k).sameTrees
  · exact adapts_checked fun _ => .update fun a k => (rewrites_countLeafP _ a k).sameTrees
  · exact adapts_ite (.bind (.require _) fun _ => .update fun a k => (rewrites_reconstC a k).sameTrees)
      (adapts_checked fun _ => .update fun a k => (rewrites_reconstP a k).sameTrees)
  · exact adapts_checked fun _ => .bind (adapts_raiseIf _ _) fun _ => adapts_makeNewNode _
  · exact .bind (adapts_dynDecodeC (.inl rfl)) fun c => .result (.inl rfl) c
  · exact .bind (adapts_dynDecodeP (.inr rfl)) fun p => .result (.inr rfl) p

/-- Settles O53: every reader of lengths is made of steps that replace its table and read on (`ReadsLens`), and every adaptive
command of steps that move the trees on and, where it decodes, read on (`AdaptsTrees`). -/
theorem decoderUnitsFrame : Obligations.DecoderUnitsFrame := by
  unfold Obligations.DecoderUnitsFrame
  refine ⟨fun s t i hi h ht => ?_, fun s t i hi h ht => ?_⟩
  · obtain ⟨body, hbody, hreads⟩ := lensReader_command hi
    have hf := command_lensFrame hreads ((hbody s).symm.trans h) ht
    refine ⟨hf.status, hf.entry, hf.result, hf.blockSize, hf.arena, hf.window, fun hc => ?_, fun hC hT => ?_, hf.packed,
      hf.valid, hf.draws⟩
    · exact hf.otherTab .pt (by rcases hc with rfl | rfl <;> decide)
    · have hpt : lensTable i = .pt := by
        rcases hi with ⟨c, w, x, rfl⟩ | rfl | rfl | rfl | ⟨m, c, rfl⟩
        · rfl
        · exact absurd rfl hC
        · exact absurd rfl hT
        · rfl
        · rfl
      exact hf.otherTab .c (by rw [hpt]; decide)
  · obtain ⟨body, hbody, hadapts⟩ := adaptive_command hi
    have hf := command_treesFrame hadapts ((hbody s).symm.trans h) ht
    have hregs := hf.trees
    refine ⟨hf.status, hf.entry, hf.blockSize, hf.tables.1, hf.tables.2, hf.window, hf.packed, hf.valid, ?_, ?_, ?_, ?_, ?_,
      fun hC hP => hf.unread (not_or.mpr ⟨hC, hP⟩)⟩
    all_goals rw [hregs]

end Sys2Proof.Proofs
end

section
/-! PROOFS. A STEP is DEC_C and WIN_LITERAL, or DEC_C, DEC_P and WIN_MATCH (O20). -/

namespace Sys2Proof.Proofs

open Sys2Proof.Machine Sys2Proof.Laws

/-! ### What the window's operations carry -/

theorem carries_emit (b : Byte) : Carries (emit b) := by
  intro p s
  have hroom : (p.over s).sinkRoom = s.sinkRoom := rfl
  unfold emit
  rw [hroom]
  split <;> rfl

theorem carries_emitRange : ∀ n i : Nat, Carries (emitRange n i)
  | 0, _ => carries_pure ()
  | n + 1, i => carries_get_bind (fun _ => carries_bind (carries_emit _) fun _ => carries_emitRange n (i + 1)) fun _ _ => rfl

theorem carries_put (b : Byte) : Carries (put b) :=
  carries_bind (carries_modify fun _ _ => rfl) fun _ => carries_get_bind (fun _ => carries_ite
    (carries_bind (carries_emitRange _ _) fun _ => carries_modify fun _ _ => rfl)
    (carries_modify fun _ _ => rfl)) fun _ _ => rfl

theorem carries_countDecoded (n : Nat) : Carries (countDecoded n) := carries_modify fun _ _ => rfl

theorem carries_requireWindow : Carries requireWindow := carries_require fun _ _ => rfl

theorem carries_winLiteral (b : Byte) : Carries (winLiteral b) :=
  carries_bind carries_requireWindow fun _ => carries_bind (carries_put b) fun _ => carries_countDecoded 1

theorem carries_copyBytes (src : BitVec 16) : ∀ n k : Nat, Carries (copyBytes src n k)
  | 0, _ => carries_pure ()
  | n + 1, k => carries_get_bind (fun _ => carries_bind (carries_put _) fun _ => carries_copyBytes src n (k + 1))
      fun _ _ => rfl

theorem carries_winMatchDecoded (len dist : Nat) : Carries (winMatchDecoded len dist) :=
  carries_bind carries_requireWindow fun _ => carries_get_bind
    (fun _ => carries_bind (carries_countDecoded len) fun _ => carries_copyBytes _ _ _) fun _ _ => rfl

/-! ### A part of a command, and the same as a command of its own -/

/-- The past with which a part of a command goes on from `s`. -/
def pastOf (s : State) : Past :=
  { cmd := s.cmd, result := s.result, arg := s.arg, blockSize := s.blockSize, trace := s.trace, flight := s.inFlight }

/-- The state in which a command of its own begins where another one has come to `s`: all port events are in the trace,
and the host may have written ARG. -/
def resumed (s : State) (cmd : Option Word) (result arg : Word) (blockSize : BitVec 16) : State :=
  { s with
    cmd := cmd, result := result, arg := arg, blockSize := blockSize, trace := s.inFlight ++ s.trace, inFlight := [] }

theorem over_resumed (s : State) (cmd : Option Word) (result arg : Word) (blockSize : BitVec 16) :
    (pastOf s).over (resumed s cmd result arg blockSize) = s := rfl

/-- Where the command of its own ends, the part in the middle of a command ends too, in the same state but for what it does
not see. -/
theorem Carries.in_middle {α : Type} {m : Eng α} (hm : Carries m) {s t : State} {cmd : Option Word} {result arg : Word}
    {blockSize : BitVec 16} {a : α} (h : m (resumed s cmd result arg blockSize) = .ok a t) :
    m s = .ok a ((pastOf s).over t) := by
  have hrun := hm (pastOf s) (resumed s cmd result arg blockSize)
  rwa [over_resumed, h] at hrun

/-- The ends of the two, when their commands end. -/
theorem Carries.retire_in_middle {α : Type} {m : Eng α} (hm : Carries m) {s t : State} {cmd : Option Word}
    {result arg : Word} {blockSize : BitVec 16} {a : α} (h : m (resumed s cmd result arg blockSize) = .ok a t) :
    ((pastOf s).over t).retire = { t.retire with result := s.result, arg := s.arg, blockSize := s.blockSize } := by
  have htrace : t.trace = s.inFlight ++ s.trace := (congrArg State.trace (hm.keeps h)).symm
  have hevents : (t.inFlight ++ s.inFlight) ++ s.trace = t.inFlight ++ t.trace := by rw [htrace, List.append_assoc]
  exact congrArg (fun events => State.retire { t with
    result := s.result, arg := s.arg, blockSize := s.blockSize, trace := events, inFlight := [] }) hevents

/-- A command that is not waiting and has not failed: its body has come to its end. -/
theorem command_completed {legal : Bool} {allowed : EState → Bool} {body : Eng Unit} {s u : State}
    (h : command legal allowed body s = .next u) (hcmd : s.cmd ≠ none) (hidle : u.cmd = none)
    (hu : u.estate ≠ .failed) : ∃ v, body (issued s) = .ok () v ∧ u = v.retire := by
  rcases command_goesOn h hu with ⟨fl, rfl⟩ | hv
  · exact absurd hidle hcmd
  · exact hv

/-! ### STEP -/

theorem exec_step_ok {s v : State} (hactive : s.estate = .active) (hlz : s.lzEntry = true)
    (h : stepToken (issued s) = .ok () v) : exec .step s = .next v.retire := by
  have hlz' : require State.lzEntry (issued s) = .ok () (issued s) := eng_require_true hlz
  exact command_ok rfl (congrArg inActive hactive) ((bind_of_ok hlz').trans h)

theorem stepToken_literal {s u v : State} {c : Nat} (hc : decC s = .ok c u) (hlit : c ≤ 255)
    (hw : winLiteral (BitVec.ofNat 8 c) u = .ok () v) :
    stepToken s = .ok () { v with result := BitVec.ofNat 32 c } := by
  rw [stepToken, bind_of_ok hc, if_pos hlit, bind_of_ok hw]
  rfl

theorem stepToken_match {s u v w : State} {c p : Nat} (hc : decC s = .ok c u) (hlen : ¬c ≤ 255) (hp : decP u = .ok p v)
    (hw : winMatchDecoded (c - 253) (p + 1) v = .ok () w) :
    stepToken s = .ok () { w with result := BitVec.ofNat 32 c } := by
  have hcopy : winMatchDecoded (c - adjust) (p + 1) v = .ok () w := hw
  rw [stepToken, bind_of_ok hc, if_neg hlen, bind_of_ok hp, bind_of_ok hcopy]
  rfl

/-- WIN_MATCH's body, where it ends, is the match of a decoded token at the distance in ARG (R304). -/
theorem winMatch_ok {s v : State} {len : Nat} (h : (do
      requireWindow
      let dist := (← get).argDistance
      raiseIf (decide (dist = 0) || decide (65536 < dist)) .badOperand
      copyMatch len dist : Eng Unit) s = .ok () v) :
    winMatchDecoded len s.argDistance s = .ok () v := by
  have hbody (h : requireWindow s = .ok () s) :
      winMatchDecoded len s.argDistance s = copyMatch len s.argDistance s := bind_of_ok h
  cases hv : s.window.valid with
  | false =>
    rw [eng_bind, requireWindow, eng_require_false hv] at h
    cases h
  | true =>
    have hopen : requireWindow s = .ok () s := eng_require_true hv
    rw [bind_of_ok hopen, bind_of_ok (eng_get s), eng_bind] at h
    rw [hbody hopen]
    cases hbad : decide (s.argDistance = 0) || decide (65536 < s.argDistance) with
    | false =>
      rw [hbad] at h
      exact h
    | true =>
      rw [hbad] at h
      cases h

/-- The copy sees the distance modulo the window's greatest size (R304, D27). -/
theorem winMatchDecoded_congr {len d d' : Nat} (h : BitVec.ofNat 16 d = BitVec.ofNat 16 d') :
    winMatchDecoded len d = winMatchDecoded len d' := by
  unfold winMatchDecoded copyMatch
  rw [h]

/-- A decoded value below 65,536, in RESULT, gives the distance one above it (R37, R341). -/
theorem argDistance_decoded {s : State} {p : Nat} (harg : s.arg = BitVec.ofNat 32 p + 1)
    (hp : (BitVec.ofNat 32 p).toNat < 65536) : BitVec.ofNat 16 s.argDistance = BitVec.ofNat 16 (p + 1) := by
  have hdist : s.argDistance = p % 2 ^ 32 + 1 := by
    rw [BitVec.toNat_ofNat] at hp
    rw [argDistance_eq, harg, BitVec.toNat_add, BitVec.toNat_ofNat]
    change (p % 2 ^ 32 + 1) % 2 ^ 32 % 2 ^ 17 = _
    omega
  apply BitVec.eq_of_toNat_eq
  rw [BitVec.toNat_ofNat, BitVec.toNat_ofNat, hdist]
  omega

section Parts

variable {s t : State} (hcmd : s.cmd ≠ none) (hlz : s.lzEntry = true) (ht : s.completes .decC t)

/-- WIN_LITERAL, where it completes. -/
theorem winLiteral_completed {b : Byte} {u : State} (h : exec (.winLiteral b) s = .next u) (hcmd : s.cmd ≠ none)
    (hidle : u.cmd = none) (hgo : u.estate ≠ .failed) : ∃ v, winLiteral b (issued s) = .ok () v ∧ u = v.retire :=
  command_completed (legal := true) (allowed := notInFailed) h hcmd hidle hgo

/-- WIN_MATCH, where it completes. -/
theorem winMatch_completed {n : BitVec 9} {u : State} (h : exec (.winMatch n) s = .next u) (hcmd : s.cmd ≠ none)
    (hidle : u.cmd = none) (hgo : u.estate ≠ .failed) :
    ∃ v, winMatchDecoded n.toNat s.argDistance (issued s) = .ok () v ∧ u = v.retire := by
  obtain ⟨v, hv, hu⟩ := command_completed (legal := true) (allowed := notInFailed) h hcmd hidle hgo
  exact ⟨v, winMatch_ok hv, hu⟩

include hcmd hlz ht

theorem step_literal {u : State} (hlit : t.result.toNat ≤ 255)
    (hu : exec (.winLiteral (BitVec.ofNat 8 t.result.toNat)) { t with cmd := s.cmd } = .next u) (hidle : u.cmd = none)
    (hgo : u.estate ≠ .failed) : exec .step s = .next { u with result := t.result } := by
  obtain ⟨hactive, c, v, hc, ht'⟩ := decode_of_completes (fun _ => rfl) ht hcmd
  have hresult : t.result = BitVec.ofNat 32 c := by rw [ht']; rfl
  have hsym : t.result.toNat = c := by
    rw [hresult, BitVec.toNat_ofNat, Nat.mod_eq_of_lt (decC_yields _ _ _ hc)]
  have hstart : issued { t with cmd := s.cmd } = resumed v s.cmd (BitVec.ofNat 32 c) v.arg v.blockSize := by
    rw [ht']
    rfl
  rw [hsym] at hlit hu
  obtain ⟨w, hw, rfl⟩ := winLiteral_completed hu hcmd hidle hgo
  rw [hstart] at hw
  have hcarry := carries_winLiteral (BitVec.ofNat 8 c)
  have harg : w.arg = v.arg := (congrArg State.arg (hcarry.keeps hw)).symm
  have hblock : w.blockSize = v.blockSize := (congrArg State.blockSize (hcarry.keeps hw)).symm
  rw [exec_step_ok hactive hlz (stepToken_literal hc hlit (hcarry.in_middle hw))]
  have hretire := hcarry.retire_in_middle hw
  rw [← harg, ← hblock] at hretire
  rw [hresult]
  exact congrArg (fun x : State => Host.Outcome.next { x with result := BitVec.ofNat 32 c }) hretire

theorem step_match {p u : State} (hlen : 256 ≤ t.result.toNat) (hmax : t.result.toNat ≤ 540)
    (hp : State.completes { t with cmd := s.cmd } .decP p) (hdist : p.result.toNat < 65536)
    (hu : exec (.winMatch (BitVec.ofNat 9 (t.result.toNat - 253)))
      { p with cmd := s.cmd, arg := p.result + 1 } = .next u) (hidle : u.cmd = none)
    (hgo : u.estate ≠ .failed) : exec .step s = .next { u with arg := s.arg, result := t.result } := by
  obtain ⟨hactive, c, v, hc, ht'⟩ := decode_of_completes (fun _ => rfl) ht hcmd
  have hresult : t.result = BitVec.ofNat 32 c := by rw [ht']; rfl
  have hsym : t.result.toNat = c := by
    rw [hresult, BitVec.toNat_ofNat, Nat.mod_eq_of_lt (decC_yields _ _ _ hc)]
  rw [hsym] at hlen hmax hu
  obtain ⟨-, d, x, hd, hp'⟩ := decode_of_completes (fun _ => rfl) hp hcmd
  have hseen : decP (unseen v (BitVec.ofNat 32 c) (v.inFlight ++ v.trace) []) = .ok d x := by
    rw [← issued_after_decC _ (path_cmd (decC_path hc)), ← ht']
    exact hd
  have hrun := oblivious_decP v (BitVec.ofNat 32 c) (v.inFlight ++ v.trace) [] rfl
  rw [hseen] at hrun
  obtain ⟨w, r, tr, fl, hdw, hx, hevents⟩ := sameRun_ok_right hrun
  have hpresult : p.result = BitVec.ofNat 32 d := by rw [hp']; rfl
  have hstart : issued { p with cmd := s.cmd, arg := p.result + 1 } =
      resumed w s.cmd p.result (p.result + 1) w.blockSize := by
    rw [hpresult, hp', hx, resumed, ← hevents]
    rfl
  obtain ⟨y, hy, rfl⟩ := winMatch_completed hu hcmd hidle hgo
  have hlength : (BitVec.ofNat 9 (c - 253)).toNat = c - 253 := by
    rw [BitVec.toNat_ofNat, Nat.mod_eq_of_lt (by omega)]
  have hdistance : BitVec.ofNat 16 (State.argDistance { p with cmd := s.cmd, arg := p.result + 1 }) =
      BitVec.ofNat 16 (d + 1) := argDistance_decoded (congrArg (· + 1) hpresult) (hpresult ▸ hdist)
  rw [hstart, hlength, winMatchDecoded_congr hdistance] at hy
  have hcarry := carries_winMatchDecoded (c - 253) (d + 1)
  have harg : w.arg = s.arg := by
    obtain ⟨-, -, -, -, -, -, ⟨-, -, -, -, -, h⟩, -⟩ :=
      sameStatus_trans (path_sameStatus (decC_path hc)) (path_sameStatus (decP_path hdw))
    exact h
  have hblock : y.blockSize = w.blockSize := (congrArg State.blockSize (hcarry.keeps hy)).symm
  rw [exec_step_ok hactive hlz (stepToken_match hc (by omega) hdw (hcarry.in_middle hy))]
  have hretire := hcarry.retire_in_middle hy
  rw [harg, ← hblock] at hretire
  rw [hresult]
  exact congrArg (fun x : State => Host.Outcome.next { x with result := BitVec.ofNat 32 c }) hretire

end Parts

/-! ### A literal inside a block (R226, R303) -/

/-- `Put` before the last byte of the window emits nothing (R302). -/
theorem put_inside {s : State} (h : s.window.loc.toNat < s.window.mask.toNat) (b : Byte) :
    put b s = .ok () { s with
      window := { s.window.write s.window.loc.toNat b with loc := s.window.loc + 1 } } := by
  have hne : s.window.loc ≠ s.window.mask := fun heq => by rw [heq] at h; omega
  rw [put, bind_of_ok (eng_modify _ s), bind_of_ok (eng_get _)]
  exact congrFun (if_neg hne) _

/-- WIN_LITERAL's semantics before the last byte of the open window (R303). -/
theorem winLiteral_inside {s : State} (hw : s.window.valid = true) (h : s.window.loc.toNat < s.window.mask.toNat)
    (b : Byte) :
    winLiteral b s = .ok () { s with
      window := { s.window.write s.window.loc.toNat b with loc := s.window.loc + 1 }
      decodeCount := s.decodeCount + 1 } := by
  have hopen : requireWindow s = .ok () s := eng_require_true hw
  rw [winLiteral, bind_of_ok hopen, bind_of_ok (put_inside h b)]
  rfl

/-- Settles O20: STEP decodes in the middle of a command what DEC_C and DEC_P decode as commands of their own
(`oblivious_decP`), and the window's operations carry what they do not see (`Carries`). -/
theorem stepIsDecodeThenApply : Obligations.StepIsDecodeThenApply := by
  unfold Obligations.StepIsDecodeThenApply
  refine ⟨fun s t hcmd hlz ht hidle hactive => ?_, fun s c he hlo hhi hr hd hb hv hc hlit hw hroom => ?_⟩
  · have hgo {x : State} (h : x.estate = .active) : x.estate ≠ .failed := by rw [h]; decide
    have hdone : s.completes .decC t := ⟨ht, hidle, hgo hactive⟩
    exact ⟨fun u hlit hu huidle hu' => step_literal hcmd hlz hdone hlit hu huidle (hgo hu'),
      fun p u hlen hmax hp hpidle hp' hdist hu huidle hu' =>
        step_match hcmd hlz hdone hlen hmax ⟨hp, hpidle, hgo hp'⟩ hdist hu huidle (hgo hu')⟩
  · have hsym : decC (issued s) = .ok c (symbolTaken (issued s) (s.tabC.getLen c)) :=
      (decC_newStatic (s := issued s) hlo hhi).trans (nsDecodeC_drained (s := issued s) hr hd hb hv hc)
    have hput := winLiteral_inside (s := symbolTaken (issued s) (s.tabC.getLen c)) hw hroom (BitVec.ofNat 8 c)
    exact exec_step_ok he (lzEntry_eq_true (by omega) hhi) (stepToken_literal hsym hlit hput)

end Sys2Proof.Proofs
end

section
/-! PROOFS. BLK_START as the commands of its parts, DEC_C with BLOCKSIZE = 0, and a header of zero bits (O19). -/

namespace Sys2Proof.Proofs

open Sys2Proof.Machine Sys2Proof.Laws

/-! ### A part of a command that sees its own RESULT, ARG and BLOCKSIZE -/

/-- The state in which a command of its own begins where another one has come to `s`, with every register as it is. -/
def fresh (s : State) (cmd : Option Word) : State := resumed s cmd s.result s.arg s.blockSize

theorem issued_retire (s : State) (cmd : Option Word) : issued { s.retire with cmd := cmd } = fresh s cmd := rfl

/-- Wherever a computation stops, the past is as it was. -/
theorem Carries.keeps_error {α : Type} {m : Eng α} (hm : Carries m) {s t : State} {e : Stop} (h : m s = .error e t) :
    (ownPast s).over t = t := by
  have hown := hm (ownPast s) s
  rw [ownPast_over, h] at hown
  exact (EStateM.Result.error.inj hown).2.symm

/-- The events of both runs are the same (R410). -/
theorem over_flight {s t : State} {cmd : Option Word} (h : (ownPast (fresh s cmd)).over t = t) :
    (t.inFlight ++ s.inFlight) ++ s.trace = t.inFlight ++ t.trace := by
  have htrace : s.inFlight ++ s.trace = t.trace := congrArg State.trace h
  rw [← htrace, List.append_assoc]

theorem retire_over {s t : State} {cmd : Option Word} (h : (ownPast (fresh s cmd)).over t = t) :
    ((pastOf s).over t).retire = t.retire := by
  have hevents := over_flight h
  calc ((pastOf s).over t).retire
      = { ((ownPast (fresh s cmd)).over t).retire with trace := (t.inFlight ++ s.inFlight) ++ s.trace } := rfl
    _ = t.retire := by rw [h, hevents]; rfl

theorem failCommand_over {s t : State} {cmd : Option Word} (h : (ownPast (fresh s cmd)).over t = t) (c : ErrCode) :
    ((pastOf s).over t).failCommand c = t.failCommand c := by
  have hevents := over_flight h
  calc ((pastOf s).over t).failCommand c
      = { ((ownPast (fresh s cmd)).over t).failCommand c with trace := (t.inFlight ++ s.inFlight) ++ s.trace } := rfl
    _ = t.failCommand c := by rw [h, hevents]; rfl

/-- A part whose command of its own completes: the part ends, and the command that goes on could end there alike. -/
theorem Carries.part {α : Type} {m : Eng α} (hm : Carries m) {s t : State} {cmd : Option Word} {a : α}
    (h : m (fresh s cmd) = .ok a t) : ∃ u, m s = .ok a u ∧ t.retire = u.retire :=
  ⟨_, hm.in_middle h, (retire_over (hm.keeps h)).symm⟩

/-- The last part: it ends or fails in the command that goes on as it does in a command of its own. -/
theorem Carries.last {m : Eng Unit} (hm : Carries m) {s r y d : State} (hcmd : y.cmd ≠ none)
    (h : settle y (m (fresh s y.cmd)) = .next d) (hidle : d.cmd = none) : settle r (m s) = .next d := by
  have hrun : m s = mapEnd (pastOf s).over (m (fresh s y.cmd)) := hm (pastOf s) (fresh s y.cmd)
  cases hx : m (fresh s y.cmd) with
  | ok a t =>
    rw [hx] at h hrun
    rw [hrun, ← h]
    exact congrArg _ (retire_over (hm.keeps hx))
  | error e t =>
    rw [hx] at h hrun
    cases e with
    | raise c =>
      rw [hrun, ← h]
      exact congrArg _ (failCommand_over (hm.keeps_error hx) c)
    | stall =>
      cases h
      exact absurd hidle hcmd

/-! ### The commands of the parts -/

theorem ok_of_require {α : Type} {q : State → Bool} {f : Unit → Eng α} {s t : State} {a : α}
    (h : (require q >>= f) s = .ok a t) : q s = true ∧ f () s = .ok a t := by
  cases hq : q s with
  | true => exact ⟨rfl, by rwa [bind_of_ok (eng_require_true hq)] at h⟩
  | false =>
    rw [eng_bind, eng_require_false hq] at h
    cases h

/-- What a reader of lengths leaves of the entry's latches and of the reader. -/
theorem ReadOn.latches {t : Table} {s u : State} (h : ReadOn t s u) :
    u.np = s.np ∧ u.pbit = s.pbit ∧ u.result = s.result ∧ u.reader.valid = s.reader.valid ∧
      u.eMethod = s.eMethod := by
  obtain ⟨h, r, src, fl, rfl, -, hv⟩ := h
  cases t <;> exact ⟨rfl, rfl, rfl, hv, rfl⟩

/-- The count of a block header (R225, R232). -/
def readBlockCount : Eng Unit := do
  let n ← getBits 16
  modify fun s => { s with blockSize := BitVec.ofNat 16 n }

theorem nsBlockHeader_eq : nsBlockHeader = (do
    readBlockCount
    readPtLen pretreeCap 5 (some 3)
    readCLen
    let s ← get
    readPtLen s.np.toNat s.pbit.toNat none) := by
  rw [nsBlockHeader, readBlockCount, bind_assoc]

theorem st0BlockHeader_eq : st0BlockHeader = (do readBlockCount; readTreeC; readTreeP) := by
  rw [st0BlockHeader, readBlockCount, bind_assoc]

theorem extract_count (v : Nat) : (BitVec.ofNat 32 v).extractLsb' 0 16 = BitVec.ofNat 16 v := by
  apply BitVec.eq_of_toNat_eq
  rw [BitVec.extractLsb'_toNat, BitVec.toNat_ofNat, BitVec.toNat_ofNat, Nat.shiftRight_zero]
  omega

/-- BR_GET 16, where it completes, and its value put into BLOCKSIZE: the count of the header, read. -/
theorem blockCount_completed {s a : State} (hcmd : s.cmd ≠ none) (ha : s.completes (.brGet 16#5) a) :
    s.reader.valid = true ∧ ∃ u, readBlockCount (issued s) = .ok () u ∧ u.reader.valid = true ∧
      u.np = s.np ∧ u.pbit = s.pbit ∧
      issued { a with cmd := s.cmd, blockSize := a.result.extractLsb' 0 16, result := s.result } = fresh u s.cmd := by
  obtain ⟨hexec, hidle, hgo⟩ := ha
  obtain ⟨v, hv, ha⟩ := command_completed (legal := true) (allowed := notInFailed) hexec hcmd hidle hgo
  obtain ⟨hvalid, hbody⟩ := ok_of_require hv
  have hv : (do let v ← getBits 16; setResult v) (issued s) = .ok () v := hbody
  cases hn : getBits 16 (issued s) with
  | error e t =>
    rw [eng_bind, hn] at hv
    cases hv
  | ok n t =>
    rw [bind_of_ok hn] at hv
    cases hv
    obtain ⟨hnp, hpbit, hresult, hvalid', -⟩ := ((readsLens_getBits (t := .c) (by decide)).readOn hn).latches
    refine ⟨hvalid, { t with blockSize := BitVec.ofNat 16 n }, bind_of_ok hn, hvalid'.trans hvalid, hnp, hpbit, ?_⟩
    have hcount : a.result.extractLsb' 0 16 = BitVec.ofNat 16 n := by
      rw [ha]
      exact extract_count n
    have hold : t.result = s.result := hresult
    rw [hcount, ha, ← hold]
    rfl

section Dispatch

variable {s : State} (he : s.estate = .active)

theorem blkHdr_newStatic (hlo : 4 ≤ s.eMethod.toNat) (hhi : s.eMethod.toNat ≤ 7) :
    blkHdr s = (do requireReader; nsBlockHeader) s := by
  rw [blkHdr, eng_bind, eng_get]
  rcases newStatic_methods hlo hhi with h | h | h | h <;> simp only [h]

theorem blkHdr_lh3 (h : s.eMethod.toNat = 3) : blkHdr s = (do requireReader; st0BlockHeader) s := by
  rw [blkHdr, eng_bind, eng_get]
  simp only [State.methodNow, h]

include he in
theorem exec_decC : exec .decC s = settle s ((do let c ← decC; setResult c) (issued s)) :=
  command_run (legal := true) rfl (congrArg inActive he)

include he in
theorem exec_blkStart : exec .blkStart s = settle s (blkHdr (issued s)) :=
  command_run (legal := true) rfl (congrArg inActive he)

end Dispatch

theorem exec_st0ReadC {s : State} (he : s.estate ≠ .failed) (hr : s.reader.valid = true) :
    exec .st0ReadC s = settle s (readTreeC (issued s)) :=
  (command_run (s := s) (legal := true) rfl (notInFailed_iff.mpr he)).trans
    (congrArg (settle s) (bind_of_ok (s := issued s) (eng_require_true hr)))

theorem exec_st0ReadP {s : State} (he : s.estate ≠ .failed) (hr : s.reader.valid = true) :
    exec .st0ReadP s = settle s (readTreeP (issued s)) :=
  (command_run (s := s) (legal := true) rfl (notInFailed_iff.mpr he)).trans
    (congrArg (settle s) (bind_of_ok (s := issued s) (eng_require_true hr)))

/-! ### BLK_START as its parts -/

section BlockHeader

variable {s a b c : State} (hcmd : s.cmd ≠ none) (he : s.estate = .active)
  (ha : s.completes (.brGet 16#5) a)

include hcmd he ha

theorem blkStart_newStatic {d : State} (hlo : 4 ≤ s.eMethod.toNat) (hhi : s.eMethod.toNat ≤ 7)
    (hl : Instr.WellFormed (.nsReadPt (s.np.zeroExtend 9) (s.pbit.zeroExtend 4) 15#4))
    (hb : State.completes { a with cmd := s.cmd, blockSize := a.result.extractLsb' 0 16, result := s.result }
      (.nsReadPt 20#9 5#4 3#4) b)
    (hc : State.completes { b with cmd := s.cmd } .nsReadC c)
    (hd : exec (.nsReadPt (s.np.zeroExtend 9) (s.pbit.zeroExtend 4) 15#4) { c with cmd := s.cmd } = .next d)
    (hidle : d.cmd = none) : exec .blkStart s = .next d := by
  obtain ⟨hvalid, u, hcount, huvalid, hnp, hpbit, hfresh⟩ := blockCount_completed hcmd ha
  obtain ⟨hbexec, hbidle, hbgo⟩ := hb
  obtain ⟨v, hv, hbv⟩ := command_completed (legal := true) (allowed := notInFailed) hbexec hcmd hbidle hbgo
  rw [hfresh] at hv
  have hpre : readPtLen pretreeCap 5 (some 3) (fresh u s.cmd) = .ok () v := (ok_of_require hv).2
  have hreadsPre : ReadsLens .pt (readPtLen pretreeCap 5 (some 3)) := readsLens_readPtLen _ (by decide) _
  obtain ⟨w, hw, hvw⟩ := hreadsPre.carries.part hpre
  obtain ⟨hcexec, hcidle, hcgo⟩ := hc
  obtain ⟨x, hx, hcx⟩ := command_completed (legal := true) (allowed := notInFailed) hcexec hcmd hcidle hcgo
  rw [hbv, hvw, issued_retire] at hx
  have hlens : readCLen (fresh w s.cmd) = .ok () x := (ok_of_require (ok_of_require hx).2).2
  obtain ⟨y, hy, hxy⟩ := readsLens_readCLen.carries.part hlens
  obtain ⟨hnp', hpbit', -, hvalid', -⟩ := (hreadsPre.readOn hw).latches
  obtain ⟨hnp'', hpbit'', -, hvalid'', -⟩ := (readsLens_readCLen.readOn hy).latches
  have hlastNp : y.np.toNat = (s.np.zeroExtend 9).toNat := by
    rw [hnp'', hnp', hnp, BitVec.toNat_setWidth]
    omega
  have hlastPbit : y.pbit.toNat = (s.pbit.zeroExtend 4).toNat := by
    rw [hpbit'', hpbit', hpbit, BitVec.toNat_setWidth]
    omega
  have hlast : exec .blkStart s = settle s (readPtLen y.np.toNat y.pbit.toNat none y) := by
    have hready : requireReader (issued s) = .ok () (issued s) := eng_require_true hvalid
    rw [exec_blkStart he, blkHdr_newStatic (s := issued s) hlo hhi, bind_of_ok hready, nsBlockHeader_eq,
      bind_of_ok hcount, bind_of_ok hw, bind_of_ok hy, bind_of_ok (eng_get y)]
  have hyvalid : y.reader.valid = true := hvalid''.trans (hvalid'.trans huvalid)
  have hcy : c = y.retire := hcx.trans hxy
  rw [hcy] at hd hcgo
  rw [exec_nsReadPt (s := { y.retire with cmd := s.cmd }) hcgo hyvalid hl, issued_retire, ← hlastNp, ← hlastPbit] at hd
  rw [hlast]
  exact (readsLens_readPtLen _ (by omega) _).carries.last (y := { y.retire with cmd := s.cmd }) hcmd hd hidle

theorem blkStart_lh3 {d : State} (hm : s.eMethod.toNat = 3)
    (hb : State.completes { a with cmd := s.cmd, blockSize := a.result.extractLsb' 0 16, result := s.result }
      .st0ReadC b)
    (hd : exec .st0ReadP { b with cmd := s.cmd } = .next d) (hidle : d.cmd = none) : exec .blkStart s = .next d := by
  obtain ⟨hvalid, u, hcount, huvalid, -, -, hfresh⟩ := blockCount_completed hcmd ha
  obtain ⟨hbexec, hbidle, hbgo⟩ := hb
  obtain ⟨v, hv, hbv⟩ := command_completed (legal := true) (allowed := notInFailed) hbexec hcmd hbidle hbgo
  rw [hfresh] at hv
  obtain ⟨w, hw, hvw⟩ := readsLens_readTreeC.carries.part (ok_of_require hv).2
  obtain ⟨-, -, -, hvalid', -⟩ := (readsLens_readTreeC.readOn hw).latches
  have hwvalid : w.reader.valid = true := hvalid'.trans huvalid
  have hlast : exec .blkStart s = settle s (readTreeP w) := by
    have hready : requireReader (issued s) = .ok () (issued s) := eng_require_true hvalid
    rw [exec_blkStart he, blkHdr_lh3 (s := issued s) hm, bind_of_ok hready, st0BlockHeader_eq,
      bind_of_ok hcount, bind_of_ok hw]
  have hbw : b = w.retire := hbv.trans hvw
  rw [hbw] at hd hbgo
  rw [exec_st0ReadP (s := { w.retire with cmd := s.cmd }) hbgo hwvalid, issued_retire] at hd
  rw [hlast]
  exact readsLens_readTreeP.carries.last (y := { w.retire with cmd := s.cmd }) hcmd hd hidle

end BlockHeader

/-! ### DEC_C with BLOCKSIZE = 0 -/

/-- The symbol's procedure of lh3 to lh7 is the opening of the block and what follows it, and BLK_START is the header with
which the block is opened (R226, R233, R340). -/
theorem decC_block {m : Nat} (hlo : 3 ≤ m) (hhi : m ≤ 7) :
    ∃ (header : Eng Unit) (rest : Eng Nat), Carries rest ∧ ∀ s : State, s.eMethod.toNat = m →
      decC s = (do openBlock header; rest) s ∧ blkHdr s = (do requireReader; header) s := by
  rcases Nat.lt_or_ge 3 m with h | h
  · refine ⟨nsBlockHeader, decodeSym .c, (readsLens_decodeSym (t := .c) .c).carries, fun s hs => ?_⟩
    exact ⟨decC_newStatic (by omega) (by omega), blkHdr_newStatic (by omega) (by omega)⟩
  · refine ⟨st0BlockHeader, (do
      let j ← decodeSym .c
      if j = 285 then do
        let v ← getBits 8
        pure (j + v)
      else pure j), ?_, fun s hs => ⟨decC_lh3 (by omega), blkHdr_lh3 (by omega)⟩⟩
    exact (ReadsLens.bind (t := .c) (readsLens_decodeSym .c) fun j => readsLens_ite
      (.bind (readsLens_getBits (by decide)) fun _ => .pure _) (.pure _)).carries

/-- Where an open block lets a symbol through, nothing but BLOCKSIZE has changed. -/
theorem openBlock_ok {header : Eng Unit} {s t : State} (hb : s.blockSize ≠ 0#16) (h : openBlock header s = .ok () t) :
    t = { s with blockSize := s.blockSize - 1 } := by
  obtain ⟨-, h⟩ := ok_of_require h
  rw [bind_of_ok (eng_get s), if_neg hb] at h
  cases (ok_of_require h).2
  rfl

theorem path_eMethod {K : List Part} {s t : State} (ho : .opening ∉ K) (h : Path K s t) : t.eMethod = s.eMethod := by
  induction h with
  | refl => rfl
  | tail _ hm ih =>
    obtain ⟨p, hp, hm⟩ := hm
    cases hm with
    | opening => exact absurd hp ho
    | table _ t => cases t <;> exact ih
    | _ => exact ih

theorem blkHdr_eMethod {s u : State} (h : blkHdr s = .ok () u) : u.eMethod = s.eMethod :=
  path_eMethod (K := decodeParts) (by decide)
    ((does_blkHdr (by decide) (by decide) (by decide) (by decide)).1 s () u h)

theorem openBlock_opens {header : Eng Unit} {s t : State} (hr : s.reader.valid = true) (hb : s.blockSize = 0#16)
    (h : header s = .ok () t) : openBlock header s = .ok () { t with blockSize := t.blockSize - 1 } := by
  have hready : requireReader s = .ok () s := eng_require_true hr
  rw [openBlock, bind_of_ok hready, bind_of_ok (eng_get s), if_pos hb]
  exact bind_of_ok h

theorem decC_opens {s b v : State} (hcmd : s.cmd ≠ none) (he : s.estate = .active) (hlo : 3 ≤ s.eMethod.toNat)
    (hhi : s.eMethod.toNat ≤ 7) (hzero : s.blockSize = 0#16) (hb : s.completes .blkStart b)
    (hv : State.completes { b with cmd := s.cmd, blockSize := 1#16 } .decC v) :
    exec .decC s = .next { v with blockSize := b.blockSize - 1 } := by
  obtain ⟨hbexec, hbidle, hbgo⟩ := hb
  obtain ⟨u, hu, hbu⟩ := command_completed (legal := true) (allowed := inActive) hbexec hcmd hbidle hbgo
  obtain ⟨-, c, w, hw, hvw⟩ := decode_of_completes (fun _ => rfl) hv hcmd
  obtain ⟨header, rest, hcarries, hblock⟩ := decC_block hlo hhi
  obtain ⟨hdec, hhdr⟩ := hblock (issued s) rfl
  have hmethod : u.eMethod = s.eMethod := blkHdr_eMethod (s := issued s) hu
  rw [show issued { b with cmd := s.cmd, blockSize := 1#16 } = resumed u s.cmd u.result u.arg 1#16 by rw [hbu]; rfl,
    (hblock (resumed u s.cmd u.result u.arg 1#16) (congrArg BitVec.toNat hmethod)).1] at hw
  rw [hhdr] at hu
  obtain ⟨hvalid, hu⟩ := ok_of_require hu
  cases hopen : openBlock header (resumed u s.cmd u.result u.arg 1#16) with
  | error e t =>
    rw [eng_bind, hopen] at hw
    cases hw
  | ok _ t =>
    have ht := openBlock_ok (s := resumed u s.cmd u.result u.arg 1#16) (show 1#16 ≠ 0#16 by decide) hopen
    rw [bind_of_ok hopen, ht] at hw
    have hrest : rest { u with blockSize := u.blockSize - 1 } =
        .ok c ((pastOf { u with blockSize := u.blockSize - 1 }).over w) :=
      hcarries.in_middle (s := { u with blockSize := u.blockSize - 1 }) hw
    have hstart : decC (issued s) = .ok c ((pastOf { u with blockSize := u.blockSize - 1 }).over w) := by
      rw [hdec, bind_of_ok (openBlock_opens hvalid hzero hu), hrest]
    have harg : u.arg = w.arg := by
      have hkeeps := congrArg State.arg (hcarries.keeps hw)
      exact hkeeps
    have hretire : ((pastOf { u with blockSize := u.blockSize - 1 }).over w).retire =
        { w.retire with result := u.result, blockSize := u.blockSize - 1 } :=
      (hcarries.retire_in_middle (s := { u with blockSize := u.blockSize - 1 }) hw).trans
        (congrArg (fun arg => { w.retire with result := u.result, arg := arg, blockSize := u.blockSize - 1 }) harg)
    have hcount : b.blockSize = u.blockSize := by rw [hbu]; rfl
    rw [exec_decC (s := s) he, bind_of_ok hstart, hvw, hcount]
    exact congrArg (fun x : State => Host.Outcome.next { x with result := BitVec.ofNat 32 c }) hretire

/-! ### A header of zero bits -/

theorem bit_advance (r : Reader) (m k : Nat) : (r.advance m).bit k = r.bit k := rfl

/-- Nothing left to request, and only zero bits. -/
def ZeroStream (r : Reader) : Prop := r.drained ∧ ∀ k, r.bit k = false

theorem ZeroStream.advance {r : Reader} (h : ZeroStream r) (n : Nat) : ZeroStream (r.advance n) :=
  ⟨h.1, fun k => (bit_advance r n k).trans (h.2 k)⟩

theorem ZeroStream.peek {r : Reader} (h : ZeroStream r) (n : Nat) : r.peek n = 0 := by
  have hbits : ∀ n k, r.bitsAt k n = 0 := by
    intro n
    induction n with
    | zero => exact fun k => rfl
    | succ n ih => exact fun k => by simp [Reader.bitsAt, h.2, ih]
  exact hbits n _

theorem ZeroStream.read {s : State} (h : ZeroStream s.reader) (n : Nat) (t : Table) (m : HuffTable (entryWidth t)) :
    ZeroStream ((s.skipped n).setTab t m).reader := by
  rw [setTab_reader]
  exact h.advance n

section Zeros

variable {s : State} (hz : ZeroStream s.reader)

include hz

theorem readBlockCount_zeros : readBlockCount s = .ok () { s.skipped 16 with blockSize := 0#16 } := by
  rw [readBlockCount, bind_of_ok (getBits_drained hz.1 (by decide)), hz.peek]
  rfl

theorem readPtLen_zeros {c w : Nat} {special : Option Nat} (hw : w ≤ 16) (hc : 0 < c) :
    readPtLen c w special s = .ok () ((s.skipped (2 * w)).setTab .pt (constantTable .pt c 0 s.tabPt)) := by
  have hzero : (s.reader.advance w).peek w = 0 := (hz.advance w).peek w
  rw [readPtLen_zero hz.1 hw (hz.peek w), hzero]
  exact htFill_ok hc _

theorem readCLen_zeros : readCLen s = .ok () ((s.skipped 18).setTab .c (constantTable .c 510 0 s.tabC)) := by
  have hzero : (s.reader.advance 9).peek 9 = 0 := (hz.advance 9).peek 9
  rw [readCLen_zero hz.1 (hz.peek 9), hzero]
  exact htFill_ok (by decide) _

/-- The lengths of such a header are three constant tables. -/
theorem headerLens_zeros (hnp : s.np ≠ 0#8) :
    (do
      readPtLen pretreeCap 5 (some 3)
      readCLen
      let s ← get
      readPtLen s.np.toNat s.pbit.toNat none) s = .ok () { s.skipped (28 + 2 * s.pbit.toNat) with
        tabC := constantTable .c 510 0 s.tabC
        tabPt := constantTable .pt s.np.toNat 0 (constantTable .pt pretreeCap 0 s.tabPt) } := by
  have hnp' : 0 < s.np.toNat := Nat.pos_of_ne_zero fun h => hnp (BitVec.eq_of_toNat_eq h)
  have hpre : readPtLen pretreeCap 5 (some 3) s =
      .ok () ((s.skipped 10).setTab .pt (constantTable .pt pretreeCap 0 s.tabPt)) :=
    readPtLen_zeros hz (by decide) (by decide)
  have hlens : readCLen ((s.skipped 10).setTab .pt (constantTable .pt pretreeCap 0 s.tabPt)) =
      .ok () ((((s.skipped 10).setTab .pt (constantTable .pt pretreeCap 0 s.tabPt)).skipped 18).setTab .c
        (constantTable .c 510 0 s.tabC)) := readCLen_zeros (hz.read _ _ _)
  have hlast : readPtLen s.np.toNat s.pbit.toNat none
      ((((s.skipped 10).setTab .pt (constantTable .pt pretreeCap 0 s.tabPt)).skipped 18).setTab .c
        (constantTable .c 510 0 s.tabC)) =
      .ok () ((((((s.skipped 10).setTab .pt (constantTable .pt pretreeCap 0 s.tabPt)).skipped 18).setTab .c
        (constantTable .c 510 0 s.tabC)).skipped (2 * s.pbit.toNat)).setTab .pt
          (constantTable .pt s.np.toNat 0 (constantTable .pt pretreeCap 0 s.tabPt))) :=
    readPtLen_zeros ((hz.read _ _ _).read _ _ _) (by omega) hnp'
  rw [bind_of_ok hpre, bind_of_ok hlens, bind_of_ok (eng_get _)]
  simp only [setTab_np, setTab_pbit, skipped_np, skipped_pbit]
  rw [hlast]
  simp only [State.setTab, State.skipped, advance_advance]

theorem blkHdr_zeros (hlo : 4 ≤ s.eMethod.toNat) (hhi : s.eMethod.toNat ≤ 7) (hr : s.reader.valid = true)
    (hnp : s.np ≠ 0#8) :
    blkHdr s = .ok () { s.skipped (44 + 2 * s.pbit.toNat) with
      blockSize := 0#16
      tabC := constantTable .c 510 0 s.tabC
      tabPt := constantTable .pt s.np.toNat 0 (constantTable .pt pretreeCap 0 s.tabPt) } := by
  have hready : requireReader s = .ok () s := eng_require_true hr
  have hbits : (s.reader.advance 16).advance (28 + 2 * s.pbit.toNat) = s.reader.advance (44 + 2 * s.pbit.toNat) := by
    rw [advance_advance, ← Nat.add_assoc]
  rw [blkHdr_newStatic hlo hhi, bind_of_ok hready, nsBlockHeader_eq, bind_of_ok (readBlockCount_zeros hz)]
  refine (headerLens_zeros (s := { s.skipped 16 with blockSize := 0#16 }) (hz.advance 16) hnp).trans ?_
  exact congrArg (fun r => EStateM.Result.ok () { s with
    reader := r
    blockSize := 0#16
    tabC := constantTable .c 510 0 s.tabC
    tabPt := constantTable .pt s.np.toNat 0 (constantTable .pt pretreeCap 0 s.tabPt) }) hbits

end Zeros

theorem zeroTables {s : State} :
    (∀ i, i < 4096 → (constantTable .c 510 0 s.tabC).getTable i = 0) ∧
      (∀ i, i < 256 → (constantTable .pt s.np.toNat 0 (constantTable .pt pretreeCap 0 s.tabPt)).getTable i = 0) :=
  ⟨fun _ hi => constantTable_getTable (t := .c) (by decide) hi _,
    fun _ hi => constantTable_getTable (t := .pt) (by decide) hi _⟩

/-- Settles O19: BLK_START reads the parts of the header one after the other, as their commands do, DEC_C at BLOCKSIZE 0
goes through the same header, and zero bits are the counts and symbols of constant tables. -/
theorem blockHeaders : Obligations.BlockHeaders := by
  unfold Obligations.BlockHeaders
  refine ⟨fun s a b c d hcmd he hlo hhi hl ha hb hc hd hidle => blkStart_newStatic hcmd he ha hlo hhi hl hb hc hd hidle,
    fun s a b c hcmd he hm ha hb hd hidle => blkStart_lh3 hcmd he ha hm hb hd hidle,
    fun s b v hcmd he hlo hhi hzero hb hv => decC_opens hcmd he hlo hhi hzero hb hv, ?_⟩
  intro s he hlo hhi hr hd hz hnp
  obtain ⟨hc, hp⟩ := zeroTables (s := s)
  refine ⟨_, _, command_ended _ [] rfl (congrArg inActive he) (blkHdr_zeros (s := issued s) ⟨hd, hz⟩ hlo hhi hr hnp),
    rfl, rfl, rfl, hc, rfl, rfl, ?_, hp, fun i => ⟨rfl, rfl⟩⟩
  exact (BitVec.ofNat_toNat 8 s.np).trans (BitVec.setWidth_eq s.np)

end Sys2Proof.Proofs
end

section
/-! PROOFS. Tables of given lengths, and the ready-made tables (O33). -/

namespace Sys2Proof.Proofs

open Sys2Proof.Machine Sys2Proof.Laws

/-! ### A length array of given lengths -/

theorem getD_le {ls : List Nat} {b : Nat} (h : ∀ l ∈ ls, l ≤ b) (i : Nat) : ls.getD i 0 ≤ b := by
  rcases lt_or_ge i ls.length with hi | hi
  · rw [List.getD_eq_getElem _ _ hi]
    exact h _ (List.getElem_mem hi)
  · rw [List.getD_eq_default _ _ hi]
    exact Nat.zero_le b

section Lens

variable {t : Table} {ls : List Nat} {h : HuffTable (entryWidth t)}

theorem withLens_wf (hw : h.wf t = true) (ls : List Nat) : (h.withLens t ls).wf t = true := by
  obtain ⟨-, hrest⟩ := table_wf_iff.mp hw
  exact table_wf_iff.mpr ⟨cellsOf_wf _, hrest⟩

theorem getLen_withLens (hn : ls.length ≤ lenCount t) (hl : ∀ l ∈ ls, l ≤ 16) (i : Nat) :
    (h.withLens t ls).getLen i = ls.getD i 0 := by
  have hi := getD_le hl i
  rw [HuffTable.getLen, HuffTable.withLens, cellGet_cellsOf]
  split
  · rw [BitVec.toNat_ofNat, Nat.mod_eq_of_lt (by omega)]
  · rw [List.getD_eq_default _ _ (by omega)]
    rfl

/-- A complete code's lengths make a valid table (R203). -/
theorem buildValid_withLens {c : Nat} (hw : h.wf t = true) (hc : c ≤ lenCount t) (hn : ls.length ≤ c)
    (hl : ∀ l ∈ ls, l ≤ 16) (hs : kraftSum (fun i => ls.getD i 0) c = 65536) :
    ∃ h', buildValid t c (h.withLens t ls) = .ok h' ∧ h'.tabValid = true ∧ h'.lenValid = true ∧ h'.nchar.toNat = c ∧
      ∀ i, h'.getLen i = ls.getD i 0 := by
  have hlens : (h.withLens t ls).getLen = fun i => ls.getD i 0 := funext (getLen_withLens (hn.trans hc) hl)
  obtain ⟨nodes, name, b, hbuild, hplanted⟩ := buildValid_planted (withLens_wf hw ls) hc
    (fun ch _ => (getLen_withLens (hn.trans hc) hl ch).trans_le (getD_le hl ch)) (hlens ▸ hs)
  refine ⟨_, hbuild, rfl, ((buildValid_ok hbuild).2 hc rfl rfl).1, ?_, fun i => ?_⟩
  · rw [builtTable, BitVec.toNat_ofNat, Nat.mod_eq_of_lt (entryWidth_fits hc)]
  · rw [← congrFun hlens i]
    exact congrArg (fun m => (cellGet 0#5 m i).toNat) hplanted.len

end Lens

/-! ### R240's lengths -/

theorem putLens_nil {t : Table} {i : Nat} {m : List (Nat × BitVec 5)} (hw : cellsWf (lenCount t) 0#5 m = true) :
    putLens t i [] m = m := by
  refine (eq_putLens hw fun a _ => ?_).symm
  rw [List.length_nil, if_neg (by omega)]

theorem readyLengths_eq_putLens {w : Nat} : ∀ (left i j : Nat) (tbl : List Nat) (h : HuffTable w),
    cellsWf (lenCount .pt) 0#5 h.len = true →
    readyLengths left i j tbl h = { h with len := putLens .pt i (fixedLens left i j tbl) h.len }
  | 0, i, j, tbl, h, hw => by
    rw [fixedLens, putLens_nil hw]
    rfl
  | left + 1, i, j, tbl, h, hw => by
    rw [readyLengths]
    dsimp only
    rw [setLen_eq_putLens hw, readyLengths_eq_putLens left (i + 1) _ _ _ (putLens_wf _ _ _ _), fixedLens]
    exact congrArg (fun m => { h with len := m }) (putLens_append [_] _)

theorem length_fixedLens : ∀ left i j tbl, (fixedLens left i j tbl).length = left
  | 0, _, _, _ => rfl
  | left + 1, i, _, _ => congrArg (· + 1) (length_fixedLens left (i + 1) _ _)

/-- Fewer lengths are the first of more. -/
theorem fixedLens_take : ∀ {n left : Nat} (i j : Nat) (tbl : List Nat), n ≤ left →
    fixedLens n i j tbl = (fixedLens left i j tbl).take n
  | 0, _, _, _, _, _ => rfl
  | n + 1, left + 1, i, j, tbl, h => by
    rw [fixedLens, fixedLens, List.take_succ_cons, ← fixedLens_take (i + 1) _ _ (Nat.le_of_succ_le_succ h)]

/-- The lengths of R240's loop are the ones R240 lists, for every count. -/
theorem fixedLens_ready (m : ReadyTable) {n : Nat} (hn : n ≤ 128) :
    fixedLens n 0 (fixedTable m).1 (fixedTable m).2 = (List.range n).map (readyLength m) := by
  have hall : fixedLens 128 0 (fixedTable m).1 (fixedTable m).2 = (List.range 128).map (readyLength m) := by
    cases m <;> decide
  rw [fixedLens_take 0 _ _ hn, hall, ← List.map_take, List.take_range, Nat.min_eq_left hn]

theorem readyLength_bounds (m : ReadyTable) (i : Nat) : 0 < readyLength m i ∧ readyLength m i ≤ 16 := by
  cases m <;> simp only [readyLength] <;> split_ifs <;> decide

theorem ready_le (m : ReadyTable) (n : Nat) : ∀ l ∈ (List.range n).map (readyLength m), l ≤ 16 := by
  intro l hl
  obtain ⟨i, -, rfl⟩ := List.mem_map.mp hl
  exact (readyLength_bounds m i).2

/-- What `ReadyMade(m, np)` builds of: the lengths that R240 lists, and zeros. -/
theorem readyLens_eq_withLens (m : ReadyTable) {n : Nat} {h : HuffTable 8} (hw : h.wf .pt = true)
    (hn : n ≤ lenCount .pt) : readyLens m n h = h.withLens .pt ((List.range n).map (readyLength m)) := by
  have hlength : ((List.range n).map (readyLength m)).length = n := by rw [List.length_map, List.length_range]
  have hfilled : (readyLengths n 0 (fixedTable m).1 (fixedTable m).2 h).zeroLens .pt n (lenCount .pt - n) =
      { h with len := heldLens .pt ((List.range n).map (readyLength m)) } := by
    rw [readyLengths_eq_putLens _ _ _ _ _ (table_wf_iff.mp hw).1, fixedLens_ready m hn,
      zeroLens_eq_putLens (putLens_wf _ _ _ _), ← putLens_rest (m := h.len), hlength]
  rw [readyLens, hfilled]
  exact heldLens_eq_withLens fun l hl => (ready_le m n l hl).trans (by decide)

/-! ### R240's lengths as a code -/

theorem kraftSum_succ (len : Nat → Nat) (c : Nat) :
    kraftSum len (c + 1) = kraftSum len c + if 0 < len c then 2 ^ (16 - len c) else 0 := by
  simp [kraftSum, List.range_succ]

theorem kraftSum_congr {f g : Nat → Nat} {c : Nat} (h : ∀ i, i < c → f i = g i) : kraftSum f c = kraftSum g c := by
  refine congrArg List.sum (List.map_congr_left fun i hi => ?_)
  rw [h i (List.mem_range.mp hi)]

theorem kraftSum_ready (m : ReadyTable) : kraftSum (readyLength m) (readyAlphabet m) = 65536 := by
  cases m <;> decide +kernel

/-- Every further symbol adds code space, so no other alphabet is complete. -/
theorem kraftSum_ready_ne (m : ReadyTable) {c : Nat} (hc : c ≠ readyAlphabet m) :
    kraftSum (readyLength m) c ≠ 65536 := by
  have hmono : StrictMono (kraftSum (readyLength m)) := strictMono_nat_of_lt_succ fun c => by
    rw [kraftSum_succ, if_pos (readyLength_bounds m c).1]
    exact Nat.lt_add_of_pos_right (Nat.two_pow_pos _)
  exact fun h => hc (hmono.injective (h.trans (kraftSum_ready m).symm))

section Ready

variable {s : State} (m : ReadyTable)

theorem readyMade_withLens {n : Nat} (hw : s.tabPt.wf .pt = true) (hn : n ≤ lenCount .pt) :
    readyMade m n s = build .pt n { s with tabPt := s.tabPt.withLens .pt ((List.range n).map (readyLength m)) } := by
  rw [readyMade_eq, readyLens_eq_withLens m hw hn]

theorem readyLens_getD {n i : Nat} :
    ((List.range n).map (readyLength m)).getD i 0 = if i < n then readyLength m i else 0 := by
  split
  · rw [List.getD_eq_getElem _ _ (by simpa using ‹i < n›)]
    simp
  · rw [List.getD_eq_default _ _ (by simpa using ‹¬i < n›)]

/-- The lengths of the own alphabet size make a valid table. -/
theorem buildValid_ready {h : HuffTable 8} (hw : h.wf .pt = true) :
    ∃ h', buildValid .pt (readyAlphabet m) (h.withLens .pt ((List.range (readyAlphabet m)).map (readyLength m))) = .ok h' ∧
      h'.tabValid = true ∧ h'.lenValid = true ∧ h'.nchar.toNat = readyAlphabet m ∧
      ∀ i, h'.getLen i = if i < readyAlphabet m then readyLength m i else 0 := by
  have hsum : kraftSum (fun i => ((List.range (readyAlphabet m)).map (readyLength m)).getD i 0) (readyAlphabet m) =
      65536 := by
    refine Eq.trans (kraftSum_congr fun i hi => ?_) (kraftSum_ready m)
    rw [readyLens_getD, if_pos hi]
  obtain ⟨h', hbuild, htv, hlv, hn, hget⟩ := buildValid_withLens (t := .pt) hw (by cases m <;> decide) (by simp)
    (ready_le m _) hsum
  exact ⟨h', hbuild, htv, hlv, hn, fun i => (hget i).trans (readyLens_getD m)⟩

/-- The lengths of any other alphabet size fail R193's check. -/
theorem buildTable_ready_ne {n : Nat} {h : HuffTable 8} (hn : n ≤ lenCount .pt) (hne : n ≠ readyAlphabet m) :
    buildTable .pt n (h.withLens .pt ((List.range n).map (readyLength m))) = .error .codeSpace := by
  have hget : ∀ i, i < n → (h.withLens .pt ((List.range n).map (readyLength m))).getLen i = readyLength m i :=
    fun i hi => by
      rw [getLen_withLens (t := .pt) (by simpa using hn) (ready_le m n), readyLens_getD, if_pos hi]
  refine buildTable_space (fun i hi => ?_) ?_
  · rw [hget i hi]
    exact (readyLength_bounds m i).2
  · rw [kraftSum_congr hget]
    exact kraftSum_ready_ne m hne

theorem exec_htReadyMade {c : BitVec 8} (he : s.estate ≠ .failed) (hl : Instr.WellFormed (.htReadyMade m c)) :
    exec (.htReadyMade m c) s = settle s (readyMade m c.toNat (issued s)) :=
  command_run hl (notInFailed_iff.mpr he)

/-- HT_BUILD PT of a complete code's lengths (R203). -/
theorem exec_htBuild_withLens {c : BitVec 9} {ls : List Nat} {h : HuffTable 8} (he : s.estate ≠ .failed)
    (hl : alphabetLegal .pt c.toNat = true) (hb : buildValid .pt c.toNat (s.tabPt.withLens .pt ls) = .ok h) :
    exec (.htBuild .pt c 0#9) { s with tabPt := s.tabPt.withLens .pt ls } = .next ({ s with tabPt := h }.ended []) :=
  exec_htBuild_ok (t := .pt) (s := { s with tabPt := s.tabPt.withLens .pt ls }) he
    (Bool.and_eq_true_iff.mpr ⟨hl, rfl⟩) rfl hb

/-- A failure after lengths have been written, and nothing else (R402, R403). -/
theorem failCommand_withLens_refusedAs (code : ErrCode) (ls : List Nat) :
    s.RefusedAs (State.failCommand code { issued s with tabPt := s.tabPt.withLens .pt ls }) code := by
  have h := failCommand_refusedAs code { s with tabPt := s.tabPt.withLens .pt ls }
  exact ⟨h.notBusy, h.errSet, h.firstCode, h.failed, h.noneValid, h.flags, h.hostRegs, h.checksums, h.counters, h.entry,
    h.reader, h.tableRegs, h.arenaRegs, h.windowMask, h.ports, h.agents⟩

end Ready

/-- Settles O33: R240's loop writes the lengths it lists (`fixedLens_ready`), a complete code at its own alphabet size and
at no other (`kraftSum_ready_ne`). -/
theorem readyMadeTables : Obligations.ReadyMadeTables := by
  unfold Obligations.ReadyMadeTables
  intro s m c he hl hw
  have hc : c.toNat ≤ lenCount .pt := lenCount_of_wellFormed hl
  have hbody := readyMade_withLens (s := issued s) m hw hc
  refine ⟨fun hown => ?_, fun hother => ?_⟩
  · obtain ⟨h, hbuild, htv, hlv, hn, hget⟩ := buildValid_ready m hw
    rw [← hown] at hbuild hn hget
    have hwide : (c.zeroExtend 9).toNat = c.toNat := by
      rw [BitVec.toNat_setWidth]
      omega
    have hready : readyMade m c.toNat (issued s) = .ok () ((issued s).setTab .pt h) := hbody.trans (build_ok hbuild)
    refine ⟨h, command_setsTab (t := .pt) he h hl hready, htv, hlv, BitVec.eq_of_toNat_eq hn, hget, ?_⟩
    rw [← hwide] at hbuild
    exact exec_htBuild_withLens he (hwide.symm ▸ hl) hbuild
  · have hready := hbody.trans (build_error (buildTable_ready_ne m hc hother))
    exact ⟨_, (exec_htReadyMade m he hl).trans (congrArg (settle s) hready), failCommand_withLens_refusedAs _ _⟩

end Sys2Proof.Proofs
end

section
/-! PROOFS. The bits of a stream as values, and lists of lengths read from it (for O35 and O37). -/

namespace Sys2Proof.Proofs

open Sys2Proof.Machine Sys2Proof.Laws

/-! ### The bits of a stream -/

section Bits

variable {r : Reader} {k : Nat}

theorem startsWith_cons {b : Bool} {bits : List Bool} :
    r.startsWith k (b :: bits) ↔ r.bit k = b ∧ r.startsWith (k + 1) bits := by
  refine ⟨fun h => ⟨h 0 (Nat.succ_pos _), fun j hj => ?_⟩, fun ⟨hfirst, hrest⟩ j hj => ?_⟩
  · rw [Nat.add_assoc, Nat.add_comm 1 j]
    exact h (j + 1) (Nat.succ_lt_succ hj)
  · rcases j with _ | j
    · exact hfirst
    · rw [Nat.add_comm j 1, ← Nat.add_assoc, Nat.add_comm 1 j]
      exact hrest j (Nat.lt_of_succ_lt_succ hj)

theorem startsWith_singleton {b : Bool} : r.startsWith k [b] ↔ r.bit k = b :=
  startsWith_cons.trans (and_iff_left fun j hj => absurd hj (Nat.not_lt_zero j))

theorem startsWith_append {xs ys : List Bool} :
    r.startsWith k (xs ++ ys) ↔ r.startsWith k xs ∧ r.startsWith (k + xs.length) ys := by
  induction xs generalizing k with
  | nil => exact ⟨fun h => ⟨fun j hj => absurd hj (Nat.not_lt_zero j), h⟩, fun h => h.2⟩
  | cons b xs ih =>
    rw [List.cons_append, startsWith_cons, ih, startsWith_cons, and_assoc, List.length_cons, Nat.add_assoc,
      Nat.add_comm 1]

theorem length_bitsOf : ∀ n v, (bitsOf n v).length = n
  | 0, _ => rfl
  | n + 1, v => congrArg (· + 1) (length_bitsOf n v)

/-- The bits of a value are read as that value (R152). -/
theorem bitsAt_of_startsWith {v : Nat} : ∀ {n k : Nat}, r.startsWith k (bitsOf n v) → r.bitsAt k n = v % 2 ^ n
  | 0, _, _ => (Nat.mod_one v).symm
  | n + 1, k, h => by
    obtain ⟨hbit, hrest⟩ := startsWith_cons.mp h
    rw [Reader.bitsAt, hbit, bitsAt_of_startsWith hrest, Nat.mod_pow_succ, ← Nat.toNat_testBit]
    cases v.testBit n <;> simp [Nat.add_comm]

/-- A read value's bits are the stream's, the first of them the most significant (R152). -/
theorem testBit_bitsAt : ∀ {n k j : Nat}, j < n → (r.bitsAt k n).testBit j = r.bit (k + (n - 1 - j))
  | n + 1, k, j, hj => by
    have hlow := bitsAt_lt r n (k + 1)
    rcases Nat.lt_succ_iff_lt_or_eq.mp hj with h | rfl
    · have hrest : (r.bitsAt k (n + 1)).testBit j = (r.bitsAt (k + 1) n).testBit j := by
        rw [Reader.bitsAt]
        split
        · exact Nat.testBit_two_pow_add_gt h _
        · rw [Nat.zero_add]
      rw [hrest, testBit_bitsAt h]
      exact congrArg r.bit (by omega)
    · have hnone : (r.bitsAt (k + 1) j).testBit j = false := Nat.testBit_lt_two_pow hlow
      rw [Reader.bitsAt, show k + (j + 1 - 1 - j) = k by omega]
      cases r.bit k
      · simpa using hnone
      · simp [Nat.testBit_two_pow_add_eq, hnone]

end Bits

/-! ### A computation that reads one value as given bits -/

/-- On a reader with nothing left to request, values up to `b` are read from these bits, and exactly those are consumed. -/
def ReadsAs (m : Eng Nat) (bits : Nat → List Bool) (b : Nat) : Prop :=
  ∀ (s : State) (l : Nat), l ≤ b → s.reader.drained → s.reader.pos.toNat + (bits l).length < 2 ^ 64 →
    s.reader.startsWith s.reader.pos.toNat (bits l) → m s = .ok l (s.skipped (bits l).length)

theorem getBits_reads {s : State} {n v : Nat} (hn : n ≤ 16) (hv : v < 2 ^ n) (hd : s.reader.drained)
    (hs : s.reader.startsWith s.reader.pos.toNat (bitsOf n v)) : getBits n s = .ok v (s.skipped n) := by
  have hpeek : s.reader.peek n = v := (bitsAt_of_startsWith hs).trans (Nat.mod_eq_of_lt hv)
  rw [getBits_drained hd hn, hpeek]

theorem readsAs_getBits {n : Nat} (hn : n ≤ 16) : ReadsAs (getBits n) (bitsOf n) (2 ^ n - 1) :=
  fun s l hl hd _ hs => by
    rw [length_bitsOf]
    exact getBits_reads hn (by have := Nat.two_pow_pos n; omega) hd hs

/-- One length of R229: a presence bit, and four bits of the length less one. -/
theorem readsAs_readTreeLength : ReadsAs readTreeLength treeLengthBits 16 := by
  intro s l hl hd hpos hs
  rw [treeLengthBits] at hpos hs ⊢
  split at hs
  next hzero =>
    have hbit : getBits 1 s = .ok 0 (s.skipped 1) := getBits_reads (by decide) (by decide) hd hs
    rw [readTreeLength, bind_of_ok hbit, if_pos hzero, hzero]
    rfl
  next hzero =>
    rw [if_neg hzero, List.length_cons, length_bitsOf] at hpos ⊢
    obtain ⟨hfirst, hrest⟩ := startsWith_cons.mp hs
    have hbit : getBits 1 s = .ok 1 (s.skipped 1) :=
      getBits_reads (by decide) (by decide) hd (startsWith_singleton.mpr hfirst)
    have hstep : (s.reader.advance 1).pos.toNat = s.reader.pos.toNat + 1 := advance_pos (by omega)
    have hbits : getBits 4 (s.skipped 1) = .ok (l - 1) ((s.skipped 1).skipped 4) :=
      getBits_reads (by decide) (by omega) hd (hstep.symm ▸ hrest)
    rw [readTreeLength, bind_of_ok hbit, if_pos rfl, bind_of_ok hbits, skipped_skipped, Nat.sub_add_cancel (by omega)]
    rfl

/-! ### One length of R221 -/

theorem unaryLen_zero_bit {w n : Nat} (h : w.testBit n = false) (c : Nat) (s : State) :
    unaryLen w (n + 1) c s = .ok c s := by
  rw [unaryLen, h]
  rfl

theorem unaryLen_one_bit {w n : Nat} (h : w.testBit n = true) (c : Nat) (s : State) :
    unaryLen w (n + 1) c s = if 16 < c + 1 then .error (.raise .lenRange) s else unaryLen w n (c + 1) s := by
  rw [unaryLen, if_pos h]
  split <;> rfl

theorem unaryLen_reads {w l : Nat} (hl : l ≤ 16) (s : State) : ∀ {d n c : Nat}, c + d = l → d < n →
    (∀ i, i < d → w.testBit (n - 1 - i) = true) → w.testBit (n - 1 - d) = false → unaryLen w n c s = .ok l s
  | 0, n + 1, c, hc, _, _, hend => hc ▸ unaryLen_zero_bit hend c s
  | d + 1, n + 1, c, hc, hd, hones, hend => by
    rw [unaryLen_one_bit (n := n) (hones 0 (Nat.succ_pos d)), if_neg (by omega)]
    refine unaryLen_reads hl s (by omega) (Nat.lt_of_succ_lt_succ hd) (fun i hi => ?_) ?_
    · rw [← hones (i + 1) (Nat.succ_lt_succ hi)]
      exact congrArg w.testBit (by omega)
    · rw [← hend]
      exact congrArg w.testBit (by omega)

/-- A unary part that makes the length pass 16 (R221). -/
theorem unaryLen_long {w : Nat} (s : State) : ∀ {d n c : Nat}, c + d = 16 → d < n →
    (∀ i, i ≤ d → w.testBit (n - 1 - i) = true) → unaryLen w n c s = .error (.raise .lenRange) s
  | 0, n + 1, c, hc, _, hones => by rw [unaryLen_one_bit (n := n) (hones 0 le_rfl), if_pos (by omega)]
  | d + 1, n + 1, c, hc, hd, hones => by
    rw [unaryLen_one_bit (n := n) (hones 0 (Nat.zero_le _)), if_neg (by omega)]
    refine unaryLen_long s (by omega) (Nat.lt_of_succ_lt_succ hd) fun i hi => ?_
    rw [← hones (i + 1) (Nat.succ_le_succ hi)]
    exact congrArg w.testBit (by omega)

/-- The bits of a look-ahead of 16 after its first three. -/
theorem peek_unary_bit {r : Reader} {bits : List Bool} {i : Nat} {b : Bool} (hs : r.startsWith r.pos.toNat bits)
    (hi : i < 13) (hb : bits[3 + i]? = some b) : (r.peek 16).testBit (13 - 1 - i) = b := by
  obtain ⟨hlen, hget⟩ := List.getElem?_eq_some_iff.mp hb
  rw [Reader.peek, testBit_bitsAt (by omega), show 16 - 1 - (13 - 1 - i) = 3 + i by omega, hs (3 + i) hlen,
    List.getD_eq_getElem _ _ hlen, hget]

theorem readsAs_readPtLength : ReadsAs readPtLength ptLengthBits 16 := by
  intro s l hl hd hpos hs
  rcases Nat.lt_or_ge l 7 with hshort | hlong
  · rw [ptLengthBits, if_pos hshort] at hs ⊢
    have hpeek : s.reader.peek 3 = l := (bitsAt_of_startsWith hs).trans (Nat.mod_eq_of_lt (by omega))
    have hgiven : (pure (s.reader.peek 3) : Eng Nat) s = .ok l s := hpeek ▸ rfl
    rw [readPtLength, bind_of_ok (eng_get s), if_neg (by omega), bind_of_ok hgiven]
    dsimp only
    rw [if_pos hshort, bind_of_ok (consume_drained hd 3), length_bitsOf]
    rfl
  · rw [ptLengthBits, if_neg (Nat.not_lt.mpr hlong)] at hs ⊢
    have hpeek : s.reader.peek 3 = 7 := by
      obtain ⟨hthree, -⟩ := startsWith_append.mp (startsWith_append.mp hs).1
      exact bitsAt_of_startsWith (v := 7) hthree
    have hunary : unaryLen (s.reader.peek 16) 13 7 s = .ok l s := by
      refine unaryLen_reads hl s (d := l - 7) (by omega) (by omega) (fun i hi => ?_) ?_
      · exact peek_unary_bit hs (by omega) (by simp [List.getElem?_append, List.getElem?_cons, hi])
      · exact peek_unary_bit hs (by omega) (by simp [Nat.add_comm 3])
    have hlength : ([true, true, true] ++ List.replicate (l - 7) true ++ [false]).length = l - 3 := by
      simp
      omega
    rw [readPtLength, bind_of_ok (eng_get s), if_pos hpeek, bind_of_ok hunary]
    dsimp only
    rw [if_neg (Nat.not_lt.mpr hlong), bind_of_ok (consume_drained hd _), hlength]
    rfl

/-- Thirteen ones are no length (R221). -/
theorem readPtLength_long {s : State} (hs : s.reader.startsWith s.reader.pos.toNat (List.replicate 13 true)) :
    readPtLength s = .error (.raise .lenRange) s := by
  have hpeek : s.reader.peek 3 = 7 :=
    bitsAt_of_startsWith (v := 7) (startsWith_append (xs := bitsOf 3 7) (ys := List.replicate 10 true).mp hs).1
  have hunary : unaryLen (s.reader.peek 16) 13 7 s = .error (.raise .lenRange) s :=
    unaryLen_long s (d := 9) rfl (by omega) fun i hi => peek_unary_bit hs (by omega) (by rw [List.getElem?_replicate, if_pos (by omega)])
  rw [readPtLength, bind_of_ok (eng_get s), if_pos hpeek, eng_bind, hunary]

end Sys2Proof.Proofs
end

section
/-! PROOFS. NS_READ_PT with a count above 0 (O35): lists of lengths written as they are read, and the loop of R221. -/

namespace Sys2Proof.Proofs

open Sys2Proof.Machine Sys2Proof.Laws

/-! ### Lengths written one after the other -/

/-- The length array after these lengths have been written from element `i` on, one after the other. -/
def writeLens (t : Table) : (i : Nat) → List Nat → List (Nat × BitVec 5) → List (Nat × BitVec 5)
  | _, [], m => m
  | i, l :: ls, m => writeLens t (i + 1) ls (cellWrite (lenCount t) 0#5 m i (heldLen l))

theorem cellWrite_eq_putLens {t : Table} {m : List (Nat × BitVec 5)} (hw : cellsWf (lenCount t) 0#5 m = true)
    (i l : Nat) : cellWrite (lenCount t) 0#5 m i (heldLen l) = putLens t i [l] m :=
  congrArg HuffTable.len (setLen_eq_putLens (w := 1) (h := ⟨m, [], [], [], 0#1, 0#1, false, false⟩) hw l)

theorem writeLens_eq_putLens {t : Table} : ∀ {ls : List Nat} {i : Nat} {m : List (Nat × BitVec 5)},
    cellsWf (lenCount t) 0#5 m = true → writeLens t i ls m = putLens t i ls m
  | [], _, _, hw => (putLens_nil hw).symm
  | l :: ls, i, m, hw => by
    rw [writeLens, cellWrite_eq_putLens hw, writeLens_eq_putLens (putLens_wf _ _ _ _)]
    exact putLens_append [l] ls

theorem writeLens_append (t : Table) (ks : List Nat) : ∀ (ls : List Nat) (i : Nat) (m : List (Nat × BitVec 5)),
    writeLens t i (ls ++ ks) m = writeLens t (i + ls.length) ks (writeLens t i ls m)
  | [], _, _ => rfl
  | l :: ls, i, m => by
    rw [List.cons_append, writeLens, writeLens_append t ks ls (i + 1), writeLens, List.length_cons, Nat.add_assoc,
      Nat.add_comm 1]

theorem skipped_eq_tabRead (t : Table) (s : State) (k : Nat) : s.skipped k = tabRead t s k (s.tab t).len := by
  cases t <;> rfl

theorem skipped_tabRead (t : Table) (s : State) (j k : Nat) (m : List (Nat × BitVec 5)) :
    (tabRead t s j m).skipped k = tabRead t s (j + k) m := by
  rw [tabRead, skipped_setTab, skipped_skipped]
  rfl

theorem setLen_tabRead (t : Table) (s : State) (k i l : Nat) (m : List (Nat × BitVec 5)) :
    setLen t i l (tabRead t s k m) = .ok () (tabRead t s k (writeLens t i [l] m)) := by
  rw [setLen, eng_modify, tabRead_tab, tabRead, setTab_setTab]
  rfl

theorem zeroLens_tabRead {t : Table} {m : List (Nat × BitVec 5)} (hw : cellsWf (lenCount t) 0#5 m = true) (s : State)
    (k i n : Nat) : zeroLens t i n (tabRead t s k m) = .ok () (tabRead t s k (putLens t i (List.replicate n 0) m)) := by
  rw [zeroLens, eng_modify, tabRead_tab, zeroLens_eq_putLens hw, tabRead, setTab_setTab]
  rfl

/-- What ends a reader of lengths, on lengths that fit the RAM's 5 bits. -/
theorem closeLens_tabRead {t : Table} {s : State} {ls : List Nat} (k c : Nat) (m : List (Nat × BitVec 5))
    (hl : ∀ l ∈ ls, l ≤ 31) :
    closeLens t ls.length c (tabRead t s k (putLens t 0 ls m)) =
      build t c ((s.skipped k).setTab t ((s.tab t).withLens t ls)) := by
  rw [closeLens, bind_of_ok (zeroLens_tabRead (putLens_wf _ _ _ _) s k _ _), putLens_rest, markLens,
    bind_of_ok (eng_modify _ _), tabRead_tab, tabRead, setTab_setTab]
  exact congrArg (fun h => build t c ((s.skipped k).setTab t h)) (heldLens_eq_withLens (h := s.tab t) hl)

/-- HT_BUILD by what BuildTable does (R203). -/
theorem exec_htBuild {s : State} {t : Table} {c : BitVec 9} (he : s.estate ≠ .failed)
    (hl : alphabetLegal t c.toNat = true) (hv : (s.tab t).lenValid = true) :
    exec (.htBuild t c 0#9) s = settle s (build t c.toNat (issued s)) := by
  have hlegal : Instr.WellFormed (.htBuild t c 0#9) := Bool.and_eq_true_iff.mpr ⟨hl, rfl⟩
  rw [← issued_tab] at hv
  exact (command_run (s := s) hlegal (notInFailed_iff.mpr he)).trans
    (congrArg (settle s) (bind_of_ok (s := issued s) (eng_require_true hv)))

/-- The build that ends a reader of lengths is HT_BUILD's (R203). -/
theorem settle_build_withLens {s : State} {t : Table} {c : BitVec 9} (he : s.estate ≠ .failed)
    (hl : alphabetLegal t c.toNat = true) (k : Nat) (ls : List Nat) :
    settle s (build t c.toNat (((issued s).skipped k).setTab t ((s.tab t).withLens t ls))) =
      exec (.htBuild t c 0#9) ((s.skipped k).setTab t ((s.tab t).withLens t ls)) := by
  rw [exec_htBuild (by rwa [setTab_estate]) hl (by rw [tab_setTab]; rfl)]
  exact (settle_build _ _ _ _ _).trans
    (congrArg (fun u => settle _ (build t c.toNat u)) (issued_setTab (s.skipped k) t _))

/-- A value read in the middle of a table's reader. -/
theorem ReadsAs.within {m : Eng Nat} {bits : Nat → List Bool} {b : Nat} (h : ReadsAs m bits b) {s : State} {l j : Nat}
    (hl : l ≤ b) (hd : s.reader.drained) (hpos : s.reader.pos.toNat + (j + (bits l).length) < 2 ^ 64)
    (hs : s.reader.startsWith (s.reader.pos.toNat + j) (bits l)) (t : Table) (cells : List (Nat × BitVec 5)) :
    m (tabRead t s j cells) = .ok l (tabRead t s (j + (bits l).length) cells) := by
  have hstep : (s.reader.advance j).pos.toNat = s.reader.pos.toNat + j := advance_pos (by omega)
  have hread := h (tabRead t s j cells) l hl
  rw [tabRead_reader, hstep, skipped_tabRead] at hread
  exact hread hd (by omega) hs

/-! ### The loop of R221 -/

theorem readPtLengths_done {nn n i : Nat} (special : Option Nat) (h : n ≤ i) (s : State) :
    ∀ turns, readPtLengths nn n special turns i s = .ok i s
  | 0 => rfl
  | _ + 1 => congrFun (if_neg (Nat.not_lt.mpr h)) s

section Loop

variable {s : State} {nn n : Nat} {special : Option Nat} (hd : s.reader.drained)

include hd

/-- One turn that the special index does not follow. -/
theorem readPtLengths_turn {i l j : Nat} (turns : Nat) (hi : i < n) (hl : l ≤ 16) (hspecial : special ≠ some (i + 1))
    (hpos : s.reader.pos.toNat + (j + (ptLengthBits l).length) < 2 ^ 64)
    (hs : s.reader.startsWith (s.reader.pos.toNat + j) (ptLengthBits l)) (m : List (Nat × BitVec 5)) :
    readPtLengths nn n special (turns + 1) i (tabRead .pt s j m) =
      readPtLengths nn n special turns (i + 1)
        (tabRead .pt s (j + (ptLengthBits l).length) (writeLens .pt i [l] m)) := by
  rw [readPtLengths, if_pos hi, bind_of_ok (readsAs_readPtLength.within hl hd hpos hs .pt m),
    bind_of_ok (setLen_tabRead _ _ _ _ _ _), if_neg hspecial]

/-- The turns that read these lengths, none of which the special index follows. -/
theorem readPtLengths_reads (more : Nat) : ∀ (ls : List Nat) (i j : Nat) (m : List (Nat × BitVec 5)),
    i + ls.length ≤ max n i → (∀ l ∈ ls, l ≤ 16) → (∀ x, i < x → x ≤ i + ls.length → special ≠ some x) →
    s.reader.pos.toNat + (j + (ls.flatMap ptLengthBits).length) < 2 ^ 64 →
    s.reader.startsWith (s.reader.pos.toNat + j) (ls.flatMap ptLengthBits) →
    readPtLengths nn n special (ls.length + more) i (tabRead .pt s j m) =
      readPtLengths nn n special more (i + ls.length)
        (tabRead .pt s (j + (ls.flatMap ptLengthBits).length) (writeLens .pt i ls m))
  | [], i, j, m, _, _, _, _, _ => by simp [writeLens]
  | l :: ls, i, j, m, hn, hl, hspecial, hpos, hs => by
    rw [List.flatMap_cons, List.length_append] at hpos
    rw [List.flatMap_cons, startsWith_append] at hs
    rw [List.length_cons] at hn hspecial
    obtain ⟨hfirst, hrest⟩ := hs
    obtain ⟨hl, hls⟩ := List.forall_mem_cons.mp hl
    have hturn := readPtLengths_turn (nn := nn) (n := n) (special := special) hd (ls.length + more) (by omega) hl
      (hspecial (i + 1) (by omega) (by omega)) (by omega) hfirst m
    have hloop := readPtLengths_reads more ls (i + 1) (j + (ptLengthBits l).length) (writeLens .pt i [l] m) (by omega)
      hls (fun x hlo hhi => hspecial x (by omega) (by omega)) (by omega) (by rwa [← Nat.add_assoc])
    rw [List.length_cons, Nat.add_right_comm, hturn, hloop, List.flatMap_cons, List.length_append, Nat.add_assoc j,
      Nat.add_assoc i, Nat.add_comm 1]
    rfl

end Loop

/-! ### The count and the loop -/

section Count

variable {s : State} {c w n : Nat} {special : Option Nat} (hd : s.reader.drained) (hw : w ≤ 16)

include hd hw

/-- `ReadPtLen` with a count of the alphabet (R221). -/
theorem readPtLen_count (hpos : 0 < n) (hfits : n ≤ c) (hwide : n < 2 ^ w)
    (hs : s.reader.startsWith s.reader.pos.toNat (bitsOf w n)) :
    readPtLen c w special s = (do
      let i ← readPtLengths c n special n 0
      closeLens .pt i c) (tabRead .pt s w s.tabPt.len) := by
  have hover : decide (c < n) = false := decide_eq_false (Nat.not_lt.mpr hfits)
  rw [readPtLen, bind_of_ok (getBits_reads hw hwide hd hs), if_neg hpos.ne', hover,
    bind_of_ok (eng_raiseIf_false _ _), skipped_eq_tabRead .pt]
  rfl

/-- The lengths of a stream, without the special index: the build of them (R221). -/
theorem readPtLen_reads {ls : List Nat} (hcells : cellsWf (lenCount .pt) 0#5 s.tabPt.len = true) (hne : 0 < ls.length)
    (hfits : ls.length ≤ c) (hwide : ls.length < 2 ^ w) (hl : ∀ l ∈ ls, l ≤ 16)
    (hspecial : ∀ x, 0 < x → x ≤ ls.length → special ≠ some x)
    (hpos : s.reader.pos.toNat + (bitsOf w ls.length ++ ls.flatMap ptLengthBits).length < 2 ^ 64)
    (hs : s.reader.startsWith s.reader.pos.toNat (bitsOf w ls.length ++ ls.flatMap ptLengthBits)) :
    readPtLen c w special s = build .pt c
      ((s.skipped (bitsOf w ls.length ++ ls.flatMap ptLengthBits).length).setTab .pt (s.tabPt.withLens .pt ls)) := by
  rw [List.length_append, length_bitsOf] at hpos ⊢
  obtain ⟨hcount, hlens⟩ := startsWith_append.mp hs
  rw [length_bitsOf] at hlens
  have hloop := readPtLengths_reads (nn := c) (n := ls.length) (special := special) hd 0 ls 0 w s.tabPt.len (by omega) hl
    (fun x hlo hhi => hspecial x hlo (by omega)) hpos hlens
  rw [Nat.zero_add, Nat.add_zero, writeLens_eq_putLens hcells] at hloop
  rw [readPtLen_count hd hw hne hfits hwide hcount, eng_bind, hloop]
  exact closeLens_tabRead (t := .pt) _ c _ fun l hm => (hl l hm).trans (by decide)

/-- A length that passes 16 (R221). -/
theorem readPtLen_long {ls : List Nat} (hlen : ls.length < n) (hfits : n ≤ c) (hwide : n < 2 ^ w)
    (hl : ∀ l ∈ ls, l ≤ 16) (hpos : s.reader.pos.toNat + (w + (ls.flatMap ptLengthBits).length + 13) < 2 ^ 64)
    (hs : s.reader.startsWith s.reader.pos.toNat
      (bitsOf w n ++ ls.flatMap ptLengthBits ++ List.replicate 13 true)) :
    readPtLen c w none s = .error (.raise .lenRange)
      (tabRead .pt s (w + (ls.flatMap ptLengthBits).length) (writeLens .pt 0 ls s.tabPt.len)) := by
  obtain ⟨hhead, hones⟩ := startsWith_append.mp hs
  obtain ⟨hcount, hlens⟩ := startsWith_append.mp hhead
  rw [List.length_append, length_bitsOf] at hones
  rw [length_bitsOf] at hlens
  obtain ⟨turns, rfl⟩ : ∃ turns, n = ls.length + (turns + 1) := ⟨n - ls.length - 1, by omega⟩
  have hloop := readPtLengths_reads (nn := c) (n := ls.length + (turns + 1)) (special := none) hd (turns + 1) ls 0 w
    s.tabPt.len (by omega) hl (fun _ _ _ => by simp) (by omega) hlens
  have hstep : (s.reader.advance (w + (ls.flatMap ptLengthBits).length)).pos.toNat =
      s.reader.pos.toNat + (w + (ls.flatMap ptLengthBits).length) := advance_pos (by omega)
  have hlong := readPtLength_long (s := tabRead .pt s (w + (ls.flatMap ptLengthBits).length)
    (writeLens .pt 0 ls s.tabPt.len)) (by
      rw [tabRead_reader]
      exact hstep.symm ▸ hones)
  rw [Nat.zero_add] at hloop
  rw [readPtLen_count hd hw (by omega) hfits hwide hcount, eng_bind, hloop, readPtLengths, if_pos hlen, eng_bind, hlong]

end Count

/-! ### The run of zeros after the special index -/

section Run

variable {s : State} {c n r : Nat} (hd : s.reader.drained) (hr : r < 4)

include hd hr

/-- The turn that the special index follows: the run is checked before it is written (R221). -/
theorem readPtLengths_run {i l j : Nat} (turns : Nat) (hi : i < n) (hl : l ≤ 16)
    (hpos : s.reader.pos.toNat + (j + (ptLengthBits l).length + 2) < 2 ^ 64)
    (hs : s.reader.startsWith (s.reader.pos.toNat + j) (ptLengthBits l ++ bitsOf 2 r)) (m : List (Nat × BitVec 5)) :
    readPtLengths c n (some (i + 1)) (turns + 1) i (tabRead .pt s j m) = (do
      raiseIf (decide (c < i + 1 + r)) .indexOverflow
      zeroLens .pt (i + 1) r
      readPtLengths c n (some (i + 1)) turns (i + 1 + r))
        (tabRead .pt s (j + (ptLengthBits l).length + 2) (writeLens .pt i [l] m)) := by
  obtain ⟨hlength, hrun⟩ := startsWith_append.mp hs
  have hbits := (readsAs_getBits (n := 2) (by decide)).within (l := r) (j := j + (ptLengthBits l).length) (by omega) hd
    (by rwa [length_bitsOf]) (by rwa [← Nat.add_assoc]) .pt (writeLens .pt i [l] m)
  rw [length_bitsOf] at hbits
  rw [readPtLengths, if_pos hi, bind_of_ok (readsAs_readPtLength.within hl hd (by omega) hlength .pt m),
    bind_of_ok (setLen_tabRead _ _ _ _ _ _), if_pos rfl, bind_of_ok hbits]

/-- The turns up to the special index. -/
theorem readPtLengths_upTo_run {before : List Nat} {j : Nat} (more : Nat) (hne : before ≠ []) (hn : before.length ≤ n)
    (hl : ∀ l ∈ before, l ≤ 16) (hpos : s.reader.pos.toNat + (j + (before.flatMap ptLengthBits).length + 2) < 2 ^ 64)
    (hs : s.reader.startsWith (s.reader.pos.toNat + j) (before.flatMap ptLengthBits ++ bitsOf 2 r))
    (m : List (Nat × BitVec 5)) :
    readPtLengths c n (some before.length) (before.length + more) 0 (tabRead .pt s j m) = (do
      raiseIf (decide (c < before.length + r)) .indexOverflow
      zeroLens .pt before.length r
      readPtLengths c n (some before.length) more (before.length + r))
        (tabRead .pt s (j + (before.flatMap ptLengthBits).length + 2) (writeLens .pt 0 before m)) := by
  obtain ⟨init, l, rfl⟩ := List.eq_nil_or_concat' before |>.resolve_left hne
  simp only [List.length_append, List.length_singleton, List.flatMap_append, List.flatMap_singleton, List.append_assoc]
    at hn hpos hs ⊢
  obtain ⟨hinit, hlast⟩ := startsWith_append.mp hs
  rw [← Nat.add_assoc] at hpos ⊢
  have hloop := readPtLengths_reads (nn := c) (n := n) (special := some (init.length + 1)) hd (1 + more) init 0 j m
    (by omega) (fun x hx => hl x (List.mem_append_left _ hx)) (fun x hlo hhi => by simp; omega) (by omega) hinit
  have hturn := readPtLengths_run (c := c) (n := n) (i := init.length) (l := l)
    (j := j + (init.flatMap ptLengthBits).length) hd hr more (by omega) (hl l (by simp)) (by omega)
    (by rwa [← Nat.add_assoc]) (writeLens .pt 0 init m)
  rw [Nat.zero_add, Nat.add_comm 1 more] at hloop
  rw [Nat.add_right_comm, Nat.add_assoc, hloop, hturn, writeLens_append, Nat.zero_add]

end Run

/-- `putLens_append` from the first element on. -/
theorem putLens_after (t : Table) (ls ks : List Nat) (m : List (Nat × BitVec 5)) :
    putLens t ls.length ks (putLens t 0 ls m) = putLens t 0 (ls ++ ks) m := by
  simpa using putLens_append (t := t) (i := 0) (m := m) ls ks

section ReadRun

variable {s : State} {c w n r : Nat} {before : List Nat} (hd : s.reader.drained) (hw : w ≤ 16) (hr : r < 4)
  (hne : before ≠ []) (hn : before.length ≤ n) (hfits : n ≤ c) (hwide : n < 2 ^ w) (hl : ∀ l ∈ before, l ≤ 16)

include hd hw hr hne hn hfits hwide hl

/-- `ReadPtLen` up to the run of zeros (R221). -/
theorem readPtLen_upTo_run (hpos : s.reader.pos.toNat + (w + (before.flatMap ptLengthBits).length + 2) < 2 ^ 64)
    (hs : s.reader.startsWith s.reader.pos.toNat (bitsOf w n ++ (before.flatMap ptLengthBits ++ bitsOf 2 r))) :
    readPtLen c w (some before.length) s = (do
      raiseIf (decide (c < before.length + r)) .indexOverflow
      zeroLens .pt before.length r
      let i ← readPtLengths c n (some before.length) (n - before.length) (before.length + r)
      closeLens .pt i c)
        (tabRead .pt s (w + (before.flatMap ptLengthBits).length + 2) (writeLens .pt 0 before s.tabPt.len)) := by
  obtain ⟨hcount, hrest⟩ := startsWith_append.mp hs
  rw [length_bitsOf] at hrest
  have hloop := readPtLengths_upTo_run (c := c) (n := n) hd hr (n - before.length) hne hn hl hpos hrest s.tabPt.len
  rw [Nat.add_sub_cancel' hn] at hloop
  have hpositive : 0 < n := (List.length_pos_iff.mpr hne).trans_le hn
  rw [readPtLen_count hd hw hpositive hfits hwide hcount, eng_bind, hloop, ← eng_bind]
  simp only [bind_assoc]

/-- A run of zeros past the alphabet (R221). -/
theorem readPtLen_overRun (hover : c < before.length + r)
    (hpos : s.reader.pos.toNat + (w + (before.flatMap ptLengthBits).length + 2) < 2 ^ 64)
    (hs : s.reader.startsWith s.reader.pos.toNat (bitsOf w n ++ (before.flatMap ptLengthBits ++ bitsOf 2 r))) :
    readPtLen c w (some before.length) s = .error (.raise .indexOverflow)
      (tabRead .pt s (w + (before.flatMap ptLengthBits).length + 2) (writeLens .pt 0 before s.tabPt.len)) := by
  rw [readPtLen_upTo_run hd hw hr hne hn hfits hwide hl hpos hs, decide_eq_true hover]
  rfl

/-- The lengths of a stream with a run of zeros: the build of them (R221). -/
theorem readPtLen_run {after : List Nat} (hcells : cellsWf (lenCount .pt) 0#5 s.tabPt.len = true)
    (hafter : after.length = n - (before.length + r)) (hrun : before.length + r ≤ c) (hl' : ∀ l ∈ after, l ≤ 16)
    (hpos : s.reader.pos.toNat + (w + (before.flatMap ptLengthBits).length + 2 + (after.flatMap ptLengthBits).length) <
      2 ^ 64)
    (hs : s.reader.startsWith s.reader.pos.toNat
      (bitsOf w n ++ (before.flatMap ptLengthBits ++ bitsOf 2 r) ++ after.flatMap ptLengthBits)) :
    readPtLen c w (some before.length) s = build .pt c
      ((s.skipped (w + (before.flatMap ptLengthBits).length + 2 + (after.flatMap ptLengthBits).length)).setTab .pt
        (s.tabPt.withLens .pt (before ++ List.replicate r 0 ++ after))) := by
  obtain ⟨hhead, htail⟩ := startsWith_append.mp hs
  simp only [List.length_append, length_bitsOf, ← Nat.add_assoc] at htail
  have hover : decide (c < before.length + r) = false := decide_eq_false (Nat.not_lt.mpr hrun)
  have hlength : (before ++ List.replicate r 0).length = before.length + r := by simp
  have hreads := readPtLengths_reads (nn := c) (n := n) (special := some before.length) hd
    (n - before.length - after.length) after (before.length + r)
    (w + (before.flatMap ptLengthBits).length + 2) (putLens .pt 0 (before ++ List.replicate r 0) s.tabPt.len)
    (by omega) hl' (fun x hlo _ => by simp; omega) hpos (by simpa only [← Nat.add_assoc] using htail)
  rw [Nat.add_sub_cancel' (by omega), writeLens_eq_putLens (putLens_wf _ _ _ _)] at hreads
  have hloop := hreads.trans (readPtLengths_done _ (by omega) _ _)
  rw [← hlength, putLens_after, ← List.length_append] at hloop
  rw [readPtLen_upTo_run hd hw hr hne hn hfits hwide hl (by omega) hhead, hover, bind_of_ok (eng_raiseIf_false _ _),
    writeLens_eq_putLens hcells, bind_of_ok (zeroLens_tabRead (putLens_wf _ _ _ _) _ _ _ _), putLens_after, ← hlength,
    bind_of_ok hloop]
  refine closeLens_tabRead (t := .pt) _ c _ fun l hm => ?_
  rcases List.mem_append.mp hm with hm | hm
  · rcases List.mem_append.mp hm with hm | hm
    · exact (hl l hm).trans (by decide)
    · exact (List.eq_of_mem_replicate hm).trans_le (by decide)
  · exact (hl' l hm).trans (by decide)

end ReadRun

/-! ### NS_READ_PT (O35) -/

theorem nsReadPt_alphabet {c : BitVec 9} {w x : BitVec 4} (hl : Instr.WellFormed (.nsReadPt c w x)) :
    alphabetLegal .pt c.toNat = true :=
  (Bool.and_eq_true_iff.mp (Bool.and_eq_true_iff.mp hl).1).1

theorem specialIndex_none {x : BitVec 4} {k n : Nat} (hx : x = 15#4 ∨ x = 0#4 ∨ n < x.toNat) (hlo : 0 < k)
    (hhi : k ≤ n) : specialIndex x ≠ some k := by
  rw [specialIndex]
  split
  · simp
  · rcases hx with h | rfl | h
    · contradiction
    · simp
      omega
    · simp
      omega

section Command

variable {s : State} {c : BitVec 9} {w x : BitVec 4} (he : s.estate ≠ .failed) (hr : s.reader.valid = true)
  (hd : s.reader.drained) (hl : Instr.WellFormed (.nsReadPt c w x))

include he hl

/-- The build of a complete code's lengths. -/
theorem nsReadPt_complete {ls : List Nat} (hram : s.ramsWf = true) (hfits : ls.length ≤ c.toNat)
    (hls : ∀ l ∈ ls, l ≤ 16) (hsum : kraftSum (fun i => ls.getD i 0) c.toNat = 65536) {k : Nat}
    (hexec : exec (.nsReadPt c w x) s =
      exec (.htBuild .pt c 0#9) { s.skipped k with tabPt := s.tabPt.withLens .pt ls }) :
    ∃ h, exec (.nsReadPt c w x) s = .next ({ s.skipped k with tabPt := h }.ended []) ∧
      h.tabValid = true ∧ h.lenValid = true ∧ h.nchar.toNat = c.toNat ∧ ∀ i, h.getLen i = ls.getD i 0 := by
  obtain ⟨h, hbuild, hfacts⟩ := buildValid_withLens (t := .pt) (ramsWf_tab hram .pt)
    (lenCount_of_wellFormed (nsReadPt_alphabet hl)) hfits hls hsum
  exact ⟨h, hexec.trans (exec_htBuild_withLens (s := s.skipped k) he (nsReadPt_alphabet hl) hbuild), hfacts⟩

include hr hd

theorem nsReadPt_reads {ls : List Nat} (hram : s.ramsWf = true) (hne : 0 < ls.length) (hfits : ls.length ≤ c.toNat)
    (hwide : ls.length < 2 ^ w.toNat) (hls : ∀ l ∈ ls, l ≤ 16) (hx : x = 15#4 ∨ x = 0#4 ∨ ls.length < x.toNat)
    (hpos : s.reader.pos.toNat + (bitsOf w.toNat ls.length ++ ls.flatMap ptLengthBits).length < 2 ^ 64)
    (hs : s.reader.startsWith s.reader.pos.toNat (bitsOf w.toNat ls.length ++ ls.flatMap ptLengthBits)) :
    exec (.nsReadPt c w x) s = exec (.htBuild .pt c 0#9)
      { s.skipped (bitsOf w.toNat ls.length ++ ls.flatMap ptLengthBits).length with
        tabPt := s.tabPt.withLens .pt ls } := by
  have hw : w.toNat ≤ 16 := (nsReadPt_width hl).trans (by decide)
  have hreads := readPtLen_reads (s := issued s) (special := specialIndex x) hd hw
    (table_wf_iff.mp (ramsWf_tab hram .pt)).1 hne hfits hwide hls (fun k => specialIndex_none hx) hpos hs
  exact (exec_nsReadPt he hr hl).trans ((congrArg (settle s) hreads).trans
    (settle_build_withLens (t := .pt) he (nsReadPt_alphabet hl) _ ls))

theorem nsReadPt_run {before after : List Nat} {r n : Nat} {bits : List Bool} (hram : s.ramsWf = true)
    (hx : specialIndex x = some before.length) (hne : before ≠ []) (hr4 : r < 4) (hn : before.length ≤ n)
    (hafter : after.length = n - (before.length + r)) (hfits : n ≤ c.toNat) (hwide : n < 2 ^ w.toNat)
    (hls : ∀ l ∈ before ++ after, l ≤ 16)
    (hbits : bits = bitsOf w.toNat n ++ before.flatMap ptLengthBits ++ bitsOf 2 r ++ after.flatMap ptLengthBits)
    (hpos : s.reader.pos.toNat + bits.length < 2 ^ 64) (hs : s.reader.startsWith s.reader.pos.toNat bits) :
    (before.length + r ≤ c.toNat →
      exec (.nsReadPt c w x) s = exec (.htBuild .pt c 0#9) { s.skipped bits.length with
        tabPt := s.tabPt.withLens .pt (before ++ List.replicate r 0 ++ after) }) ∧
    (c.toNat < before.length + r → ∃ t, exec (.nsReadPt c w x) s = .next t ∧ s.RefusedAs t .indexOverflow) := by
  have hw : w.toNat ≤ 16 := (nsReadPt_width hl).trans (by decide)
  obtain ⟨hbefore, hafter16⟩ := List.forall_mem_append.mp hls
  have hlength : bits.length =
      w.toNat + (before.flatMap ptLengthBits).length + 2 + (after.flatMap ptLengthBits).length := by
    rw [hbits]
    simp only [List.length_append, length_bitsOf]
  rw [hbits, List.append_assoc (bitsOf w.toNat n)] at hs
  rw [hlength] at hpos ⊢
  rw [exec_nsReadPt he hr hl, hx]
  refine ⟨fun hrun => ?_, fun hover => ?_⟩
  · have hreads := readPtLen_run (s := issued s) hd hw hr4 hne hn hfits hwide hbefore
      (table_wf_iff.mp (ramsWf_tab hram .pt)).1 hafter hrun hafter16 hpos hs
    exact (congrArg (settle s) hreads).trans (settle_build_withLens (t := .pt) he (nsReadPt_alphabet hl) _ _)
  · have hover := readPtLen_overRun (s := issued s) hd hw hr4 hne hn hfits hwide hbefore hover (by
      change s.reader.pos.toNat + _ < _
      omega) (startsWith_append.mp hs).1
    exact settle_tabRead .pt ⟨_, _, hover⟩

theorem nsReadPt_long {ls : List Nat} {n : Nat} {bits : List Bool} (hx : specialIndex x = none) (hlen : ls.length < n)
    (hfits : n ≤ c.toNat) (hwide : n < 2 ^ w.toNat) (hls : ∀ l ∈ ls, l ≤ 16)
    (hbits : bits = bitsOf w.toNat n ++ ls.flatMap ptLengthBits ++ List.replicate 13 true)
    (hpos : s.reader.pos.toNat + bits.length < 2 ^ 64) (hs : s.reader.startsWith s.reader.pos.toNat bits) :
    ∃ t, exec (.nsReadPt c w x) s = .next t ∧ s.RefusedAs t .lenRange := by
  have hw : w.toNat ≤ 16 := (nsReadPt_width hl).trans (by decide)
  rw [hbits] at hpos hs
  rw [List.length_append, List.length_append, length_bitsOf, List.length_replicate] at hpos
  rw [exec_nsReadPt he hr hl, hx]
  exact settle_tabRead .pt ⟨_, _, readPtLen_long (s := issued s) hd hw hlen hfits hwide hls hpos hs⟩

end Command

/-- Settles O35: the loop of R221 writes the lengths of the stream (`readPtLengths_reads`), with the run of zeros after the
special index (`readPtLengths_run`), and what follows it is the build of HT_BUILD. -/
theorem nsReadPtReadsLengths : Obligations.NsReadPtReadsLengths := by
  unfold Obligations.NsReadPtReadsLengths
  refine ⟨fun s c w ls he hr hd hl hram hfits hne hwide hls hsum hpos hs => ?_,
    fun s c w x ls bits he hr hd hl hram hne hfits hwide hls hx hbits hpos hs => ?_,
    fun s c w x before after r n bits he hr hd hl hram hx hx0 hlen hr4 hn hafter hfits hwide hls hbits hpos hs => ?_,
    fun s c w ls n bits he hr hd hl hlen hfits hwide hls hbits hpos hs => ?_⟩
  · have hls16 : ∀ l ∈ ls, l ≤ 16 := fun l hm => (hls l hm).trans (by decide)
    exact nsReadPt_complete he hl hram hfits hls16 hsum
      (nsReadPt_reads he hr hd hl hram hne hfits hwide hls16 (.inl rfl) hpos hs)
  · rw [hbits] at hpos hs ⊢
    exact nsReadPt_reads he hr hd hl hram hne hfits hwide hls hx hpos hs
  · have hne : before ≠ [] := fun h => hx0 (BitVec.eq_of_toNat_eq (hlen ▸ congrArg List.length h))
    exact nsReadPt_run he hr hd hl hram ((if_neg hx).trans (congrArg some hlen.symm)) hne hr4 hn hafter hfits hwide hls
      hbits hpos hs
  · exact nsReadPt_long he hr hd hl rfl hlen hfits hwide hls hbits hpos hs

end Sys2Proof.Proofs
end

section
/-! PROOFS. ST0_READ_C and ST0_READ_P (O37): the loop that R229 and R231 share, with its escape. -/

namespace Sys2Proof.Proofs

open Sys2Proof.Machine Sys2Proof.Laws

/-! ### The loop of R229 and R231 -/

/-- The loop of R229 and R231 over the lengths that `readOne` reads, with the escape of three lengths 1. -/
def lensLoop (t : Table) (readOne : Eng Nat) (escape : Eng Unit) : (left i : Nat) → Eng Bool
  | 0, _ => pure false
  | left + 1, i => do
    let l ← readOne
    setLen t i l
    let s ← get
    if decide (i = 2) && threeOnes t s then do
      escape
      pure true
    else lensLoop t readOne escape left (i + 1)

/-- The escape: a symbol of `w` bits, and its constant table. -/
def readConstant (t : Table) (w c : Nat) : Eng Unit := do
  let x ← getBits w
  htFill t c x

theorem readTreeLengths_eq : ∀ left i,
    readTreeLengths left i = lensLoop .c readTreeLength (readConstant .c 9 alphabetN1) left i
  | 0, _ => rfl
  | left + 1, i => by
    simp only [readTreeLengths, lensLoop, readConstant, bind_assoc, readTreeLengths_eq left]

theorem readPosLengths_eq : ∀ left i,
    readPosLengths left i = lensLoop .pt (getBits 4) (readConstant .pt 7 128) left i
  | 0, _ => rfl
  | left + 1, i => by
    simp only [readPosLengths, lensLoop, readConstant, bind_assoc, readPosLengths_eq left]

/-- The state `k` bits on in the stream, with these lengths written to table `t` from the first element on. -/
def lensAt (t : Table) (s : State) (k : Nat) (ls : List Nat) : State := tabRead t s k (putLens t 0 ls (s.tab t).len)

theorem lensAt_nil {t : Table} {s : State} (hw : cellsWf (lenCount t) 0#5 (s.tab t).len = true) (k : Nat) :
    lensAt t s k [] = s.skipped k := by
  rw [lensAt, putLens_nil hw, ← skipped_eq_tabRead]

theorem getLen_lensAt {t : Table} {s : State} {k : Nat} {ls : List Nat} (hn : ls.length ≤ lenCount t)
    (hl : ∀ l ∈ ls, l ≤ 16) {i : Nat} (hi : i < ls.length) : ((lensAt t s k ls).tab t).getLen i = ls.getD i 0 := by
  rw [lensAt, tabRead_tab, HuffTable.getLen]
  dsimp only
  rw [cellGet_putLens (hi.trans_le hn), if_pos (by omega), Nat.sub_zero, heldLen_toNat]
  exact Nat.min_eq_left ((getD_le hl i).trans (by decide))

/-- The escape's test, on the lengths written so far. -/
theorem threeOnes_lensAt {t : Table} {s : State} {k : Nat} {ls : List Nat} (hn : ls.length ≤ lenCount t)
    (hl : ∀ l ∈ ls, l ≤ 16) (hlen : ls.length = 3) : threeOnes t (lensAt t s k ls) = decide (ls = [1, 1, 1]) := by
  obtain ⟨x, y, z, rfl⟩ := List.length_eq_three.mp hlen
  rw [threeOnes, getLen_lensAt hn hl (show 0 < 3 by decide), getLen_lensAt hn hl (show 1 < 3 by decide),
    getLen_lensAt hn hl (show 2 < 3 by decide)]
  simp [Bool.and_assoc]

section Loop

variable {t : Table} {readOne : Eng Nat} {bits : Nat → List Bool} {b : Nat} (hone : ReadsAs readOne bits b) (hb : b ≤ 16)
  {s : State} (hd : s.reader.drained) (escape : Eng Unit)

include hone hb hd

/-- One turn: the length is written, and after the third the escape is tested. -/
theorem lensLoop_turn (left : Nat) {pre : List Nat} {l j : Nat} (hn : pre.length < lenCount t)
    (hpre : ∀ x ∈ pre, x ≤ 16) (hl : l ≤ b) (hpos : s.reader.pos.toNat + (j + (bits l).length) < 2 ^ 64)
    (hs : s.reader.startsWith (s.reader.pos.toNat + j) (bits l)) :
    lensLoop t readOne escape (left + 1) pre.length (lensAt t s j pre) =
      (if pre ++ [l] = [1, 1, 1] then do
        escape
        pure true
      else lensLoop t readOne escape left (pre ++ [l]).length) (lensAt t s (j + (bits l).length) (pre ++ [l])) := by
  have hread : readOne (lensAt t s j pre) = .ok l (tabRead t s (j + (bits l).length) (putLens t 0 pre (s.tab t).len)) :=
    hone.within hl hd hpos hs t _
  have hset : setLen t pre.length l (tabRead t s (j + (bits l).length) (putLens t 0 pre (s.tab t).len)) =
      .ok () (lensAt t s (j + (bits l).length) (pre ++ [l])) := by
    rw [setLen_tabRead, writeLens_eq_putLens (putLens_wf _ _ _ _), putLens_after]
    rfl
  have htest : (decide (pre.length = 2) && threeOnes t (lensAt t s (j + (bits l).length) (pre ++ [l]))) =
      decide (pre ++ [l] = [1, 1, 1]) := by
    have hlength : (pre ++ [l]).length = pre.length + 1 := List.length_append
    by_cases h2 : pre.length = 2
    · rw [threeOnes_lensAt (by omega) (by simpa [or_imp, forall_and] using ⟨hpre, hl.trans hb⟩) (by omega), decide_eq_true h2, Bool.true_and]
    · have hne : pre ++ [l] ≠ [1, 1, 1] := fun h => h2 (by simpa [hlength] using congrArg List.length h)
      rw [decide_eq_false h2, decide_eq_false hne, Bool.false_and]
  rw [lensLoop, bind_of_ok hread, bind_of_ok hset, bind_of_ok (eng_get _), htest, List.length_append]
  simp only [decide_eq_true_eq]
  rfl

/-- The loop over lengths whose first three are not all 1. -/
theorem lensLoop_reads : ∀ (ls pre : List Nat) (j : Nat), pre.length + ls.length ≤ lenCount t → (∀ x ∈ pre, x ≤ 16) →
    (∀ l ∈ ls, l ≤ b) → (pre ++ ls).take 3 ≠ [1, 1, 1] →
    s.reader.pos.toNat + (j + (ls.flatMap bits).length) < 2 ^ 64 →
    s.reader.startsWith (s.reader.pos.toNat + j) (ls.flatMap bits) →
    lensLoop t readOne escape ls.length pre.length (lensAt t s j pre) =
      .ok false (lensAt t s (j + (ls.flatMap bits).length) (pre ++ ls))
  | [], pre, j, _, _, _, _, _, _ => by
    rw [List.append_nil]
    rfl
  | l :: ls, pre, j, hn, hpre, hls, hplain, hpos, hs => by
    rw [List.flatMap_cons, List.length_append] at hpos
    rw [List.flatMap_cons, startsWith_append] at hs
    rw [List.length_cons] at hn
    obtain ⟨hfirst, hrest⟩ := hs
    obtain ⟨hl, hls⟩ := List.forall_mem_cons.mp hls
    have hsplit : pre ++ l :: ls = (pre ++ [l]) ++ ls := by simp
    have hgo : pre ++ [l] ≠ [1, 1, 1] := by
      rw [hsplit] at hplain
      intro h
      rw [h] at hplain
      exact hplain rfl
    have hloop := lensLoop_reads ls (pre ++ [l]) (j + (bits l).length) (by simp; omega)
      (by simpa [or_imp, forall_and] using ⟨hpre, hl.trans hb⟩) hls (hsplit ▸ hplain) (by omega)
      (by rwa [← Nat.add_assoc])
    rw [List.length_cons, lensLoop_turn hone hb hd escape _ (by omega) hpre hl (by omega) hfirst, if_neg hgo, hloop,
      List.flatMap_cons, List.length_append, Nat.add_assoc, hsplit]

/-- Three lengths 1: the escape. -/
theorem lensLoop_escape (left : Nat) (h3 : 3 ≤ lenCount t) (h1 : 1 ≤ b)
    (hpos : s.reader.pos.toNat + 3 * (bits 1).length < 2 ^ 64)
    (hs : s.reader.startsWith s.reader.pos.toNat (bits 1 ++ (bits 1 ++ bits 1))) :
    lensLoop t readOne escape (left + 3) 0 (lensAt t s 0 []) = (do
      escape
      pure true) (lensAt t s (3 * (bits 1).length) [1, 1, 1]) := by
  obtain ⟨hfirst, hrest⟩ := startsWith_append.mp hs
  obtain ⟨hsecond, hthird⟩ := startsWith_append.mp hrest
  rw [Nat.add_assoc] at hthird
  have hturn1 := lensLoop_turn hone hb hd escape (left + 2) (pre := []) (j := 0) (show 0 < lenCount t by omega) (by simp) h1
    (by omega) hfirst
  have hturn2 := lensLoop_turn hone hb hd escape (left + 1) (pre := [1]) (j := 0 + (bits 1).length)
    (show 1 < lenCount t by omega)
    (by simp) h1 (by omega) (by simpa using hsecond)
  have hturn3 := lensLoop_turn hone hb hd escape left (pre := [1, 1]) (j := 0 + (bits 1).length + (bits 1).length)
    (show 2 < lenCount t by omega) (by simp) h1 (by omega) (by simpa using hthird)
  have hbits : 0 + (bits 1).length + (bits 1).length + (bits 1).length = 3 * (bits 1).length := by omega
  rw [← hbits]
  exact hturn1.trans (hturn2.trans hturn3)

variable (hw : cellsWf (lenCount t) 0#5 (s.tab t).len = true)

include hw

/-- The reader on lengths without the escape: the build of them. -/
theorem lensLoop_closes {ls : List Nat} (hn : ls.length ≤ lenCount t) (hls : ∀ l ∈ ls, l ≤ b)
    (hplain : ls.take 3 ≠ [1, 1, 1]) (hpos : s.reader.pos.toNat + (ls.flatMap bits).length < 2 ^ 64)
    (hs : s.reader.startsWith s.reader.pos.toNat (ls.flatMap bits)) :
    (do
      let escaped ← lensLoop t readOne escape ls.length 0
      if escaped then pure () else closeLens t ls.length ls.length) s =
        build t ls.length ((s.skipped (ls.flatMap bits).length).setTab t ((s.tab t).withLens t ls)) := by
  have hloop := lensLoop_reads hone hb hd escape ls [] 0 (by simpa using hn) (by simp) hls hplain
    (by rwa [Nat.zero_add]) hs
  rw [lensAt_nil hw, skipped_zero, Nat.zero_add, List.nil_append] at hloop
  refine (bind_of_ok hloop).trans ?_
  exact closeLens_tabRead _ _ _ fun l hm => ((hls l hm).trans hb).trans (by decide)

/-- The reader on three lengths 1: the escape. -/
theorem lensLoop_escapes {c : Nat} (h3 : 3 ≤ c) (hc : c ≤ lenCount t) (h1 : 1 ≤ b)
    (hpos : s.reader.pos.toNat + 3 * (bits 1).length < 2 ^ 64)
    (hs : s.reader.startsWith s.reader.pos.toNat (bits 1 ++ (bits 1 ++ bits 1))) :
    (do
      let escaped ← lensLoop t readOne escape c 0
      if escaped then pure () else closeLens t c c) s = escape (lensAt t s (3 * (bits 1).length) [1, 1, 1]) := by
  obtain ⟨left, rfl⟩ : ∃ left, c = left + 3 := ⟨c - 3, by omega⟩
  have hloop := lensLoop_escape hone hb hd escape left (h3.trans hc) h1 hpos hs
  rw [lensAt_nil hw, skipped_zero] at hloop
  rw [eng_bind, hloop, eng_bind]
  cases escape (lensAt t s (3 * (bits 1).length) [1, 1, 1]) <;> rfl

end Loop

section Constant

variable {t : Table} {s : State} {k w c x : Nat} {ls : List Nat} (hd : s.reader.drained) (hw : w ≤ 16) (hx : x < 2 ^ w)
  (hpos : s.reader.pos.toNat + (k + w) < 2 ^ 64)
  (hs : s.reader.startsWith (s.reader.pos.toNat + k) (bitsOf w x))

include hd hw hx hpos hs

theorem getBits_lensAt : getBits w (lensAt t s k ls) =
    .ok x (tabRead t s (k + w) (putLens t 0 ls (s.tab t).len)) := by
  have hread := (readsAs_getBits hw).within (l := x) (j := k) (by omega) hd (by rwa [length_bitsOf]) hs t
    (putLens t 0 ls (s.tab t).len)
  rwa [length_bitsOf] at hread

theorem readConstant_ok (h : x < c) : readConstant t w c (lensAt t s k ls) =
    .ok () ((s.skipped (k + w)).setTab t (constantTable t c x (s.tab t))) := by
  rw [readConstant, bind_of_ok (getBits_lensAt hd hw hx hpos hs), htFill_ok h, tabRead_tab, tabRead, setTab_setTab]
  rfl

theorem readConstant_error (h : c ≤ x) : readConstant t w c (lensAt t s k ls) =
    .error (.raise .symbolRange) (tabRead t s (k + w) (putLens t 0 ls (s.tab t).len)) := by
  rw [readConstant, bind_of_ok (getBits_lensAt hd hw hx hpos hs), htFill_error h]

end Constant

/-! ### The two readers as the loop -/

theorem readTreeC_eq : readTreeC = (do
    let escaped ← lensLoop .c readTreeLength (readConstant .c 9 286) 286 0
    if escaped then pure () else closeLens .c 286 286) := by
  rw [readTreeC, readTreeLengths_eq]
  rfl

section ReadTreeP

variable {s : State} (hd : s.reader.drained)

include hd

theorem readTreeP_transmitted (hs : s.reader.bit s.reader.pos.toNat = true) : readTreeP s = (do
    let escaped ← lensLoop .pt (getBits 4) (readConstant .pt 7 128) 128 0
    if escaped then pure () else closeLens .pt 128 128) (s.skipped 1) := by
  have hsel : getBits 1 s = .ok 1 (s.skipped 1) := getBits_reads (by decide) (by decide) hd (startsWith_singleton.mpr hs)
  rw [readTreeP, bind_of_ok hsel, if_pos rfl, readPosLengths_eq]

theorem readTreeP_readyMade (hs : s.reader.bit s.reader.pos.toNat = false) :
    readTreeP s = readyMade .lh3 128 (s.skipped 1) := by
  have hsel : getBits 1 s = .ok 0 (s.skipped 1) := getBits_reads (by decide) (by decide) hd (startsWith_singleton.mpr hs)
  rw [readTreeP, bind_of_ok hsel, if_neg (by decide)]

end ReadTreeP

theorem length_treeLengthBits_le (l : Nat) : (treeLengthBits l).length ≤ 5 := by
  rw [treeLengthBits]
  split
  · decide
  · rw [List.length_cons, length_bitsOf]

theorem length_flatMap_le {bits : Nat → List Bool} {n : Nat} (h : ∀ l, (bits l).length ≤ n) (ls : List Nat) :
    (ls.flatMap bits).length ≤ ls.length * n := by
  rw [List.length_flatMap, ← List.length_map (f := fun l => (bits l).length), ← smul_eq_mul]
  refine List.sum_le_card_nsmul _ _ fun x hx => ?_
  obtain ⟨l, -, rfl⟩ := List.mem_map.mp hx
  exact h l

theorem length_flatMap_bitsOf (n : Nat) (ls : List Nat) : (ls.flatMap (bitsOf n)).length = ls.length * n := by
  simp [List.length_flatMap, length_bitsOf]

/-! ### The commands -/

section Commands

variable {s : State} (he : s.estate ≠ .failed) (hr : s.reader.valid = true) (hd : s.reader.drained)
  (hram : s.ramsWf = true) (hpos : s.reader.pos.toNat + 2000 < 2 ^ 64)

include he hr hd hram

theorem st0ReadP_readyMade (hs : s.reader.bit s.reader.pos.toNat = false) :
    ∃ h, exec .st0ReadP s = .next ({ s.skipped 1 with tabPt := h }.ended []) ∧ h.tabValid = true ∧
      h.lenValid = true ∧ h.nchar = 128#8 ∧ (∀ i, i < 128 → h.getLen i = readyLength .lh3 i) ∧
      exec (.htBuild .pt 128#9 0#9) { s.skipped 1 with
        tabPt := s.tabPt.withLens .pt ((List.range 128).map (readyLength .lh3)) } =
        .next ({ s.skipped 1 with tabPt := h }.ended []) := by
  have hwf : s.tabPt.wf .pt = true := ramsWf_tab hram .pt
  obtain ⟨h, hbuild, htv, hlv, hn, hget⟩ := buildValid_ready .lh3 hwf
  have hready : readyMade .lh3 128 ((issued s).skipped 1) = .ok () { (issued s).skipped 1 with tabPt := h } :=
    (readyMade_withLens (s := (issued s).skipped 1) .lh3 hwf le_rfl).trans (build_ok hbuild)
  refine ⟨h, ?_, htv, hlv, BitVec.eq_of_toNat_eq hn, fun i hi => (hget i).trans (if_pos hi),
    exec_htBuild_withLens (s := s.skipped 1) he (by decide) hbuild⟩
  rw [exec_st0ReadP he hr, readTreeP_readyMade (s := issued s) hd hs, hready]
  rfl

include hpos

theorem st0ReadC_builds {ls : List Nat} (hlen : ls.length = 286) (hls : ∀ l ∈ ls, l ≤ 16)
    (hplain : ls.take 3 ≠ [1, 1, 1]) (hs : s.reader.startsWith s.reader.pos.toNat (ls.flatMap treeLengthBits)) :
    exec .st0ReadC s = exec (.htBuild .c 286#9 0#9) { s.skipped (ls.flatMap treeLengthBits).length with
      tabC := s.tabC.withLens .c ls } := by
  have hshort := length_flatMap_le length_treeLengthBits_le ls
  have hclose := lensLoop_closes readsAs_readTreeLength le_rfl (s := issued s) hd (readConstant .c 9 286)
    (table_wf_iff.mp (ramsWf_tab hram .c)).1 (hlen.trans_le (by decide)) hls hplain (by
      change s.reader.pos.toNat + _ < _
      omega) hs
  rw [hlen, ← readTreeC_eq] at hclose
  rw [exec_st0ReadC he hr, hclose]
  exact settle_build_withLens (t := .c) (c := 286#9) he (by decide) _ ls

theorem st0ReadC_constant {x : Nat} (hx : x < 512) (hs : s.reader.startsWith s.reader.pos.toNat
    ((treeLengthBits 1 ++ (treeLengthBits 1 ++ treeLengthBits 1)) ++ bitsOf 9 x)) :
    (x < 286 → exec .st0ReadC s = .next ({ s.skipped 24 with tabC := constantTable .c 286 x s.tabC }.ended [])) ∧
      (286 ≤ x → ∃ t, exec .st0ReadC s = .next t ∧ s.RefusedAs t .symbolRange) := by
  obtain ⟨hones, hsym⟩ := startsWith_append.mp hs
  have hesc := lensLoop_escapes readsAs_readTreeLength le_rfl (s := issued s) hd (readConstant .c 9 286)
    (table_wf_iff.mp (ramsWf_tab hram .c)).1 (c := 286) (by decide) (by decide) (by decide) (by
      change s.reader.pos.toNat + 15 < _
      omega) hones
  rw [← readTreeC_eq] at hesc
  have hroom : s.reader.pos.toNat + (15 + 9) < 2 ^ 64 := by omega
  rw [exec_st0ReadC he hr, hesc]
  refine ⟨fun hin => ?_, fun hout => ?_⟩
  · exact congrArg (settle s) (readConstant_ok (s := issued s) (k := 15) hd (by decide) hx hroom hsym hin)
  · exact settle_tabRead .c
      ⟨_, _, readConstant_error (s := issued s) (k := 15) hd (by decide) hx hroom hsym hout⟩

theorem st0ReadP_builds {ls : List Nat} (hlen : ls.length = 128) (hls : ∀ l ∈ ls, l ≤ 15)
    (hplain : ls.take 3 ≠ [1, 1, 1]) (hs : s.reader.startsWith s.reader.pos.toNat (true :: ls.flatMap (bitsOf 4))) :
    exec .st0ReadP s =
      exec (.htBuild .pt 128#9 0#9) { s.skipped 513 with tabPt := s.tabPt.withLens .pt ls } := by
  have hbits : (ls.flatMap (bitsOf 4)).length = 512 := by rw [length_flatMap_bitsOf, hlen]
  have hstep : (s.reader.advance 1).pos.toNat = s.reader.pos.toNat + 1 := advance_pos (by omega)
  obtain ⟨hsel, hrest⟩ := startsWith_cons.mp hs
  have hclose := lensLoop_closes (readsAs_getBits (n := 4) (by decide)) (by decide) (s := (issued s).skipped 1) hd
    (readConstant .pt 7 128) (table_wf_iff.mp (ramsWf_tab hram .pt)).1 (hlen.trans_le (by decide)) hls hplain (by
      change (s.reader.advance 1).pos.toNat + _ < _
      omega) (hstep.symm ▸ hrest)
  rw [hlen, hbits, skipped_skipped] at hclose
  rw [exec_st0ReadP he hr, readTreeP_transmitted (s := issued s) hd hsel, hclose]
  exact settle_build_withLens (t := .pt) (c := 128#9) he (by decide) 513 ls

theorem st0ReadP_constant {x : Nat} (hx : x < 128) (hs : s.reader.startsWith s.reader.pos.toNat
    (true :: ((bitsOf 4 1 ++ (bitsOf 4 1 ++ bitsOf 4 1)) ++ bitsOf 7 x))) :
    exec .st0ReadP s = .next ({ s.skipped 20 with tabPt := constantTable .pt 128 x s.tabPt }.ended []) := by
  have hstep : (s.reader.advance 1).pos.toNat = s.reader.pos.toNat + 1 := advance_pos (by omega)
  obtain ⟨hsel, hrest⟩ := startsWith_cons.mp hs
  obtain ⟨hones, hsym⟩ := startsWith_append.mp hrest
  have hesc := lensLoop_escapes (readsAs_getBits (n := 4) (by decide)) (by decide) (s := (issued s).skipped 1) hd
    (readConstant .pt 7 128) (table_wf_iff.mp (ramsWf_tab hram .pt)).1 (c := 128) (by decide) (by decide) (by decide) (by
      change (s.reader.advance 1).pos.toNat + 12 < _
      omega) (hstep.symm ▸ hones)
  have hconst := readConstant_ok (t := .pt) (s := (issued s).skipped 1) (k := 12) (w := 7) (c := 128)
    (ls := [1, 1, 1]) hd (by decide) hx (by
      change (s.reader.advance 1).pos.toNat + (12 + 7) < _
      omega) (hstep.symm ▸ hsym) hx
  rw [skipped_skipped] at hconst
  rw [exec_st0ReadP he hr, readTreeP_transmitted (s := issued s) hd hsel]
  exact congrArg (settle s) (hesc.trans hconst)

end Commands

/-- Settles O37: R229 and R231 are one loop (`lensLoop`), which ends with the lengths written or at the escape of three
lengths 1; the selector 0 is R240's table. -/
theorem st0ReadersReadTables : Obligations.St0ReadersReadTables := by
  unfold Obligations.St0ReadersReadTables
  intro s he hr hd hram hpos
  exact ⟨fun ls hlen hls hplain hs => st0ReadC_builds he hr hd hram hpos hlen hls hplain hs,
    fun x hx hs => st0ReadC_constant he hr hd hram hpos hx hs,
    fun ls hlen hls hplain hs => st0ReadP_builds he hr hd hram hpos hlen hls hplain hs,
    fun x hx hs => st0ReadP_constant he hr hd hram hpos hx hs,
    fun hs => st0ReadP_readyMade he hr hd hram hs⟩

end Sys2Proof.Proofs
end

section
/-! PROOFS. Reads of the arena after each of its writes, and the nodes and symbols of a tree of the arena. -/

namespace Sys2Proof.Proofs

open Sys2Proof.Machine Sys2Proof.Laws

/-! ### Reads after writes

A write to one RAM leaves the others; in an arena in canonical form, a value that fits its element is read back. -/

section Reads

variable (a : Arena) (i j v : Nat) (c : Int)

@[simp] theorem getChild_setFreq : (a.setFreq i v).getChild j = a.getChild j := rfl
@[simp] theorem getParent_setFreq : (a.setFreq i v).getParent j = a.getParent j := rfl
@[simp] theorem getSNode_setFreq : (a.setFreq i v).getSNode j = a.getSNode j := rfl
@[simp] theorem getFreq_setChild : (a.setChild i c).getFreq j = a.getFreq j := rfl
@[simp] theorem getParent_setChild : (a.setChild i c).getParent j = a.getParent j := rfl
@[simp] theorem getSNode_setChild : (a.setChild i c).getSNode j = a.getSNode j := rfl
@[simp] theorem getFreq_setParent : (a.setParent i v).getFreq j = a.getFreq j := rfl
@[simp] theorem getChild_setParent : (a.setParent i v).getChild j = a.getChild j := rfl
@[simp] theorem getSNode_setParent : (a.setParent i v).getSNode j = a.getSNode j := rfl
@[simp] theorem getFreq_setSNode : (a.setSNode i v).getFreq j = a.getFreq j := rfl
@[simp] theorem getChild_setSNode : (a.setSNode i v).getChild j = a.getChild j := rfl
@[simp] theorem getParent_setSNode : (a.setSNode i v).getParent j = a.getParent j := rfl

@[simp] theorem getFreq_linkBelow : (a.linkBelow c i).getFreq j = a.getFreq j := by
  unfold Arena.linkBelow
  split <;> rfl

@[simp] theorem getChild_linkBelow : (a.linkBelow c i).getChild j = a.getChild j := by
  unfold Arena.linkBelow
  split <;> rfl

@[simp] theorem getFreq_swapBelow : (a.swapBelow i v).getFreq j = a.getFreq j := by simp [Arena.swapBelow]

@[simp] theorem getFreq_linkLeaf : (a.linkLeaf c i).getFreq j = a.getFreq j := by
  unfold Arena.linkLeaf
  split <;> rfl

@[simp] theorem getChild_linkLeaf : (a.linkLeaf c i).getChild j = a.getChild j := by
  unfold Arena.linkLeaf
  split <;> rfl

@[simp] theorem getParent_linkLeaf : (a.linkLeaf c i).getParent j = a.getParent j := by
  unfold Arena.linkLeaf
  split <;> rfl

end Reads

section Writes

variable {a : Arena} {i v : Nat} {c : Int} (hw : a.wf = true)

include hw

theorem getFreq_setFreq (hi : i < 884) (hv : v < 65536) (j : Nat) :
    (a.setFreq i v).getFreq j = if j = i then v else a.getFreq j := by
  have hread := cellGet_cellWrite (c := j) (v := BitVec.ofNat 16 v) (a := i) ((arena_wf_iff a).mp hw).1
  have hfits : (BitVec.ofNat 16 v).toNat = v := by
    rw [BitVec.toNat_ofNat]
    omega
  rw [Arena.getFreq, Arena.setFreq, hread, Arena.getFreq]
  simp only [arenaNodes, hi, and_true]
  split
  · exact hfits
  · rfl

theorem getChild_setChild (hi : i < 884) (hlo : -32768 ≤ c) (hhi : c < 32768) (j : Nat) :
    (a.setChild i c).getChild j = if j = i then c else a.getChild j := by
  have hread := cellGet_cellWrite (c := j) (v := BitVec.ofInt 16 c) (a := i) ((arena_wf_iff a).mp hw).2.1
  have hfits : (BitVec.ofInt 16 c).toInt = c := by
    rw [BitVec.toInt_ofInt]
    exact Int.bmod_eq_of_le (by omega) (by omega)
  rw [Arena.getChild, Arena.setChild, hread, Arena.getChild]
  simp only [arenaNodes, hi, and_true]
  split
  · exact hfits
  · rfl

theorem getParent_setParent (hi : i < 884) (hv : v < 1024) (j : Nat) :
    (a.setParent i v).getParent j = if j = i then v else a.getParent j := by
  have hread := cellGet_cellWrite (c := j) (v := BitVec.ofNat 10 v) (a := i) ((arena_wf_iff a).mp hw).2.2.1
  have hfits : (BitVec.ofNat 10 v).toNat = v := by
    rw [BitVec.toNat_ofNat]
    omega
  rw [Arena.getParent, Arena.setParent, hread, Arena.getParent]
  simp only [arenaNodes, hi, and_true]
  split
  · exact hfits
  · rfl

theorem getSNode_setSNode (hi : i < 442) (hv : v < 1024) (j : Nat) :
    (a.setSNode i v).getSNode j = if j = i then v else a.getSNode j := by
  have hread := cellGet_cellWrite (c := j) (v := BitVec.ofNat 10 v) (a := i) ((arena_wf_iff a).mp hw).2.2.2
  have hfits : (BitVec.ofNat 10 v).toNat = v := by
    rw [BitVec.toNat_ofNat]
    omega
  rw [Arena.getSNode, Arena.setSNode, hread, Arena.getSNode]
  simp only [arenaSymbols, hi, and_true]
  split
  · exact hfits
  · rfl

end Writes

/-- In canonical form, a write of what an element holds changes nothing. -/
theorem cellWrite_self {α : Type} [DecidableEq α] {size : Nat} {d : α} {m : List (Nat × α)}
    (h : cellsWf size d m = true) (i : Nat) : cellWrite size d m i (cellGet d m i) = m :=
  cells_ext (cellWrite_wf i _ h) h fun j => by
    rw [cellGet_cellWrite h]
    split
    case isTrue hj => rw [hj.1]
    case isFalse => rfl

/-- Arenas in canonical form that read alike and have the same registers are the same. -/
theorem arena_ext {a b : Arena} (ha : a.wf = true) (hb : b.wf = true) (hregs : OnlyRams a b)
    (hfreq : ∀ j, b.getFreq j = a.getFreq j) (hchild : ∀ j, b.getChild j = a.getChild j)
    (hparent : ∀ j, b.getParent j = a.getParent j) (hsNode : ∀ x, b.getSNode x = a.getSNode x) : b = a := by
  obtain ⟨haf, hac, hap, has⟩ := (arena_wf_iff a).mp ha
  obtain ⟨hbf, hbc, hbp, hbs⟩ := (arena_wf_iff b).mp hb
  have hf : b.freq = a.freq := cells_ext hbf haf fun j => BitVec.eq_of_toNat_eq (hfreq j)
  have hc : b.child = a.child := cells_ext hbc hac fun j => BitVec.eq_of_toInt_eq (hchild j)
  have hp : b.parent = a.parent := cells_ext hbp hap fun j => BitVec.eq_of_toNat_eq (hparent j)
  have hs : b.sNode = a.sNode := cells_ext hbs has fun x => BitVec.eq_of_toNat_eq (hsNode x)
  rw [hregs, hf, hc, hp, hs]

/-! ### The links from below (R260) -/

theorem leafLink_neg (x : Nat) : leafLink x < 0 := by
  unfold leafLink
  omega

theorem leafLink_inj {x y : Nat} : leafLink x = leafLink y ↔ x = y := by
  unfold leafLink
  omega

@[simp] theorem leafSymbol_leafLink (x : Nat) : leafSymbol (leafLink x) = x := by
  unfold leafSymbol leafLink
  omega

theorem leafLink_leafSymbol {c : Int} (h : c < 0) : leafLink (leafSymbol c) = c := by
  unfold leafSymbol leafLink
  omega

theorem leafLink_ne_natCast (x c : Nat) : leafLink x ≠ (c : Int) := by
  unfold leafLink
  omega

/-- Node `m` is one of the two children that an internal node's CHILD `c` names. -/
def Below (c : Int) (m : Nat) : Prop := (m : Int) = c ∨ (m : Int) + 1 = c

theorem not_below_leafLink (x m : Nat) : ¬Below (leafLink x) m := by
  unfold Below leafLink
  omega

theorem below_natCast {c m : Nat} : Below (c : Int) m ↔ m = c ∨ m + 1 = c := by
  unfold Below
  omega

section LinkBelow

variable {a : Arena} {n : Nat} {c : Int} (hw : a.wf = true) (hn : n < 1024) (hlo : -442 ≤ c) (hhi : c < 884)

open Classical in
include hw hn hhi in
theorem getParent_linkBelow (m : Nat) :
    (a.linkBelow c n).getParent m = if Below c m then n else a.getParent m := by
  unfold Arena.linkBelow Below
  by_cases h : 0 ≤ c
  · rw [if_pos h, getParent_setParent (setParent_wf hw _ _) (by omega) hn, getParent_setParent hw (by omega) hn]
    split_ifs <;> first | rfl | omega
  · rw [if_neg h, getParent_setSNode, if_neg (by omega)]

include hw hn hlo in
theorem getSNode_linkBelow (x : Nat) :
    (a.linkBelow c n).getSNode x = if c = leafLink x then n else a.getSNode x := by
  unfold Arena.linkBelow
  by_cases h : 0 ≤ c
  · rw [if_pos h, getSNode_setParent, getSNode_setParent, if_neg (by unfold leafLink; omega)]
  · rw [if_neg h, getSNode_setSNode hw (by unfold leafSymbol; omega) hn]
    have hsym : x = leafSymbol c ↔ c = leafLink x := by
      unfold leafSymbol leafLink
      omega
    exact if_congr hsym rfl rfl

end LinkBelow

theorem getChild_bounds (a : Arena) (j : Nat) : -32768 ≤ a.getChild j ∧ a.getChild j < 32768 := by
  have hlt := (cellGet 0#16 a.child j).isLt
  rw [Arena.getChild, BitVec.toInt_eq_toNat_cond]
  omega

/-! ### The exchange of two subtrees (R267) -/

section SwapBelow

variable {a : Arena} {p q : Nat} (hw : a.wf = true) (hp : p < 884) (hq : q < 884)

include hw hp hq

theorem getChild_swapBelow (j : Nat) :
    (a.swapBelow p q).getChild j = if j = q then a.getChild p else if j = p then a.getChild q else a.getChild j := by
  have hr := getChild_bounds a p
  have hs := getChild_bounds a q
  rw [Arena.swapBelow, getChild_linkBelow, getChild_linkBelow, getChild_setChild (setChild_wf hw _ _) hq hr.1 hr.2,
    getChild_setChild hw hp hs.1 hs.2]

variable (hchild : ∀ n, n = p ∨ n = q → -442 ≤ a.getChild n ∧ a.getChild n < 884)

include hchild

open Classical in
theorem getParent_swapBelow (m : Nat) :
    (a.swapBelow p q).getParent m =
      if Below (a.getChild q) m then p else if Below (a.getChild p) m then q else a.getParent m := by
  have hpc := (hchild p (.inl rfl)).2
  have hqc := (hchild q (.inr rfl)).2
  rw [Arena.swapBelow, getParent_linkBelow (linkBelow_wf (setChild_wf (setChild_wf hw _ _) _ _) _ _) (by omega) hqc,
    getParent_linkBelow (setChild_wf (setChild_wf hw _ _) _ _) (by omega) hpc]
  rfl

theorem getSNode_swapBelow (x : Nat) :
    (a.swapBelow p q).getSNode x =
      if a.getChild q = leafLink x then p else if a.getChild p = leafLink x then q else a.getSNode x := by
  have hpc := (hchild p (.inl rfl)).1
  have hqc := (hchild q (.inr rfl)).1
  rw [Arena.swapBelow, getSNode_linkBelow (linkBelow_wf (setChild_wf (setChild_wf hw _ _) _ _) _ _) (by omega) hqc,
    getSNode_linkBelow (setChild_wf (setChild_wf hw _ _) _ _) (by omega) hpc]
  rfl

end SwapBelow

end Sys2Proof.Proofs
end

section
/-! PROOFS. The trees of the arena (R285). -/

namespace Sys2Proof.Proofs

open Sys2Proof.Machine Sys2Proof.Laws

/-! ### The two trees as one kind of tree -/

/-- Where a tree of the arena stands: its root, its first symbol, and how many symbols it has. -/
structure Span where
  base : Nat
  first : Nat
  count : Nat

/-- One of the tree's nodes. -/
def Span.Node (t : Span) (n : Nat) : Prop := t.base ≤ n ∧ n + 2 ≤ t.base + 2 * t.count

/-- One of the tree's symbols. -/
def Span.Sym (t : Span) (x : Nat) : Prop := t.first ≤ x ∧ x < t.first + t.count

/-- The literal/length tree of `n` symbols, and the position tree of `n` positions (R8, R260). -/
def spanC (n : Nat) : Span := ⟨0, 0, n⟩
def spanP (n : Nat) : Span := ⟨628, 314, n⟩

/-- The tree is one of these two, with two symbols or more, and fits its part of the arena (R43). -/
structure Span.Fits (t : Span) : Prop where
  grown : 2 ≤ t.count
  place : (t.base = 0 ∧ t.first = 0 ∧ t.count ≤ 314) ∨ (t.base = 628 ∧ t.first = 314 ∧ t.count ≤ 128)

/-- The links of a tree, in both directions (R285 (2), (3)); a parent stands before its children. -/
structure Linked (t : Span) (a : Arena) : Prop where
  wf : a.wf = true
  fits : t.Fits
  root : a.getChild t.base = ((t.base + 2 : Nat) : Int)
  node : ∀ n, t.Node n → (∃ x, t.Sym x ∧ a.getChild n = leafLink x ∧ a.getSNode x = n) ∨
    ∃ c : Nat, a.getChild n = (c : Int) ∧ n + 2 ≤ c ∧ t.Node c ∧ a.getParent c = n ∧ a.getParent (c - 1) = n
  leaf : ∀ x, t.Sym x → t.Node (a.getSNode x) ∧ a.getChild (a.getSNode x) = leafLink x
  parent : ∀ n, t.base < n → t.Node n → t.Node (a.getParent n) ∧ a.getParent n < n ∧
    Below (a.getChild (a.getParent n)) n

/-- The weights of a tree below its root (R285 (1), (5)), where the node `q` is still to be incremented; where `q` is the
root no node is. -/
structure Weighed (t : Span) (a : Arena) (q : Nat) : Prop where
  sum : ∀ n c : Nat, t.base < n → t.Node n → a.getChild n = (c : Int) →
    a.getFreq c + a.getFreq (c - 1) = a.getFreq n + if n = q then 1 else 0
  order : ∀ n, t.base < n → t.Node (n + 1) → a.getFreq (n + 1) ≤ a.getFreq n
  positive : ∀ n, t.base < n → t.Node n → 1 ≤ a.getFreq n

section Nodes

variable {t : Span} {a : Arena} {n : Nat}

theorem Span.Fits.node_lt (hf : t.Fits) (hn : t.Node n) : n < 884 := by
  obtain ⟨hgrown, hplace⟩ := hf
  obtain ⟨hlo, hhi⟩ := hn
  omega

theorem Span.Fits.sym_lt (hf : t.Fits) (hn : t.Sym n) : n < 442 := by
  obtain ⟨hgrown, hplace⟩ := hf
  obtain ⟨hlo, hhi⟩ := hn
  omega

theorem Linked.child_bounds (hl : Linked t a) (hn : t.Node n) : -442 ≤ a.getChild n ∧ a.getChild n < 884 := by
  rcases hl.node n hn with ⟨x, hx, hc, -⟩ | ⟨c, hc, -, hcn, -⟩
  · have := hl.fits.sym_lt hx
    rw [hc]
    unfold leafLink
    omega
  · have := hl.fits.node_lt hcn
    omega

theorem Linked.sNode_ne_base (hl : Linked t a) {x : Nat} (hx : t.Sym x) : t.base < a.getSNode x := by
  obtain ⟨⟨hlo, -⟩, hc⟩ := hl.leaf x hx
  refine lt_of_le_of_ne hlo fun h => ?_
  rw [← h, hl.root] at hc
  exact leafLink_ne_natCast _ _ hc.symm

/-- An internal node's two children. -/
theorem Linked.children (hl : Linked t a) (hn : t.Node n) {c : Nat} (hc : a.getChild n = (c : Int)) :
    n + 2 ≤ c ∧ t.Node c ∧ t.Node (c - 1) ∧ a.getParent c = n ∧ a.getParent (c - 1) = n := by
  rcases hl.node n hn with ⟨x, -, hx, -⟩ | ⟨d, hd, hlt, hdn, hp, hp'⟩
  · exact absurd (hx.symm.trans hc) (leafLink_ne_natCast _ _)
  · obtain rfl : c = d := by omega
    obtain ⟨hlo, -⟩ := hn
    obtain ⟨-, hhi⟩ := hdn
    exact ⟨hlt, ⟨by omega, hhi⟩, ⟨by omega, by omega⟩, hp, hp'⟩

/-- A child's parent. -/
theorem Linked.parent_of_below (hl : Linked t a) (hn : t.Node n) {m : Nat} (hm : Below (a.getChild n) m) :
    n < m ∧ t.Node m ∧ a.getParent m = n := by
  rcases hl.node n hn with ⟨x, -, hx, -⟩ | ⟨c, hc, -⟩
  · exact absurd (hx ▸ hm) (not_below_leafLink _ _)
  · obtain ⟨hlt, hcn, hcn', hp, hp'⟩ := hl.children hn hc
    rcases below_natCast.mp (hc ▸ hm) with rfl | rfl
    · exact ⟨by omega, hcn, hp⟩
    · exact ⟨by omega, hcn', hp'⟩

theorem Linked.sNode_of_leaf (hl : Linked t a) (hn : t.Node n) {x : Nat} (hx : a.getChild n = leafLink x) :
    t.Sym x ∧ a.getSNode x = n := by
  rcases hl.node n hn with ⟨y, hy, hc, hs⟩ | ⟨c, hc, -⟩
  · obtain rfl : y = x := leafLink_inj.mp (hc.symm.trans hx)
    exact ⟨hy, hs⟩
  · exact absurd (hx.symm.trans hc) (leafLink_ne_natCast _ _)

/-- The weights do not rise with the node index. -/
theorem Weighed.le_of_lt {q : Nat} (hv : Weighed t a q) {m : Nat} (hm : t.base < m) (hmn : m ≤ n) (hn : t.Node n) :
    a.getFreq n ≤ a.getFreq m := by
  induction n, hmn using Nat.le_induction with
  | base => exact le_rfl
  | succ k hk ih =>
    obtain ⟨hlo, hhi⟩ := hn
    exact (hv.order k (by omega) ⟨hlo, hhi⟩).trans (ih ⟨by omega, by omega⟩)

end Nodes

/-! ### The leader of a node's block (R266) -/

/-- `cellFirst_spec` where the search begins in the middle of the RAM. -/
theorem cellFirst_spec_from {α : Type} [DecidableEq α] {size : Nat} {d v : α} {p lo : Nat} (hp : lo ≤ p) :
    ∀ {from' : Nat} {m : List (Nat × α)}, cellsWfFrom size d from' m = true →
      lo ≤ cellFirst d v p lo m ∧
      (cellFirst d v p lo m < p → cellGet d m (cellFirst d v p lo m) = v) ∧
      ∀ x, lo ≤ x → x < cellFirst d v p lo m → cellGet d m x ≠ v
  | _, [], _ => cellFirst_spec (size := size) hp rfl
  | _, (b, w) :: m, h => by
    rw [cellsWfFrom_cons] at h
    obtain ⟨-, hb, hw, hm⟩ := h
    by_cases hlt : b < lo
    · obtain ⟨hge, hval, hleast⟩ := cellFirst_spec_from (v := v) hp hm
      have hskip {x : Nat} (hx : lo ≤ x) : cellGet d ((b, w) :: m) x = cellGet d m x := by
        simp [cellGet, show x ≠ b by omega, show ¬x < b by omega]
      rw [cellFirst, if_pos hlt]
      exact ⟨hge, fun h => (hskip hge).trans (hval h), fun x hx hx' => by rw [hskip hx]; exact hleast x hx hx'⟩
    · exact cellFirst_spec hp (cellsWfFrom_cons.mpr ⟨not_lt.mp hlt, hb, hw, hm⟩)

theorem treeBase_of_node {t : Span} (hf : t.Fits) {p : Nat} (hp : t.Node p) : treeBase p = t.base := by
  obtain ⟨hgrown, hplace⟩ := hf
  obtain ⟨hlo, hhi⟩ := hp
  unfold treeBase rootC rootP
  split <;> omega

/-- The leader is the first node of the tree with the node's weight. -/
theorem leader_spec {t : Span} {a : Arena} (hw : a.wf = true) (hf : t.Fits) {p : Nat} (hp : t.Node p) :
    t.base ≤ a.leader p ∧ a.leader p ≤ p ∧ a.getFreq (a.leader p) = a.getFreq p ∧
      ∀ m, t.base ≤ m → m < a.leader p → a.getFreq m ≠ a.getFreq p := by
  obtain ⟨hge, hval, hleast⟩ := cellFirst_spec_from (v := cellGet 0#16 a.freq p) hp.1 ((arena_wf_iff a).mp hw).1
  rw [Arena.leader, treeBase_of_node hf hp]
  have hle := cellFirst_le (d := 0#16) (v := cellGet 0#16 a.freq p) (p := p) (lo := t.base) (m := a.freq)
  refine ⟨hge, hle, ?_, fun m hm hlt heq => hleast m hm hlt (BitVec.eq_of_toNat_eq heq)⟩
  rcases lt_or_eq_of_le hle with hlt | heq
  · exact congrArg BitVec.toNat (hval hlt)
  · rw [heq]

end Sys2Proof.Proofs
end

section
/-! PROOFS. `Inc` and the climb to the root (R266, R267) keep the laws of a tree. -/

namespace Sys2Proof.Proofs

open Sys2Proof.Machine Sys2Proof.Laws

/-! ### What is not the tree's -/

/-- The two arenas agree on every element that is not the tree's own. -/
structure Outside (t : Span) (a b : Arena) : Prop where
  freq : ∀ j, ¬t.Node j → b.getFreq j = a.getFreq j
  child : ∀ j, ¬t.Node j → b.getChild j = a.getChild j
  parent : ∀ j, ¬(t.base < j ∧ t.Node j) → b.getParent j = a.getParent j
  sNode : ∀ x, ¬t.Sym x → b.getSNode x = a.getSNode x

theorem Outside.rfl {t : Span} {a : Arena} : Outside t a a :=
  ⟨fun _ _ => Eq.refl _, fun _ _ => Eq.refl _, fun _ _ => Eq.refl _, fun _ _ => Eq.refl _⟩

theorem Outside.trans {t : Span} {a b c : Arena} (h : Outside t a b) (k : Outside t b c) : Outside t a c :=
  ⟨fun j hj => (k.freq j hj).trans (h.freq j hj), fun j hj => (k.child j hj).trans (h.child j hj),
    fun j hj => (k.parent j hj).trans (h.parent j hj), fun x hx => (k.sNode x hx).trans (h.sNode x hx)⟩

/-! ### The exchange of two subtrees -/

/-- In the exchange, each link to or from one of the two nodes is one to or from the other. -/
structure Exchanged (t : Span) (p q : Nat) (a b : Arena) : Prop where
  freq : ∀ j, b.getFreq j = a.getFreq j
  child : ∀ j, b.getChild j = a.getChild (Equiv.swap p q j)
  parent : ∀ m, t.base < m → t.Node m → b.getParent m = Equiv.swap p q (a.getParent m)
  sNode : ∀ x, t.Sym x → b.getSNode x = Equiv.swap p q (a.getSNode x)

section Exchange

variable {t : Span} {a : Arena} {p q : Nat} (hl : Linked t a) (hp : t.Node p) (hq : t.Node q)

include hl hp hq

theorem Linked.pair_bounds (n : Nat) (h : n = p ∨ n = q) : -442 ≤ a.getChild n ∧ a.getChild n < 884 := by
  rcases h with rfl | rfl
  · exact hl.child_bounds hp
  · exact hl.child_bounds hq

theorem Linked.exchanged : Exchanged t p q a (a.swapBelow p q) := by
  have hp' := hl.fits.node_lt hp
  have hq' := hl.fits.node_lt hq
  refine ⟨fun j => getFreq_swapBelow _ _ _ _, fun j => ?_, fun m hm hmn => ?_, fun x hx => ?_⟩
  · rw [getChild_swapBelow hl.wf hp' hq', Equiv.swap_apply_def]
    split_ifs with h1 h2
    · subst h2; rw [h1]
    all_goals rfl
  · obtain ⟨-, -, hbelow⟩ := hl.parent m hm hmn
    have hof {n : Nat} (hn : t.Node n) : Below (a.getChild n) m ↔ a.getParent m = n :=
      ⟨fun h => (hl.parent_of_below hn h).2.2, fun h => h ▸ hbelow⟩
    rw [getParent_swapBelow hl.wf hp' hq' (hl.pair_bounds hp hq), Equiv.swap_apply_def]
    simp only [hof hp, hof hq]
    split_ifs with h1 h2
    · exact h2.symm.trans h1
    all_goals rfl
  · have hof {n : Nat} (hn : t.Node n) : a.getChild n = leafLink x ↔ a.getSNode x = n :=
      ⟨fun h => (hl.sNode_of_leaf hn h).2, fun h => h ▸ (hl.leaf x hx).2⟩
    rw [getSNode_swapBelow hl.wf hp' hq' (hl.pair_bounds hp hq), Equiv.swap_apply_def]
    simp only [hof hp, hof hq]
    split_ifs with h1 h2
    · exact h2.symm.trans h1
    all_goals rfl

theorem Linked.swap_outside : Outside t a (a.swapBelow p q) := by
  have hp' := hl.fits.node_lt hp
  have hq' := hl.fits.node_lt hq
  refine ⟨fun j _ => getFreq_swapBelow _ _ _ _, fun j hj => ?_, fun m hm => ?_, fun x hx => ?_⟩
  · have hnot {n : Nat} (hn : t.Node n) : j ≠ n := fun h => hj (h ▸ hn)
    rw [getChild_swapBelow hl.wf hp' hq', if_neg (hnot hq), if_neg (hnot hp)]
  · have hnot {n : Nat} (hn : t.Node n) : ¬Below (a.getChild n) m := fun h => by
      obtain ⟨hlt, hmn, -⟩ := hl.parent_of_below hn h
      exact hm ⟨hn.1.trans_lt hlt, hmn⟩
    rw [getParent_swapBelow hl.wf hp' hq' (hl.pair_bounds hp hq), if_neg (hnot hq), if_neg (hnot hp)]
  · have hnot {n : Nat} (hn : t.Node n) : a.getChild n ≠ leafLink x := fun h => hx (hl.sNode_of_leaf hn h).1
    rw [getSNode_swapBelow hl.wf hp' hq' (hl.pair_bounds hp hq), if_neg (hnot hq), if_neg (hnot hp)]

/-- The exchange of a node with an earlier one whose children stand after both keeps the links. -/
theorem Linked.swapBelow (hbase : t.base < q) (hqp : q < p) (hafter : ∀ m, Below (a.getChild q) m → p < m) :
    Linked t (a.swapBelow p q) := by
  obtain ⟨-, hchild, hparent, hsNode⟩ := hl.exchanged hp hq
  have hnode {n : Nat} (hn : t.Node n) : t.Node (Equiv.swap p q n) := by
    rw [Equiv.swap_apply_def]
    split_ifs
    · exact hq
    · exact hp
    · exact hn
  have hbefore {n m : Nat} (h : Below (a.getChild n) m) (hn : n < m) : Equiv.swap p q n < m := by
    rw [Equiv.swap_apply_def]
    split_ifs with h1 h2
    · omega
    · exact hafter m (h2 ▸ h)
    · exact hn
  refine ⟨swapBelow_wf hl.wf p q, hl.fits, ?_, fun n hn => ?_, fun x hx => ?_, fun m hm hmn => ?_⟩
  · rw [hchild, Equiv.swap_apply_of_ne_of_ne (by omega) (by omega), hl.root]
  · rcases hl.node _ (hnode hn) with ⟨x, hx, hc, hs⟩ | ⟨c, hc, -⟩
    · exact .inl ⟨x, hx, (hchild n).trans hc, by rw [hsNode x hx, hs, Equiv.swap_apply_self]⟩
    · obtain ⟨hlt, hcn, hcn', hpc, hpc'⟩ := hl.children (hnode hn) hc
      have hlo := (hnode hn).1
      have hfirst := hbefore (m := c - 1) (hc ▸ below_natCast.mpr (.inr (by omega))) (by omega)
      rw [Equiv.swap_apply_self] at hfirst
      exact .inr ⟨c, (hchild n).trans hc, by omega, hcn, by rw [hparent c (by omega) hcn, hpc, Equiv.swap_apply_self],
        by rw [hparent _ (by omega) hcn', hpc', Equiv.swap_apply_self]⟩
  · obtain ⟨hn, hc⟩ := hl.leaf x hx
    rw [hsNode x hx]
    exact ⟨hnode hn, by rw [hchild, Equiv.swap_apply_self, hc]⟩
  · obtain ⟨hn, hlt, hbelow⟩ := hl.parent m hm hmn
    rw [hparent m hm hmn]
    exact ⟨hnode hn, hbefore hbelow hlt, by rwa [hchild, Equiv.swap_apply_self]⟩

end Exchange

/-! ### The weights -/

section Weights

variable {t : Span} {a : Arena} {p q : Nat}

/-- Of two nodes of one weight, the one that is to be incremented may trade its subtree for the other's. -/
theorem Weighed.swapBelow (hl : Linked t a) (hv : Weighed t a p) (hp : t.Node p) (hq : t.Node q) (hbase : t.base < q)
    (hqp : q < p) (heq : a.getFreq q = a.getFreq p) : Weighed t (a.swapBelow p q) q := by
  obtain ⟨hfreq, hchild, -, -⟩ := hl.exchanged hp hq
  refine ⟨fun n c hn hnode hc => ?_, fun n hn hnode => by simpa only [hfreq] using hv.order n hn hnode,
    fun n hn hnode => by simpa only [hfreq] using hv.positive n hn hnode⟩
  simp only [hfreq]
  rw [hchild, Equiv.swap_apply_def] at hc
  split_ifs at hc with h1 h2
  · subst h1
    rw [hv.sum q c hbase hq hc, heq, if_neg (by omega), if_neg (by omega)]
  · subst h2
    rw [hv.sum p c (by omega) hp hc, heq, if_pos rfl, if_pos rfl]
  · rw [hv.sum n c hn hnode hc, if_neg h1, if_neg h2]

theorem Linked.setFreq (hl : Linked t a) (i v : Nat) : Linked t (a.setFreq i v) :=
  ⟨setFreq_wf hl.wf i v, hl.fits, hl.root, hl.node, hl.leaf, hl.parent⟩

/-- The first node of a block may be incremented: then its parent is to be incremented. -/
theorem Weighed.raise (hl : Linked t a) (hv : Weighed t a q) (hq : t.Node q) (hbase : t.base < q)
    (hfits : a.getFreq q + 1 < 65536) (hfirst : t.base < q - 1 → a.getFreq (q - 1) ≠ a.getFreq q) :
    Weighed t (a.setFreq q (a.getFreq q + 1)) (a.getParent q) := by
  have hread := getFreq_setFreq hl.wf (hl.fits.node_lt hq) hfits
  obtain ⟨-, hup, hbelow⟩ := hl.parent q hbase hq
  refine ⟨fun n c hn hnode hc => ?_, fun n hn hnode => ?_, fun n hn hnode => ?_⟩
  · obtain ⟨hlt, hcn, hcn', hpc, hpc'⟩ := hl.children hnode hc
    have hsum := hv.sum n c hn hnode hc
    rw [hread, hread, hread]
    rw [getChild_setFreq] at hc
    by_cases hparent : n = a.getParent q
    · subst hparent
      rw [hc, below_natCast] at hbelow
      rw [if_neg (show a.getParent q ≠ q by omega)] at hsum ⊢
      rw [if_pos rfl]
      rcases hbelow with rfl | rfl
      · rw [if_pos rfl, if_neg (by omega)]
        omega
      · rw [if_neg (by omega), if_pos (by omega)]
        simp only [Nat.add_sub_cancel] at hsum
        omega
    · rw [if_neg (show c ≠ q from fun h => hparent (by rw [← h, hpc])),
        if_neg (show c - 1 ≠ q from fun h => hparent (by rw [← h, hpc'])), if_neg hparent, hsum]
      split_ifs with h
      · rw [h]
      · rfl
  · have hord := hv.order n hn hnode
    rw [hread, hread]
    by_cases hnext : n + 1 = q
    · subst hnext
      have := hfirst hn
      rw [if_pos rfl, if_neg (by omega)]
      simp only [Nat.add_sub_cancel] at this
      omega
    · rw [if_neg hnext]
      split_ifs with h
      · rw [← h]
        omega
      · exact hord
  · have hpos := hv.positive n hn hnode
    rw [hread]
    split_ifs
    · omega
    · exact hpos

end Weights

/-! ### The climb -/

/-- A tree in the middle of a climb: the node `q` is the next to be incremented, and the root's children together weigh
`m`, less the increment that is still to come. -/
structure Climbing (t : Span) (m : Nat) (a : Arena) (q : Nat) : Prop where
  linked : Linked t a
  weighed : Weighed t a q
  next : t.Node q
  rootSum : a.getFreq (t.base + 1) + a.getFreq (t.base + 2) + (if q = t.base then 0 else 1) = m
  rootBound : m ≤ a.getFreq t.base

/-- What `Inc` does below the root. -/
structure IncStep (t : Span) (m : Nat) (a b : Arena) (p q : Nat) : Prop where
  climbing : Climbing t m b q
  up : q < p
  inner : ∀ x, t.Sym x → b.getSNode x ≠ q
  root : b.getFreq t.base = a.getFreq t.base
  outside : Outside t a b
  weight : ∀ x, t.Sym x → b.weight x = a.weight x + if a.getSNode x = p then 1 else 0

section Climb

variable {t : Span} {m : Nat} {a : Arena} {p : Nat} (h : Climbing t m a p) (hp : p ≠ t.base)

include h

theorem Climbing.base_children : t.Node (t.base + 1) ∧ t.Node (t.base + 2) := by
  have hgrown := h.linked.fits.grown
  exact ⟨⟨by omega, by omega⟩, ⟨by omega, by omega⟩⟩

include hp

/-- No other node weighs as much as the root. -/
theorem Climbing.lt_root {n : Nat} (hn : t.base < n) (hnode : t.Node n) : a.getFreq n + 1 < a.getFreq t.base := by
  have hsum := h.rootSum
  have hbound := h.rootBound
  have hpos := h.weighed.positive (t.base + 2) (by omega) h.base_children.2
  have hle := h.weighed.le_of_lt (m := t.base + 1) (by omega) hn hnode
  rw [if_neg hp] at hsum
  omega

theorem Climbing.leader_below : t.base < a.leader p := by
  obtain ⟨hge, -, heq, -⟩ := leader_spec h.linked.wf h.linked.fits h.next
  refine lt_of_le_of_ne hge fun hroot => ?_
  have := h.lt_root hp (lt_of_le_of_ne h.next.1 hp.symm) h.next
  rw [← hroot] at heq
  omega

/-- After the exchange with the leader, the leader is the node to be incremented. -/
theorem Climbing.lead : ∃ b, b = (if a.leader p ≠ p then a.swapBelow p (a.leader p) else a) ∧ Linked t b ∧
    Weighed t b (a.leader p) ∧ Outside t a b ∧ (∀ j, b.getFreq j = a.getFreq j) ∧
    ∀ x, t.Sym x → b.getSNode x = Equiv.swap p (a.leader p) (a.getSNode x) := by
  have hbase := h.leader_below hp
  obtain ⟨-, hle, heq, -⟩ := leader_spec h.linked.wf h.linked.fits h.next
  refine ⟨_, rfl, ?_⟩
  by_cases hlead : a.leader p = p
  · rw [if_neg (not_not.mpr hlead), hlead]
    exact ⟨h.linked, h.weighed, Outside.rfl, fun _ => rfl, fun x _ => by simp⟩
  · have hnode : t.Node (a.leader p) := ⟨hbase.le, by have := h.next.2; omega⟩
    have hafter (n : Nat) (hn : Below (a.getChild (a.leader p)) n) : p < n := by
      obtain ⟨hlt, hnn, -⟩ := h.linked.parent_of_below hnode hn
      by_contra hnp
      have hword := h.weighed.le_of_lt (by omega) (not_lt.mp hnp) h.next
      rcases h.linked.node _ hnode with ⟨x, -, hc, -⟩ | ⟨c, hc, hlt', hcn, -⟩
      · exact not_below_leafLink x n (hc ▸ hn)
      · have hsum := h.weighed.sum _ c hbase hnode hc
        have hpos := h.weighed.positive c (by omega) hcn
        have hpos' := h.weighed.positive (c - 1) (by omega) (h.linked.children hnode hc).2.2.1
        rw [if_neg hlead] at hsum
        rcases below_natCast.mp (hc ▸ hn) with rfl | rfl
        · omega
        · rw [Nat.add_sub_cancel] at hsum hpos'
          omega
    have hqp : a.leader p < p := by omega
    rw [if_pos hlead]
    obtain ⟨hfreq, -, -, hsNode⟩ := h.linked.exchanged h.next hnode
    exact ⟨h.linked.swapBelow h.next hnode hbase hqp hafter,
      h.weighed.swapBelow h.linked h.next hnode hbase hqp heq, h.linked.swap_outside h.next hnode, hfreq, hsNode⟩

theorem Climbing.inc : IncStep t m a (a.inc p).1 p (a.inc p).2 := by
  have hbase := h.leader_below hp
  obtain ⟨-, hle, heq, hfirst⟩ := leader_spec h.linked.wf h.linked.fits h.next
  have hnode : t.Node (a.leader p) := ⟨hbase.le, by have := h.next.2; omega⟩
  have hroot := h.lt_root hp hbase hnode
  have hfits : a.getFreq (a.leader p) + 1 < 65536 := by
    have : a.getFreq t.base < 2 ^ 16 := (cellGet 0#16 a.freq t.base).isLt
    omega
  obtain ⟨b, hb, hl, hv, hout, hfreq, hsNode⟩ := h.lead hp
  have hinc : a.inc p = (b.setFreq (a.leader p) (a.getFreq (a.leader p) + 1), b.getParent (a.leader p)) := by
    rw [Arena.inc, ← hb, hfreq]
    rfl
  obtain ⟨hup, hlt, hbelow⟩ := hl.parent _ hbase hnode
  have hread (j : Nat) := getFreq_setFreq hl.wf (hl.fits.node_lt hnode) hfits j
  simp only [hfreq] at hread
  have hraised := hv.raise hl hnode hbase (by rwa [hfreq]) fun hlt => by
    rw [hfreq, hfreq, heq]
    exact hfirst _ hlt.le (by omega)
  rw [hfreq] at hraised
  rw [hinc]
  refine ⟨⟨hl.setFreq _ _, hraised, hup, ?_, ?_⟩, by omega, fun x hx hs => ?_, ?_, ?_, fun x hx => ?_⟩
  · have hsum := h.rootSum
    rw [if_neg hp] at hsum
    have hchildren : b.getParent (a.leader p) = t.base ↔ a.leader p = t.base + 2 ∨ a.leader p + 1 = t.base + 2 := by
      rw [← below_natCast, ← hl.root]
      exact ⟨fun h => h ▸ hbelow, fun h => (hl.parent_of_below ⟨le_rfl, by have := hl.fits.grown; omega⟩ h).2.2⟩
    rw [hread, hread]
    simp only [hchildren]
    split_ifs <;> first | omega | (simp_all; omega)
  · rw [hread, if_neg (by omega)]
    exact h.rootBound
  · have hc := (hl.leaf x hx).2
    rw [getSNode_setFreq] at hs
    rw [hs] at hc
    exact not_below_leafLink x _ (hc ▸ hbelow)
  · exact (hread _).trans (if_neg (by omega))
  · refine hout.trans ⟨fun j hj => ?_, fun _ _ => rfl, fun _ _ => rfl, fun _ _ => rfl⟩
    have hne : j ≠ a.leader p := fun h => hj (h ▸ hnode)
    rw [hread, if_neg hne, hfreq]
  · rw [Arena.weight, getSNode_setFreq, hread, hsNode x hx, Arena.weight]
    by_cases hx : a.getSNode x = p
    · rw [hx, Equiv.swap_apply_left, if_pos rfl, if_pos rfl, heq]
    · rw [if_neg hx, if_neg (by rwa [Equiv.swap_apply_eq_iff, Equiv.swap_apply_right]), Equiv.swap_apply_def, if_neg hx]
      split_ifs with hlead
      · rw [hlead, heq, Nat.add_zero]
      · rfl

omit h hp in
/-- A climb in a tree comes to the root (R267), and moves only what it passes. -/
theorem Climbing.climb (k : Nat) : ∀ (turns : Nat) {a : Arena} {p : Nat}, Climbing t m a p → p < t.base + turns →
    (∀ x, t.Sym x → a.getSNode x ≠ p) →
    ∃ b, Arena.climb t.base turns a p k = (b, k) ∧ Climbing t m b t.base ∧ b.getFreq t.base = a.getFreq t.base ∧
      Outside t a b ∧ ∀ x, t.Sym x → b.weight x = a.weight x
  | 0, _, _, h, hp, _ => absurd hp (not_lt.mpr h.next.1)
  | turns + 1, a, p, h, hp, hinner => by
    by_cases hroot : p = t.base
    · subst hroot
      exact ⟨a, climb_root _ _ _ _, h, rfl, Outside.rfl, fun _ _ => rfl⟩
    · have hstep := h.inc hroot
      obtain ⟨b, hb, hclimbed, hbase, hout, hweight⟩ := Climbing.climb k turns hstep.climbing
        (by have := hstep.up; omega) hstep.inner
      refine ⟨b, (climb_step hroot turns a k).trans hb, hclimbed, hbase.trans hstep.root, hstep.outside.trans hout,
        fun x hx => ?_⟩
      rw [hweight x hx, hstep.weight x hx, if_neg (hinner x hx), Nat.add_zero]

end Climb

/-- An update's climb from a symbol's leaf counts the symbol once. -/
theorem Climbing.count {t : Span} {m : Nat} {a : Arena} {x : Nat} (h : Climbing t m a (a.getSNode x)) (hx : t.Sym x)
    (turns k : Nat) (hturns : 884 ≤ turns) :
    ∃ b, Arena.climb t.base (turns + 1) a (a.getSNode x) k = (b, k) ∧ Climbing t m b t.base ∧
      b.getFreq t.base = a.getFreq t.base ∧ Outside t a b ∧
      ∀ y, t.Sym y → b.weight y = if y = x then a.weight y + 1 else a.weight y := by
  have hroot : a.getSNode x ≠ t.base := (h.linked.sNode_ne_base hx).ne'
  have hstep := h.inc hroot
  have hnode := h.linked.fits.node_lt hstep.climbing.next
  obtain ⟨b, hb, hclimbed, hbase, hout, hweight⟩ := Climbing.climb k turns hstep.climbing (by omega) hstep.inner
  refine ⟨b, (climb_step hroot turns a k).trans hb, hclimbed, hbase.trans hstep.root, hstep.outside.trans hout,
    fun y hy => ?_⟩
  have hsame : a.getSNode y = a.getSNode x ↔ y = x := by
    refine ⟨fun heq => ?_, congrArg _⟩
    have hc := (h.linked.leaf y hy).2
    rw [heq, (h.linked.leaf x hx).2] at hc
    exact (leafLink_inj.mp hc).symm
  rw [hweight y hy, hstep.weight y hy]
  simp only [hsame]
  split_ifs <;> rfl

end Sys2Proof.Proofs
end

section
/-! PROOFS. The trees' laws as `CTree` and `PTree` state them. -/

namespace Sys2Proof.Proofs

open Sys2Proof.Machine Sys2Proof.Laws

/-! ### The literal/length tree -/

theorem node_spanC {m n : Nat} : (spanC m).Node n ↔ n + 2 ≤ 2 * m := by
  simp [Span.Node, spanC]

theorem sym_spanC {m x : Nat} : (spanC m).Sym x ↔ x < m := by
  simp [Span.Sym, spanC]

/-- The literal/length tree of an arena. -/
structure WeighedC (a : Arena) : Prop where
  linked : Linked (spanC a.nMax.toNat) a
  weighed : Weighed (spanC a.nMax.toNat) a 0
  rootSum : a.getFreq 0 = a.getFreq 2 + a.getFreq 1
  rootBound : a.getFreq 0 ≤ 0x8000

/-- Weights that do not rise: an internal node stands before its children. -/
theorem before_child {a : Arena} {base top n c : Nat} (horder : ∀ n, base ≤ n → n + 1 ≤ top → a.getFreq (n + 1) ≤ a.getFreq n)
    (hpos : 1 ≤ a.getFreq c) (hc : base < c) (hn : n ≤ top) (hsum : a.getFreq n = a.getFreq c + a.getFreq (c - 1)) :
    n + 2 ≤ c := by
  by_contra hlt
  have hle : ∀ k, c - 1 ≤ k → k ≤ top → a.getFreq k ≤ a.getFreq (c - 1) := fun k hk => by
    induction k, hk using Nat.le_induction with
    | base => exact fun _ => le_rfl
    | succ k hk ih => exact fun hkt => (horder k (by omega) hkt).trans (ih (by omega))
  have := hle n (by omega) hn
  omega

theorem weighedC_of_cTree {a : Arena} (h : a.CTree) : WeighedC a := by
  obtain ⟨hw, ⟨hsize, hmax⟩, hnode, hleaf, hparent, horder, hpos, hroot⟩ := h
  have hbefore {n c : Nat} (hn : n + 2 ≤ 2 * a.nMax.toNat) (hc : 2 ≤ c) (hcn : c + 2 ≤ 2 * a.nMax.toNat)
      (hsum : a.getFreq n = a.getFreq c + a.getFreq (c - 1)) : n + 2 ≤ c :=
    before_child (base := 0) (top := 2 * a.nMax.toNat - 2) (fun k _ hk => horder k (by omega)) (hpos c hcn) (by omega)
      (by omega) hsum
  have hup {n : Nat} (hn : 1 ≤ n) (hnode' : n + 2 ≤ 2 * a.nMax.toNat) : a.getParent n < n := by
    obtain ⟨hp, hbelow⟩ := hparent n hn hnode'
    rcases hnode _ hp with ⟨hneg, -⟩ | ⟨c, hc, hc2, hcn, -, -, hsum⟩
    · omega
    · have := hbefore hp hc2 hcn hsum
      omega
  have hchild : a.getChild 0 = 2 := by
    have hp := hup le_rfl (by omega)
    obtain ⟨-, hbelow⟩ := hparent 1 le_rfl (by omega)
    rw [show a.getParent 1 = 0 by omega] at hbelow
    rcases hnode 0 (by omega) with ⟨hneg, -⟩ | ⟨c, hc, hc2, -⟩ <;> omega
  refine ⟨⟨hw, ⟨hsize, .inl ⟨rfl, rfl, hmax⟩⟩, hchild, fun n hn => ?_, fun x hx => ?_, fun n hn hnode' => ?_⟩,
    ⟨fun n c hn hnode' hc => ?_, fun n _ hn => ?_, fun n _ hn => hpos n (node_spanC.mp hn)⟩, ?_, hroot⟩
  · rcases hnode n (node_spanC.mp hn) with ⟨hneg, hsym, hs⟩ | ⟨c, hc, hc2, hcn, hp, hp', hsum⟩
    · exact .inl ⟨_, sym_spanC.mpr hsym, (leafLink_leafSymbol hneg).symm, hs⟩
    · exact .inr ⟨c, hc, hbefore (node_spanC.mp hn) hc2 hcn hsum, node_spanC.mpr hcn, hp, hp'⟩
  · obtain ⟨hn, hc⟩ := hleaf x (sym_spanC.mp hx)
    exact ⟨node_spanC.mpr hn, hc⟩
  · obtain ⟨hp, hbelow⟩ := hparent n hn (node_spanC.mp hnode')
    exact ⟨node_spanC.mpr hp, hup hn (node_spanC.mp hnode'), by unfold Below; omega⟩
  · rcases hnode n (node_spanC.mp hnode') with ⟨hneg, -⟩ | ⟨d, hd, -, -, -, -, hsum⟩
    · omega
    · obtain rfl : c = d := by omega
      change 0 < n at hn
      rw [if_neg (by omega), hsum, Nat.add_zero]
  · have := node_spanC.mp hn
    exact horder n (by omega)
  · rcases hnode 0 (by omega) with ⟨hneg, -⟩ | ⟨c, hc, -, -, -, -, hsum⟩
    · omega
    · obtain rfl : c = 2 := by omega
      exact hsum

theorem WeighedC.cTree {a : Arena} (h : WeighedC a) : a.CTree := by
  obtain ⟨hl, hv, hsum, hbound⟩ := h
  obtain ⟨hgrown, hplace⟩ := hl.fits
  change 2 ≤ a.nMax.toNat at hgrown
  have hmax : a.nMax.toNat ≤ 314 := by
    rcases hplace with ⟨-, -, h⟩ | ⟨h, -⟩
    · exact h
    · cases h
  have hroot : a.getChild 0 = 2 := hl.root
  have hpos (n : Nat) (hn : 0 < n) (hn' : n + 2 ≤ 2 * a.nMax.toNat) := hv.positive n hn (node_spanC.mpr hn')
  refine ⟨hl.wf, ⟨hgrown, hmax⟩, fun n hn => ?_, fun x hx => ?_, fun n hn hnode => ?_, fun n hn => ?_, fun n hn => ?_, hbound⟩
  · rcases hl.node n (node_spanC.mpr hn) with ⟨x, hx, hc, hs⟩ | ⟨c, hc, hlt, hcn, hp, hp'⟩
    · exact .inl ⟨hc ▸ leafLink_neg x, by rw [hc, leafSymbol_leafLink]; exact sym_spanC.mp hx,
        by rw [hc, leafSymbol_leafLink, hs]⟩
    · refine .inr ⟨c, hc, by omega, node_spanC.mp hcn, hp, hp', ?_⟩
      rcases Nat.eq_zero_or_pos n with rfl | hn0
      · obtain rfl : c = 2 := by omega
        exact hsum
      · have := hv.sum n c hn0 (node_spanC.mpr hn) hc
        rw [if_neg (by omega)] at this
        omega
  · obtain ⟨hn, hc⟩ := hl.leaf x (sym_spanC.mpr hx)
    exact ⟨node_spanC.mp hn, hc⟩
  · obtain ⟨hp, -, hbelow⟩ := hl.parent n hn (node_spanC.mpr hnode)
    unfold Below at hbelow
    exact ⟨node_spanC.mp hp, by omega⟩
  · rcases Nat.eq_zero_or_pos n with rfl | hn0
    · exact hsum ▸ Nat.le_add_left _ _
    · exact hv.order n hn0 (node_spanC.mpr (by omega))
  · rcases Nat.eq_zero_or_pos n with rfl | hn0
    · rw [hsum]
      have := hpos 1 one_pos (by omega)
      omega
    · exact hpos n hn0 hn

/-! ### The position tree -/

/-- The position tree of an arena. -/
def treeP (a : Arena) : Span := spanP (a.lastPosition + 1)

/-- The last node of the position tree is MOST_P (R275). -/
structure MostP (a : Arena) : Prop where
  low : 630 ≤ a.mostP.toNat
  high : a.mostP.toNat ≤ 882
  even : a.mostP.toNat % 2 = 0

theorem node_treeP {a : Arena} (h : MostP a) {n : Nat} : (treeP a).Node n ↔ 628 ≤ n ∧ n ≤ a.mostP.toNat := by
  obtain ⟨hlo, -, heven⟩ := h
  simp only [Span.Node, treeP, spanP, Arena.lastPosition, rootP]
  omega

theorem sym_treeP {a : Arena} {x : Nat} : (treeP a).Sym x ↔ ∃ y, x = 314 + y ∧ y ≤ a.lastPosition := by
  simp only [Span.Sym, treeP, spanP]
  exact ⟨fun ⟨hlo, hhi⟩ => ⟨x - 314, by omega, by omega⟩, fun ⟨y, hx, hy⟩ => by omega⟩

/-- The grown position tree of an arena. -/
structure WeighedP (a : Arena) : Prop where
  most : MostP a
  linked : Linked (treeP a) a
  weighed : Weighed (treeP a) a 628
  root : a.getFreq 628 = 0xFFFF
  total : a.getFreq 629 + a.getFreq 630 ≤ a.totalP.toNat + 1
  totalBound : a.totalP.toNat ≤ 0x8000

theorem weighedP_of_pTree {a : Arena} (h : a.PTree) : WeighedP a := by
  obtain ⟨hw, ⟨hlo, hhi, heven⟩, hnode, hleaf, hparent, horder, hpos, ⟨hchild, hroot⟩, htotal, hbound⟩ := h
  have hmost : MostP a := ⟨hlo, hhi, heven⟩
  have hbefore {n c : Nat} (hn : 628 ≤ n) (hnm : n ≤ a.mostP.toNat) (hc : a.getChild n = (c : Int)) (hc2 : 630 ≤ c)
      (hcm : c ≤ a.mostP.toNat) (hsum : n ≠ 628 → a.getFreq n = a.getFreq c + a.getFreq (c - 1)) : n + 2 ≤ c := by
    by_cases hn0 : n = 628
    · omega
    · exact before_child (base := 629) (fun k hk hk' => horder k hk hk') (hpos c (by change 628 < c; omega) hcm) (by omega)
        hnm (hsum hn0)
  have hin {n : Nat} (hn : (treeP a).Node n) := (node_treeP hmost).mp hn
  have hnode' (n : Nat) (hn : (treeP a).Node n) :
      (∃ x, (treeP a).Sym x ∧ a.getChild n = leafLink x ∧ a.getSNode x = n) ∨
      ∃ c : Nat, a.getChild n = (c : Int) ∧ n + 2 ≤ c ∧ (treeP a).Node c ∧ a.getParent c = n ∧ a.getParent (c - 1) = n := by
    rcases hnode n (hin hn).1 (hin hn).2 with ⟨x, hx, hc, hs⟩ | ⟨c, hc, hc2, hcm, hp, hp', hsum⟩
    · exact .inl ⟨_, sym_treeP.mpr ⟨x, rfl, hx⟩, hc, hs⟩
    · exact .inr ⟨c, hc, hbefore (hin hn).1 (hin hn).2 hc hc2 hcm hsum, (node_treeP hmost).mpr ⟨by omega, hcm⟩, hp, hp'⟩
  refine ⟨hmost, ⟨hw, ⟨?_, .inr ⟨rfl, rfl, ?_⟩⟩, hchild, hnode', fun x hx => ?_, fun n hn hn' => ?_⟩,
    ⟨fun n c hn hn' hc => ?_, fun n hn hn' => horder n hn (hin hn').2, fun n hn hn' => hpos n hn (hin hn').2⟩, hroot,
    htotal, hbound⟩
  · change 2 ≤ (a.mostP.toNat - 628) / 2 + 1
    omega
  · change (a.mostP.toNat - 628) / 2 + 1 ≤ 128
    omega
  · obtain ⟨y, rfl, hy⟩ := sym_treeP.mp hx
    obtain ⟨hlt, hle, hc⟩ := hleaf y hy
    exact ⟨(node_treeP hmost).mpr ⟨hlt.le, hle⟩, hc⟩
  · obtain ⟨hplo, hphi, hbelow⟩ := hparent n hn (hin hn').2
    have hpn := (node_treeP hmost).mpr ⟨hplo, hphi⟩
    have hb : Below (a.getChild (a.getParent n)) n := by unfold Below; omega
    refine ⟨hpn, ?_, hb⟩
    rcases hnode' _ hpn with ⟨x, -, hc, -⟩ | ⟨c, hc, hlt, -⟩
    · exact absurd (hc ▸ hb) (not_below_leafLink _ _)
    · rcases below_natCast.mp (hc ▸ hb) with h | h <;> omega
  · rcases hnode n (hin hn').1 (hin hn').2 with ⟨x, -, hx, -⟩ | ⟨d, hd, -, -, -, -, hsum⟩
    · exact absurd (hx.symm.trans hc) (leafLink_ne_natCast _ _)
    · obtain rfl : c = d := by omega
      change 628 < n at hn
      rw [if_neg (by omega), hsum (by change n ≠ 628; omega), Nat.add_zero]

theorem WeighedP.pTree {a : Arena} (h : WeighedP a) : a.PTree := by
  obtain ⟨hmost, hl, hv, hroot, htotal, hbound⟩ := h
  have hin {n : Nat} := node_treeP (n := n) hmost
  have hchild : a.getChild 628 = 630 := hl.root
  refine ⟨hl.wf, ⟨hmost.low, hmost.high, hmost.even⟩, fun n hn hn' => ?_, fun x hx => ?_, fun n hn hn' => ?_,
    fun n hn hn' => hv.order n hn (hin.mpr ⟨by change 628 < n at hn; omega, hn'⟩),
    fun n hn hn' => hv.positive n hn (hin.mpr ⟨hn.le, hn'⟩), ⟨hchild, hroot⟩, htotal, hbound⟩
  · rcases hl.node n (hin.mpr ⟨hn, hn'⟩) with ⟨x, hx, hc, hs⟩ | ⟨c, hc, hlt, hcn, hp, hp'⟩
    · obtain ⟨y, rfl, hy⟩ := sym_treeP.mp hx
      exact .inl ⟨y, hy, hc, hs⟩
    · change 628 ≤ n at hn
      refine .inr ⟨c, hc, by omega, (hin.mp hcn).2, hp, hp', fun hne => ?_⟩
      change n ≠ 628 at hne
      have hsum := hv.sum n c (show 628 < n by omega) (hin.mpr ⟨hn, hn'⟩) hc
      rw [if_neg hne] at hsum
      omega
  · have hsym := sym_treeP.mpr ⟨x, rfl, hx⟩
    obtain ⟨hn, hc⟩ := hl.leaf _ hsym
    exact ⟨hl.sNode_ne_base hsym, (hin.mp hn).2, hc⟩
  · obtain ⟨hp, -, hbelow⟩ := hl.parent n hn (hin.mpr ⟨hn.le, hn'⟩)
    unfold Below at hbelow
    exact ⟨(hin.mp hp).1, (hin.mp hp).2, by omega⟩

/-! ### The other tree -/

theorem Outside.sameP {m : Nat} {a b : Arena} (hm : m ≤ 314) (h : Outside (spanC m) a b) (hr : OnlyRams a b) :
    a.sameP b := by
  refine ⟨fun j hj => ?_, fun x hx => h.sNode x fun hs => ?_, by rw [hr], by rw [hr], by rw [hr], by rw [hr], by rw [hr]⟩
  · change 628 ≤ j at hj
    have hout : ¬(spanC m).Node j := fun hn => by
      have := node_spanC.mp hn
      omega
    exact ⟨h.freq j hout, h.child j hout, h.parent j fun hn => hout hn.2⟩
  · have := sym_spanC.mp hs
    change 314 ≤ x at hx
    omega

theorem Outside.sameC {m : Nat} {a b : Arena} (h : Outside (spanP m) a b) (hn : b.nMax = a.nMax) (h1 : b.n1 = a.n1)
    (hv : b.validC = a.validC) : a.sameC b := by
  refine ⟨fun j hj => ?_, fun x hx => h.sNode x fun hs => ?_, hn, h1, hv⟩
  · have hout : ¬(spanP m).Node j := fun hn => absurd hn.1 (not_le.mpr hj)
    exact ⟨h.freq j hout, h.child j hout, h.parent j fun hn => hout hn.2⟩
  · exact absurd hs.1 (not_le.mpr hx)

end Sys2Proof.Proofs
end

section
/-! PROOFS. DYN_UPDATE_C, DYN_UPDATE_P and DYN_NEW_NODE on trees that obey the laws (O40, O41). -/

namespace Sys2Proof.Proofs

open Sys2Proof.Machine Sys2Proof.Laws

/-! ### The commands on the arena -/

/-- The state after a command that has replaced the arena and moved the draw counter. -/
def withArena (s : State) (x : Arena × Nat) : State := { s with arena := x.1, draws := x.2 }

theorem withArena_draws (s : State) (a : Arena) : withArena s (a, s.draws) = { s with arena := a } := rfl

section Commands

variable {s : State} (he : s.estate ≠ .failed)

include he

/-- A command that FAILED alone bars, that requires a flag and makes one check, both passed, and then goes on. -/
theorem command_checked {legal : Bool} {p bad : State → Bool} {c : ErrCode} {m : State → Eng Unit} {u : State}
    (hl : legal = true) (hp : p (issued s) = true) (hbad : bad (issued s) = false)
    (hm : m (issued s) (issued s) = .ok () (issued u)) :
    command legal notInFailed (do
      require p
      let t ← get
      raiseIf (bad t) c
      m t) s = .next (u.ended []) := by
  have hpassed : raiseIf (bad (issued s)) c (issued s) = .ok () (issued s) := by rw [hbad, eng_raiseIf_false]
  exact command_ended _ [] hl (notInFailed_iff.mpr he) ((bind_of_ok (eng_require_true hp)).trans
    ((bind_of_ok (eng_get _)).trans ((bind_of_ok hpassed).trans hm)))

theorem exec_dynUpdateC {x : BitVec 9} (hv : s.arena.validC = true) (hx : x.toNat < s.arena.nMax.toNat)
    (hlegal : x.toNat < 314) :
    exec (.dynUpdateC x) s = .next ((withArena s (Arena.updateC x.toNat s.arena s.draws)).ended []) :=
  command_checked (bad := fun s => decide (s.arena.nMax.toNat ≤ x.toNat)) he (decide_eq_true hlegal) hv
    (decide_eq_false (not_le.mpr hx)) rfl

theorem exec_dynUpdateP {x : BitVec 7} (hv : s.arena.validP = true) (hx : x.toNat ≤ s.arena.lastPosition) :
    exec (.dynUpdateP x) s = .next ((withArena s (Arena.updateP x.toNat s.arena s.draws)).ended []) :=
  command_checked (bad := fun s => decide (s.arena.lastPosition < x.toNat)) he rfl hv
    (decide_eq_false (not_lt.mpr hx)) rfl

theorem exec_dynNewNode {x : BitVec 7} (hv : s.arena.validP = true) (hx : x.toNat = s.arena.lastPosition + 1)
    (hroom : s.arena.mostP.toNat + 2 < 884) :
    exec (.dynNewNode x) s = .next ((withArena s (Arena.makeNewNode x.toNat s.arena s.draws)).ended []) := by
  have hfull : s.arena.full = false := decide_eq_false (not_le.mpr hroom)
  have hpassed : raiseIf s.arena.full .indexOverflow (issued s) = .ok () (issued s) := by rw [hfull, eng_raiseIf_false]
  exact command_checked (bad := fun s => decide (x.toNat ≠ s.arena.lastPosition + 1)) he rfl hv
    (decide_eq_false (not_not.mpr hx)) ((bind_of_ok hpassed).trans rfl)

theorem exec_dynReconst_C (hv : s.arena.validC = true) :
    exec (.dynReconst 0#5) s = .next ((withArena s (s.arena.reconstC s.draws)).ended []) :=
  command_ended _ [] rfl (notInFailed_iff.mpr he) (bind_of_ok (eng_require_true hv))

theorem exec_dynReconst_P (hv : s.arena.validP = true) (hm : s.arena.mostP.toNat ≠ 628) :
    exec (.dynReconst 1#5) s = .next ((withArena s (s.arena.reconstP s.draws)).ended []) :=
  command_checked (bad := fun s => decide (s.arena.mostP.toNat = rootP)) he rfl hv (decide_eq_false hm) rfl

end Commands

/-! ### The start of a climb -/

theorem Weighed.start {t : Span} {a : Arena} {x : Nat} (hl : Linked t a) (hv : Weighed t a t.base) (hx : t.Sym x) :
    Weighed t a (a.getSNode x) := by
  refine ⟨fun n c hn hnode hc => ?_, hv.order, hv.positive⟩
  have hne : n ≠ a.getSNode x := fun h => by
    rw [h, (hl.leaf x hx).2] at hc
    exact leafLink_ne_natCast _ _ hc
  rw [hv.sum n c hn hnode hc, if_neg hn.ne', if_neg hne]

theorem Weighed.setRoot {t : Span} {a : Arena} {q v : Nat} (hl : Linked t a) (hv : Weighed t a q) (hfits : v < 65536) :
    Weighed t (a.setFreq t.base v) q := by
  have hbase := hl.fits.node_lt (n := t.base) ⟨le_rfl, by have := hl.fits.grown; omega⟩
  have hread {j : Nat} (hj : t.base < j) : (a.setFreq t.base v).getFreq j = a.getFreq j := by
    rw [getFreq_setFreq hl.wf hbase hfits, if_neg hj.ne']
  refine ⟨fun n c hn hnode hc => ?_, fun n hn hnode => ?_, fun n hn hnode => ?_⟩
  · obtain ⟨hlt, -⟩ := hl.children hnode hc
    rw [hread (by omega), hread (by omega), hread hn]
    exact hv.sum n c hn hnode hc
  · rw [hread (by omega), hread hn]
    exact hv.order n hn hnode
  · rw [hread hn]
    exact hv.positive n hn hnode

/-! ### The literal/length tree -/

theorem updateC_unsaturated {a : Arena} (h : a.getFreq 0 ≠ 0x8000) (x k : Nat) :
    Arena.updateC x a k = Arena.climb 0 arenaBound ((a.setFreq 0 (a.getFreq 0 + 1)).inc (a.getSNode x)).1
      ((a.setFreq 0 (a.getFreq 0 + 1)).inc (a.getSNode x)).2 k := by
  have hroom : a.getFreq rootC ≠ 0x8000 := h
  rw [Arena.updateC, if_neg hroom]
  rfl

theorem updateC_keeps {a : Arena} (h : WeighedC a) (hroom : a.getFreq 0 < 0x8000) {x : Nat} (hx : x < a.nMax.toNat)
    (k : Nat) : ∃ b, Arena.updateC x a k = (b, k) ∧ WeighedC b ∧ OnlyRams a b ∧ Outside (spanC a.nMax.toNat) a b ∧
      b.getFreq 0 = a.getFreq 0 + 1 ∧
      ∀ y, y < a.nMax.toNat → b.weight y = if y = x then a.weight y + 1 else a.weight y := by
  obtain ⟨hl, hv, hsum, hbound⟩ := h
  have hsym := sym_spanC.mpr hx
  have hroot := (hl.sNode_ne_base hsym).ne'
  have hread := getFreq_setFreq hl.wf (i := 0) (v := a.getFreq 0 + 1) (by decide) (by omega)
  have hstart : Climbing (spanC a.nMax.toNat) (a.getFreq 0 + 1) (a.setFreq 0 (a.getFreq 0 + 1)) (a.getSNode x) := by
    refine ⟨hl.setFreq _ _, (hv.start hl hsym).setRoot hl (by omega), (hl.leaf x hsym).1, ?_, ?_⟩
    · change Arena.getFreq _ 1 + Arena.getFreq _ 2 + _ = _
      rw [if_neg hroot, hread, hread, if_neg (by decide), if_neg (by decide)]
      omega
    · exact ((hread 0).trans (if_pos rfl)).ge
  obtain ⟨b, hb, hclimbed, hbase, hout, hweight⟩ := hstart.count hsym arenaBound k (by decide)
  have hrun : Arena.updateC x a k = (b, k) := by
    rw [updateC_unsaturated (by omega)]
    exact (climb_step (root := 0) hroot _ _ _).symm.trans hb
  have hrams : OnlyRams a b := by
    have := (setFreq_onlyRams a 0 (a.getFreq 0 + 1)).trans
      (climb_onlyRams 0 (arenaBound + 1) (a.setFreq 0 (a.getFreq 0 + 1)) (a.getSNode x) k)
    rwa [show (Arena.climb 0 (arenaBound + 1) (a.setFreq 0 (a.getFreq 0 + 1)) (a.getSNode x) k).1 = b from
      congrArg Prod.fst hb] at this
  have hmax : b.nMax = a.nMax := by rw [hrams]
  have hfreq : b.getFreq 0 = a.getFreq 0 + 1 := hbase.trans ((hread 0).trans (if_pos rfl))
  have htotal : b.getFreq 1 + b.getFreq 2 + 0 = a.getFreq 0 + 1 := hclimbed.rootSum
  refine ⟨b, hrun, ⟨hmax ▸ hclimbed.linked, hmax ▸ hclimbed.weighed, by omega, by omega⟩, hrams, ?_, hfreq,
    fun y hy => ?_⟩
  · refine Outside.trans (b := a.setFreq 0 (a.getFreq 0 + 1))
      ⟨fun j hj => ?_, fun _ _ => rfl, fun _ _ => rfl, fun _ _ => rfl⟩ hout
    have hj0 : j ≠ 0 := fun h => hj (node_spanC.mpr (by omega))
    rw [hread, if_neg hj0]
  · have hy0 := (hl.sNode_ne_base (sym_spanC.mpr hy)).ne'
    have hsame : (a.setFreq 0 (a.getFreq 0 + 1)).weight y = a.weight y := (hread _).trans (if_neg hy0)
    rw [hweight y (sym_spanC.mpr hy), hsame]

/-- Settles O40: the update is a climb from the symbol's leaf, each step of which keeps the tree's laws but for the increment
that is still to come (`Climbing.inc`). -/
theorem dynUpdateCKeepsTreeLaws : Obligations.DynUpdateCKeepsTreeLaws := by
  unfold Obligations.DynUpdateCKeepsTreeLaws
  intro s x he hv htree hx hroom
  obtain ⟨b, hb, hkept, hrams, hout, hroot, hweight⟩ := updateC_keeps (weighedC_of_cTree htree) hroom hx s.draws
  have hmax := htree.size.2
  refine ⟨b, ?_, hkept.cTree, by rw [hrams], by rw [hrams], by rw [hrams]; exact hv, hroot, hweight, hout.sameP hmax hrams⟩
  rw [exec_dynUpdateC he hv hx (by omega), hb, withArena_draws]

end Sys2Proof.Proofs
end

section
/-! PROOFS. -/

namespace Sys2Proof.Proofs

open Sys2Proof.Machine Sys2Proof.Laws

/-! ### The grown position tree -/

theorem countLeafP_unsaturated {a : Arena} (h : a.totalP ≠ 0x8000#16) (sym k : Nat) :
    Arena.countLeafP sym a k = ({ (Arena.climb 628 arenaBound a (a.getSNode sym) k).1 with
      totalP := (Arena.climb 628 arenaBound a (a.getSNode sym) k).1.totalP + 1 },
      (Arena.climb 628 arenaBound a (a.getSNode sym) k).2) := by
  rw [Arena.countLeafP, if_neg h]
  rfl

/-- The end of a climb in the position tree, with the increment of TOTAL_P (R269). -/
theorem climbedP {a b : Arena} (hm : MostP a) (hrams : OnlyRams a b)
    (h : Climbing (treeP a) (a.getFreq 629 + a.getFreq 630 + 1) b 628) (hroot : b.getFreq 628 = 0xFFFF)
    (htotal : a.getFreq 629 + a.getFreq 630 ≤ a.totalP.toNat + 1) (hroom : a.totalP.toNat < 0x8000) :
    WeighedP { b with totalP := b.totalP + 1 } := by
  have hmost : b.mostP = a.mostP := by rw [hrams]
  have htot : (b.totalP + 1).toNat = a.totalP.toNat + 1 := by
    rw [hrams, BitVec.toNat_add]
    change (a.totalP.toNat + 1) % 2 ^ 16 = _
    omega
  have hspan : treeP { b with totalP := b.totalP + 1 } = treeP a := by
    simp only [treeP, Arena.lastPosition, hmost]
  have hsum : b.getFreq 629 + b.getFreq 630 + 0 = _ := h.rootSum
  obtain ⟨hl, hv, -, -, -⟩ := h
  refine ⟨?_, ?_, ?_, hroot, ?_, ?_⟩
  · exact ⟨hmost ▸ hm.low, hmost ▸ hm.high, hmost ▸ hm.even⟩
  · rw [hspan]
    exact ⟨hl.wf, hl.fits, hl.root, hl.node, hl.leaf, hl.parent⟩
  · rw [hspan]
    exact ⟨hv.sum, hv.order, hv.positive⟩
  · change b.getFreq 629 + b.getFreq 630 ≤ (b.totalP + 1).toNat + 1
    omega
  · change (b.totalP + 1).toNat ≤ 0x8000
    omega

theorem updateP_keeps {a : Arena} (h : WeighedP a) (hroom : a.totalP.toNat < 0x8000) {x : Nat} (hx : x ≤ a.lastPosition)
    (k : Nat) : ∃ b, Arena.updateP x a k = (b, k) ∧ WeighedP b ∧ Rewrites a b ∧ Outside (treeP a) a b ∧
      b.totalP = a.totalP + 1 ∧
      ∀ y, y ≤ a.lastPosition → b.weight (314 + y) = if y = x then a.weight (314 + y) + 1 else a.weight (314 + y) := by
  obtain ⟨hm, hl, hv, hroot, htotal, -⟩ := h
  have hsym := sym_treeP.mpr ⟨x, rfl, hx⟩
  have hne := (hl.sNode_ne_base hsym).ne'
  have hstart : Climbing (treeP a) (a.getFreq 629 + a.getFreq 630 + 1) a (a.getSNode (314 + x)) := by
    refine ⟨hl, hv.start hl hsym, (hl.leaf _ hsym).1, ?_, ?_⟩
    · rw [if_neg hne]
      rfl
    · change _ ≤ a.getFreq 628
      omega
  obtain ⟨b, hb, hclimbed, hbase, hout, hweight⟩ := hstart.count hsym 2047 k (by decide)
  have hb' : Arena.climb 628 arenaBound a (a.getSNode (314 + x)) k = (b, k) := hb
  have hrams : OnlyRams a b := by
    have := climb_onlyRams 628 arenaBound a (a.getSNode (314 + x)) k
    rwa [hb'] at this
  have htree := climbedP hm hrams hclimbed (hbase.trans hroot) htotal hroom
  have hne' : a.totalP ≠ 0x8000#16 := fun h => by
    rw [h] at hroom
    exact absurd hroom (by decide)
  have hrun : Arena.updateP x a k = ({ b with totalP := b.totalP + 1 }, k) := by
    have := countLeafP_unsaturated hne' (314 + x) k
    rwa [hb'] at this
  refine ⟨_, hrun, htree, ?_, ⟨hout.freq, hout.child, hout.parent, hout.sNode⟩, by rw [hrams], fun y hy => ?_⟩
  · have := rewrites_countLeafP (nChar + x) a k
    rwa [show Arena.countLeafP (nChar + x) a k = _ from hrun] at this
  · exact (hweight _ (sym_treeP.mpr ⟨y, rfl, hy⟩)).trans (if_congr Nat.add_left_cancel_iff rfl rfl)

/-! ### Growth -/

/-- The root's sentinel, where the tree grows from one leaf (R275). -/
def sealedRoot (most : Nat) (a : Arena) : Arena := if most = 628 then a.setFreq 628 0xFFFF else a

/-- The child links that `MakeNewNode(p)` writes, and the leaf it moves (R275). -/
def plantedLinks (p : Nat) (a : Arena) : Arena :=
  let most := a.mostP.toNat
  let b := a.setChild (most + 1) (a.getChild most)
  let b := b.linkLeaf (b.getChild (most + 1)) (most + 1)
  (b.setChild (most + 2) (leafLink (314 + p))).setChild most ((most + 2 : Nat) : Int)

/-- The weights that `MakeNewNode(p)` writes besides. -/
def plantedNodes (p : Nat) (a : Arena) : Arena :=
  let most := a.mostP.toNat
  let b := plantedLinks p a
  sealedRoot most ((b.setFreq (most + 1) (b.getFreq most)).setFreq (most + 2) 0)

/-- The RAMs of `MakeNewNode(p)` before its update (R275). -/
def planted (p : Nat) (a : Arena) : Arena :=
  let most := a.mostP.toNat
  (((plantedNodes p a).setParent (most + 1) most).setParent (most + 2) most).setSNode (314 + p) (most + 2)

theorem makeNewNode_eq (p : Nat) (a : Arena) (k : Nat) :
    Arena.makeNewNode p a k =
      Arena.updateP p { planted p a with mostP := BitVec.ofNat 10 (a.mostP.toNat + 2) } k := rfl

section Planted

variable {a : Arena} {most y p : Nat}

@[simp] theorem getChild_sealedRoot (j : Nat) : (sealedRoot most a).getChild j = a.getChild j := by
  unfold sealedRoot
  split <;> rfl

@[simp] theorem getParent_sealedRoot (j : Nat) : (sealedRoot most a).getParent j = a.getParent j := by
  unfold sealedRoot
  split <;> rfl

@[simp] theorem getSNode_sealedRoot (x : Nat) : (sealedRoot most a).getSNode x = a.getSNode x := by
  unfold sealedRoot
  split <;> rfl

theorem getFreq_sealedRoot (hw : a.wf = true) (j : Nat) :
    (sealedRoot most a).getFreq j = if j = 628 ∧ most = 628 then 0xFFFF else a.getFreq j := by
  unfold sealedRoot
  split
  case isTrue h => rw [getFreq_setFreq hw (by decide) (by decide)]; simp [h]
  case isFalse h => simp [h]

theorem sealedRoot_wf (hw : a.wf = true) : (sealedRoot most a).wf = true := by
  unfold sealedRoot
  split
  · exact setFreq_wf hw _ _
  · exact hw

theorem sealedRoot_onlyRams : OnlyRams a (sealedRoot most a) := by
  unfold sealedRoot
  split
  · exact setFreq_onlyRams _ _ _
  · exact OnlyRams.rfl

theorem plantedLinks_wf (hw : a.wf = true) : (plantedLinks p a).wf = true :=
  setChild_wf (setChild_wf (linkLeaf_wf (setChild_wf hw _ _) _ _) _ _) _ _

theorem plantedNodes_wf (hw : a.wf = true) : (plantedNodes p a).wf = true :=
  sealedRoot_wf (setFreq_wf (setFreq_wf (plantedLinks_wf hw) _ _) _ _)

theorem planted_wf (hw : a.wf = true) : (planted p a).wf = true :=
  setSNode_wf (setParent_wf (setParent_wf (plantedNodes_wf hw) _ _) _ _) _ _

theorem planted_onlyRams : OnlyRams a (planted p a) :=
  (setChild_onlyRams _ _ _).trans <| (linkLeaf_onlyRams _ _ _).trans <| (setChild_onlyRams _ _ _).trans <|
    (setChild_onlyRams _ _ _).trans <| (setFreq_onlyRams _ _ _).trans <| (setFreq_onlyRams _ _ _).trans <|
    sealedRoot_onlyRams.trans <| (setParent_onlyRams _ _ _).trans <| (setParent_onlyRams _ _ _).trans <|
    setSNode_onlyRams _ _ _

variable (hw : a.wf = true) (hhi : a.mostP.toNat + 2 < 884) (hleaf : a.getChild a.mostP.toNat = leafLink y) (hy : y < 442)
  (hp : p < 128)

include hw hhi

theorem planted_getFreq (j : Nat) : (planted p a).getFreq j =
    if j = 628 ∧ a.mostP.toNat = 628 then 0xFFFF else if j = a.mostP.toNat + 2 then 0
    else if j = a.mostP.toNat + 1 then a.getFreq a.mostP.toNat else a.getFreq j := by
  have hfits : a.getFreq a.mostP.toNat < 65536 := (cellGet 0#16 a.freq _).isLt
  have hlinks : (plantedLinks p a).getFreq = a.getFreq := by
    funext i
    simp [plantedLinks]
  simp only [planted, plantedNodes, getFreq_setSNode, getFreq_setParent, hlinks]
  rw [getFreq_sealedRoot (setFreq_wf (setFreq_wf (plantedLinks_wf hw) _ _) _ _),
    getFreq_setFreq (setFreq_wf (plantedLinks_wf hw) _ _) hhi (by decide),
    getFreq_setFreq (plantedLinks_wf hw) (by omega) hfits, hlinks]

theorem planted_getParent (j : Nat) : (planted p a).getParent j =
    if j = a.mostP.toNat + 2 ∨ j = a.mostP.toNat + 1 then a.mostP.toNat else a.getParent j := by
  have hm : a.mostP.toNat < 1024 := by omega
  have hnodes : (plantedNodes p a).getParent j = a.getParent j := by simp [plantedNodes, plantedLinks]
  rw [planted, getParent_setSNode, getParent_setParent (setParent_wf (plantedNodes_wf hw) _ _) hhi hm,
    getParent_setParent (plantedNodes_wf hw) (by omega) hm, hnodes, ite_or]

include hp in
theorem planted_getChild (j : Nat) : (planted p a).getChild j =
    if j = a.mostP.toNat then ((a.mostP.toNat + 2 : Nat) : Int) else if j = a.mostP.toNat + 2 then leafLink (314 + p)
    else if j = a.mostP.toNat + 1 then a.getChild a.mostP.toNat else a.getChild j := by
  have hb := getChild_bounds a a.mostP.toNat
  have hnew : -32768 ≤ leafLink (314 + p) ∧ leafLink (314 + p) < 32768 := by unfold leafLink; omega
  have hnodes : (planted p a).getChild j = (plantedLinks p a).getChild j := by simp [planted, plantedNodes]
  have hmoved := linkLeaf_wf (setChild_wf hw (a.mostP.toNat + 1) (a.getChild a.mostP.toNat))
  rw [hnodes, plantedLinks, getChild_setChild (setChild_wf (hmoved _ _) _ _) (by omega) (by omega) (by omega),
    getChild_setChild (hmoved _ _) hhi hnew.1 hnew.2, getChild_linkLeaf, getChild_setChild hw (by omega) hb.1 hb.2]

include hleaf hy hp in
theorem planted_getSNode (x : Nat) : (planted p a).getSNode x =
    if x = 314 + p then a.mostP.toNat + 2 else if x = y then a.mostP.toNat + 1 else a.getSNode x := by
  have hb := getChild_bounds a a.mostP.toNat
  have hc : (a.setChild (a.mostP.toNat + 1) (a.getChild a.mostP.toNat)).getChild (a.mostP.toNat + 1) = leafLink y := by
    rw [getChild_setChild hw (by omega) hb.1 hb.2, if_pos rfl, hleaf]
  rw [planted, getSNode_setSNode (setParent_wf (setParent_wf (plantedNodes_wf hw) _ _) _ _) (by omega) (by omega)]
  simp only [plantedNodes, plantedLinks, hc, getSNode_setParent, getSNode_sealedRoot, getSNode_setFreq, getSNode_setChild]
  rw [Arena.linkLeaf, if_pos (leafLink_neg y), leafSymbol_leafLink, getSNode_setSNode (setChild_wf hw _ _) hy (by omega),
    getSNode_setChild]

end Planted

end Sys2Proof.Proofs
end

section
/-! PROOFS. Growth of the position tree keeps its laws (R275, R277), and the commands that count a position (O41). -/

namespace Sys2Proof.Proofs

open Sys2Proof.Machine Sys2Proof.Laws

/-! ### The grown tree before its update -/

/-- The arena of `MakeNewNode(p)` before its update (R275). -/
def grown (p : Nat) (a : Arena) : Arena := { planted p a with mostP := BitVec.ofNat 10 (a.mostP.toNat + 2) }

theorem Climbing.withMostP {t : Span} {m q : Nat} {a : Arena} (h : Climbing t m a q) (v : BitVec 10) :
    Climbing t m { a with mostP := v } q := by
  obtain ⟨⟨hw, hf, hroot, hnode, hleaf, hparent⟩, ⟨hsum, horder, hpos⟩, hnext, hrootSum, hbound⟩ := h
  exact ⟨⟨hw, hf, hroot, hnode, hleaf, hparent⟩, ⟨hsum, horder, hpos⟩, hnext, hrootSum, hbound⟩

section Grow

variable {a : Arena} {p : Nat} (h : WeighedP a) (hp : p = a.lastPosition + 1) (hroom : a.mostP.toNat + 2 < 884)

include h

/-- The last node of a grown tree is a leaf. -/
theorem WeighedP.lastLeaf : ∃ y, (treeP a).Sym y ∧ a.getChild a.mostP.toNat = leafLink y ∧ a.getSNode y = a.mostP.toNat := by
  have hin {n : Nat} := node_treeP (n := n) h.most
  have hlo := h.most.low
  rcases h.linked.node a.mostP.toNat (hin.mpr ⟨by omega, le_rfl⟩) with hleaf | ⟨c, -, hlt, hcn, -⟩
  · exact hleaf
  · have := hin.mp hcn
    omega

include hp hroom

theorem WeighedP.node_grown {n : Nat} :
    (spanP (p + 1)).Node n ↔ n = a.mostP.toNat + 2 ∨ n = a.mostP.toNat + 1 ∨ (treeP a).Node n := by
  rw [node_treeP h.most]
  obtain ⟨hlo, -, heven⟩ := h.most
  simp only [Span.Node, spanP, hp, Arena.lastPosition, rootP]
  omega

omit h hroom in
theorem sym_grown {x : Nat} : (spanP (p + 1)).Sym x ↔ x = 314 + p ∨ (treeP a).Sym x := by
  simp only [Span.Sym, treeP, spanP, hp]
  omega

theorem WeighedP.position_lt : p < 128 := by
  have hlo := h.most.low
  simp only [hp, Arena.lastPosition, rootP]
  omega

theorem WeighedP.linked_planted : Linked (spanP (p + 1)) (planted p a) := by
  obtain ⟨y, hy, hleaf, hys⟩ := h.lastLeaf
  have hp128 := h.position_lt hp hroom
  have hin {n : Nat} := node_treeP (n := n) h.most
  have hlo := h.most.low
  have hnode {n : Nat} := h.node_grown hp hroom (n := n)
  have hsym {x : Nat} := sym_grown hp (x := x)
  have hnew {x : Nat} (hx : (treeP a).Sym x) : x ≠ 314 + p := by
    obtain ⟨z, rfl, hz⟩ := sym_treeP.mp hx
    omega
  have hl := h.linked
  have hC := planted_getChild (p := p) h.linked.wf hroom hp128
  have hP := planted_getParent (p := p) h.linked.wf hroom
  have hS := planted_getSNode (p := p) h.linked.wf hroom hleaf (h.linked.fits.sym_lt hy) hp128
  refine ⟨planted_wf h.linked.wf, ⟨?_, .inr ⟨rfl, rfl, ?_⟩⟩, ?_, fun n hn => ?_, fun x hx => ?_, fun n hn hn' => ?_⟩
  · change 2 ≤ p + 1
    omega
  · change p + 1 ≤ 128
    omega
  · change (planted p a).getChild 628 = _
    rw [hC, if_neg (by omega), if_neg (by omega), if_neg (by omega)]
    exact hl.root
  · rcases hnode.mp hn with rfl | rfl | hold
    · exact .inl ⟨314 + p, hsym.mpr (.inl rfl), by rw [hC, if_neg (by omega), if_pos rfl], by rw [hS, if_pos rfl]⟩
    · exact .inl ⟨y, hsym.mpr (.inr hy), by rw [hC, if_neg (by omega), if_neg (by omega), if_pos rfl, hleaf],
        by rw [hS, if_neg (hnew hy), if_pos rfl]⟩
    · have hle := hin.mp hold
      by_cases hlast : n = a.mostP.toNat
      · refine .inr ⟨a.mostP.toNat + 2, by rw [hC, if_pos hlast], by omega, hnode.mpr (.inl rfl), ?_, ?_⟩
        · rw [hP, if_pos (.inl rfl), hlast]
        · rw [hP, if_pos (.inr (by omega)), hlast]
      · have hchild : (planted p a).getChild n = a.getChild n := by
          rw [hC, if_neg hlast, if_neg (by omega), if_neg (by omega)]
        rcases hl.node n hold with ⟨x, hx, hc, hs⟩ | ⟨c, hc, hlt, hcn, hpc, hpc'⟩
        · have hxy : x ≠ y := fun hxy => hlast (by rw [← hs, hxy, hys])
          exact .inl ⟨x, hsym.mpr (.inr hx), hchild.trans hc, by rw [hS, if_neg (hnew hx), if_neg hxy, hs]⟩
        · have := hin.mp hcn
          exact .inr ⟨c, hchild.trans hc, hlt, hnode.mpr (.inr (.inr hcn)), by rw [hP, if_neg (by omega), hpc],
            by rw [hP, if_neg (by omega), hpc']⟩
  · rcases hsym.mp hx with rfl | hold
    · rw [hS, if_pos rfl, hC, if_neg (by omega), if_pos rfl]
      exact ⟨hnode.mpr (.inl rfl), rfl⟩
    · rw [hS, if_neg (hnew hold)]
      obtain ⟨hn, hc⟩ := hl.leaf x hold
      have hle := hin.mp hn
      split_ifs with hxy
      · rw [hC, if_neg (by omega), if_neg (by omega), if_pos rfl, hleaf, hxy]
        exact ⟨hnode.mpr (.inr (.inl rfl)), rfl⟩
      · have hlast : a.getSNode x ≠ a.mostP.toNat := fun hlast => by
          rw [hlast, hleaf] at hc
          exact hxy (leafLink_inj.mp hc).symm
        rw [hC, if_neg hlast, if_neg (by omega), if_neg (by omega)]
        exact ⟨hnode.mpr (.inr (.inr hn)), hc⟩
  · have hmost := hin.mpr ⟨show 628 ≤ a.mostP.toNat by omega, le_rfl⟩
    rcases hnode.mp hn' with rfl | rfl | hold
    · rw [hP, if_pos (.inl rfl), hC, if_pos rfl]
      exact ⟨hnode.mpr (.inr (.inr hmost)), by omega, .inl rfl⟩
    · rw [hP, if_pos (.inr rfl), hC, if_pos rfl]
      exact ⟨hnode.mpr (.inr (.inr hmost)), by omega, .inr (by omega)⟩
    · have hle := hin.mp hold
      obtain ⟨hpn, hlt, hbelow⟩ := hl.parent n hn hold
      rw [hP, if_neg (by omega), hC, if_neg (by omega), if_neg (by omega), if_neg (by omega)]
      exact ⟨hnode.mpr (.inr (.inr hpn)), hlt, hbelow⟩

omit hp in
/-- The weights of the grown tree, once the new leaf has weight 1. -/
theorem WeighedP.planted_counted (j : Nat) : ((planted p a).setFreq (a.mostP.toNat + 2) 1).getFreq j =
    if j = a.mostP.toNat + 2 then 1 else if j = a.mostP.toNat + 1 then a.getFreq a.mostP.toNat else a.getFreq j := by
  have hlo := h.most.low
  rw [getFreq_setFreq (planted_wf h.linked.wf) hroom (by decide), planted_getFreq h.linked.wf hroom,
    if_neg (show ¬(j = 628 ∧ a.mostP.toNat = 628) by omega)]
  split_ifs <;> rfl

/-- Once the new leaf has weight 1, the increment of its parent, the node that was the last leaf, is still to come. -/
theorem WeighedP.weighed_planted :
    Weighed (spanP (p + 1)) ((planted p a).setFreq (a.mostP.toNat + 2) 1) a.mostP.toNat := by
  obtain ⟨y, hy, hleaf, -⟩ := h.lastLeaf
  have hin {n : Nat} := node_treeP (n := n) h.most
  have hlo := h.most.low
  have hnode {n : Nat} := h.node_grown hp hroom (n := n)
  have hv := h.weighed
  have hF := h.planted_counted (p := p) hroom
  have hmost := hin.mpr ⟨show 628 ≤ a.mostP.toNat by omega, le_rfl⟩
  refine ⟨fun n c hn hn' hc => ?_, fun n hn hn' => ?_, fun n hn hn' => ?_⟩
  · rw [getChild_setFreq, planted_getChild h.linked.wf hroom (h.position_lt hp hroom)] at hc
    split_ifs at hc with hlast h2 h1
    · obtain rfl : c = a.mostP.toNat + 2 := by omega
      rw [hF, hF, hF, if_pos rfl, if_neg (by omega), if_pos (by omega), hlast, if_neg (by omega), if_neg (by omega),
        if_pos rfl, Nat.add_comm]
    · exact absurd hc (leafLink_ne_natCast _ _)
    · exact absurd (hleaf.symm.trans hc) (leafLink_ne_natCast _ _)
    · have hold : (treeP a).Node n := by
        rcases hnode.mp hn' with h | h | h
        · exact absurd h h2
        · exact absurd h h1
        · exact h
      obtain ⟨hlt, hcn, -⟩ := h.linked.children hold hc
      have hcle := hin.mp hcn
      have hsum := hv.sum n c hn hold hc
      rw [if_neg (show n ≠ 628 from hn.ne')] at hsum
      rw [hF, hF, hF, if_neg (by omega), if_neg (by omega), if_neg (by omega), if_neg (by omega), if_neg h2, if_neg h1,
        if_neg hlast, hsum]
  · have hpos := hv.positive _ (show 628 < a.mostP.toNat by omega) hmost
    rw [hF, hF]
    rcases hnode.mp hn' with h2 | h1 | hold
    · rw [if_pos h2, if_neg (by omega), if_pos (by omega)]
      exact hpos
    · obtain rfl : n = a.mostP.toNat := by omega
      rw [if_neg (by omega), if_pos rfl, if_neg (by omega), if_neg (by omega)]
    · have hle := hin.mp hold
      rw [if_neg (by omega), if_neg (by omega), if_neg (by omega), if_neg (by omega)]
      exact hv.order n hn hold
  · rw [hF]
    rcases hnode.mp hn' with h2 | h1 | hold
    · rw [if_pos h2]
    · rw [if_neg (by omega), if_pos h1]
      exact hv.positive _ (show 628 < a.mostP.toNat by omega) hmost
    · have hle := hin.mp hold
      rw [if_neg (by omega), if_neg (by omega)]
      exact hv.positive n hn hold

/-- The growth's first increment finds the new leaf alone with weight 0. -/
theorem WeighedP.inc_planted :
    (grown p a).inc (a.mostP.toNat + 2) = ((grown p a).setFreq (a.mostP.toNat + 2) 1, a.mostP.toNat) := by
  have hF := planted_getFreq (p := p) h.linked.wf hroom
  have hlo := h.most.low
  have hin {n : Nat} := node_treeP (n := n) h.most
  have hnode {n : Nat} := h.node_grown hp hroom (n := n)
  have hzero : (planted p a).getFreq (a.mostP.toNat + 2) = 0 := by rw [hF, if_neg (by omega), if_pos rfl]
  have hpos {n : Nat} (hn : (spanP (p + 1)).Node n) (hne : n ≠ a.mostP.toNat + 2) : (planted p a).getFreq n ≠ 0 := by
    have hold {m : Nat} (hm : (treeP a).Node m) : a.getFreq m ≠ 0 := by
      rcases Nat.lt_or_ge 628 m with hlt | hge
      · exact (Nat.lt_of_lt_of_le one_pos (h.weighed.positive m hlt hm)).ne'
      · rw [show m = 628 by have := hin.mp hm; omega, h.root]
        decide
    rw [hF, if_neg (by omega), if_neg hne]
    split_ifs with h1
    · exact hold (hin.mpr ⟨by omega, le_rfl⟩)
    · exact hold ((hnode.mp hn).resolve_left hne |>.resolve_left h1)
  have hnew : (spanP (p + 1)).Node (a.mostP.toNat + 2) := hnode.mpr (.inl rfl)
  obtain ⟨hge, hle, heq, -⟩ := leader_spec (planted_wf h.linked.wf) (h.linked_planted hp hroom).fits hnew
  have hlead : (grown p a).leader (a.mostP.toNat + 2) = a.mostP.toNat + 2 := by
    by_contra hne
    exact hpos ⟨hge, by have := hnew.2; omega⟩ hne (heq.trans hzero)
  rw [Arena.inc, hlead, if_neg (not_not.mpr rfl), show (grown p a).getFreq _ = 0 from hzero]
  exact congrArg (Prod.mk _) ((planted_getParent h.linked.wf hroom _).trans (if_pos (.inl rfl)))

theorem WeighedP.climbing_planted : Climbing (spanP (p + 1)) (a.getFreq 629 + a.getFreq 630 + 1)
    ((grown p a).setFreq (a.mostP.toNat + 2) 1) a.mostP.toNat := by
  refine Climbing.withMostP (a := (planted p a).setFreq (a.mostP.toNat + 2) 1) ?_ _
  have hlo := h.most.low
  have hF := h.planted_counted (p := p) hroom
  have htotal := h.total
  have hbound := h.totalBound
  refine ⟨(h.linked_planted hp hroom).setFreq _ _, h.weighed_planted hp hroom,
    (h.node_grown hp hroom).mpr (.inr (.inr ((node_treeP h.most).mpr ⟨by omega, le_rfl⟩))), ?_, ?_⟩
  · change Arena.getFreq _ 629 + Arena.getFreq _ 630 + (if a.mostP.toNat = 628 then 0 else 1) = _
    rw [hF, hF, if_neg (by omega), if_neg (by omega), if_neg (by omega), if_neg (by omega), if_neg (by omega)]
  · change _ ≤ Arena.getFreq _ 628
    rw [hF, if_neg (by omega), if_neg (by omega), h.root]
    omega

theorem WeighedP.outside_planted : Outside (spanP (p + 1)) a ((grown p a).setFreq (a.mostP.toNat + 2) 1) := by
  obtain ⟨y, hy, hleaf, -⟩ := h.lastLeaf
  have hp128 := h.position_lt hp hroom
  have hlo := h.most.low
  have hnode {n : Nat} := h.node_grown hp hroom (n := n)
  have hmost := (node_treeP h.most).mpr ⟨show 628 ≤ a.mostP.toNat by omega, le_rfl⟩
  have hout {j : Nat} (hj : ¬(spanP (p + 1)).Node j) :
      j ≠ a.mostP.toNat + 2 ∧ j ≠ a.mostP.toNat + 1 ∧ j ≠ a.mostP.toNat := by
    refine ⟨fun h => hj (hnode.mpr (.inl h)), fun h => hj (hnode.mpr (.inr (.inl h))), fun h => hj ?_⟩
    rw [h]
    exact hnode.mpr (.inr (.inr hmost))
  refine ⟨fun j hj => ?_, fun j hj => ?_, fun j hj => ?_, fun x hx => ?_⟩
  · obtain ⟨h2, h1, -⟩ := hout hj
    exact (h.planted_counted (p := p) hroom j).trans ((if_neg h2).trans (if_neg h1))
  · obtain ⟨h2, h1, h0⟩ := hout hj
    exact (planted_getChild h.linked.wf hroom hp128 j).trans ((if_neg h0).trans ((if_neg h2).trans (if_neg h1)))
  · refine (planted_getParent h.linked.wf hroom j).trans (if_neg fun hnew => hj ?_)
    rcases hnew with rfl | rfl
    · exact ⟨by change 628 < _; omega, hnode.mpr (.inl rfl)⟩
    · exact ⟨by change 628 < _; omega, hnode.mpr (.inr (.inl rfl))⟩
  · have hne : x ≠ 314 + p := fun h => hx ((sym_grown hp).mpr (.inl h))
    have hney : x ≠ y := fun h => hx ((sym_grown hp).mpr (.inr (h ▸ hy)))
    exact (planted_getSNode h.linked.wf hroom hleaf (h.linked.fits.sym_lt hy) hp128 x).trans
      ((if_neg hne).trans (if_neg hney))

theorem WeighedP.weight_planted {x : Nat} (hx : (spanP (p + 1)).Sym x) :
    ((grown p a).setFreq (a.mostP.toNat + 2) 1).weight x = if x = 314 + p then 1 else a.weight x := by
  obtain ⟨y, hy, hleaf, hys⟩ := h.lastLeaf
  have hF (j : Nat) : ((grown p a).setFreq (a.mostP.toNat + 2) 1).getFreq j = _ := h.planted_counted (p := p) hroom j
  have hS (x : Nat) : ((grown p a).setFreq (a.mostP.toNat + 2) 1).getSNode x = _ :=
    planted_getSNode h.linked.wf hroom hleaf (h.linked.fits.sym_lt hy) (h.position_lt hp hroom) x
  rw [Arena.weight, hF, hS, Arena.weight]
  by_cases hnew : x = 314 + p
  · rw [if_pos hnew, if_pos hnew, if_pos rfl]
  · have hold := (node_treeP h.most).mp (h.linked.leaf x (((sym_grown hp).mp hx).resolve_left hnew)).1
    rw [if_neg hnew, if_neg hnew]
    by_cases hxy : x = y
    · rw [if_pos hxy, if_neg (by omega), if_pos rfl, hxy, hys]
    · rw [if_neg hxy, if_neg (by omega), if_neg (by omega)]

/-- `MakeNewNode` of the next position keeps the laws of the tree and counts the position once (R275, R277). -/
theorem makeNewNode_counts (htotal : a.totalP.toNat < 0x8000) (k : Nat) :
    ∃ b, Arena.makeNewNode p a k = (b, k) ∧ WeighedP b ∧ b.totalP = a.totalP + 1 ∧ b.mostP = a.mostP + 2 ∧
      Outside (spanP (p + 1)) a b ∧
      ∀ x, (spanP (p + 1)).Sym x → b.weight x = if x = 314 + p then 1 else a.weight x := by
  have hlo := h.most.low
  have heven := h.most.even
  have hp128 := h.position_lt hp hroom
  have hF := h.planted_counted (p := p) hroom
  have hclimbing := h.climbing_planted hp hroom
  have hmost : (BitVec.ofNat 10 (a.mostP.toNat + 2)).toNat = a.mostP.toNat + 2 := by
    rw [BitVec.toNat_ofNat]
    omega
  have hregs : OnlyRams { a with mostP := BitVec.ofNat 10 (a.mostP.toNat + 2) }
      ((grown p a).setFreq (a.mostP.toNat + 2) 1) := by
    have := (planted_onlyRams (p := p) (a := a)).trans (setFreq_onlyRams _ (a.mostP.toNat + 2) 1)
    exact congrArg (fun b : Arena => { b with mostP := BitVec.ofNat 10 (a.mostP.toNat + 2) }) this
  have hout := h.outside_planted hp hroom
  have hweight {x : Nat} := h.weight_planted hp hroom (x := x)
  have hinc := h.inc_planted hp hroom
  have hfirst : (grown p a).getSNode (314 + p) = a.mostP.toNat + 2 := by
    obtain ⟨y, hy, hleaf, -⟩ := h.lastLeaf
    exact (planted_getSNode h.linked.wf hroom hleaf (h.linked.fits.sym_lt hy) hp128 _).trans (if_pos rfl)
  generalize hc : (grown p a).setFreq (a.mostP.toNat + 2) 1 = c at *
  have hcF (j : Nat) (hj : j ≤ 630) : c.getFreq j = a.getFreq j := by
    rw [← hc]
    exact (hF j).trans ((if_neg (by omega)).trans (if_neg (by omega)))
  have hcm : c.mostP.toNat = a.mostP.toNat + 2 := by rw [hregs]; exact hmost
  have hct : c.totalP = a.totalP := by rw [hregs]
  have hspan : treeP c = spanP (p + 1) := by
    simp only [treeP, Arena.lastPosition, hcm, rootP, hp]
    congr 2
    omega
  have hinner (x : Nat) (hx : (spanP (p + 1)).Sym x) : c.getSNode x ≠ a.mostP.toNat := fun hs => by
    have hleaf := (hclimbing.linked.leaf x hx).2
    rw [hs, ← hc] at hleaf
    exact leafLink_ne_natCast x _ (hleaf.symm.trans ((planted_getChild h.linked.wf hroom hp128 _).trans (if_pos rfl)))
  obtain ⟨b, hb, hclimbed, hbase, hout', hweight'⟩ := hclimbing.climb k 2047 (by change _ < 628 + 2047; omega) hinner
  have hb' : Arena.climb 628 2047 c a.mostP.toNat k = (b, k) := hb
  have hrams : OnlyRams c b := by
    have := climb_onlyRams 628 2047 c a.mostP.toNat k
    rwa [hb'] at this
  have hne : (grown p a).totalP ≠ 0x8000#16 := fun h => by
    have htot : (grown p a).totalP = a.totalP := by
      rw [grown, planted_onlyRams (p := p) (a := a)]
    rw [← htot, h] at htotal
    exact absurd htotal (by decide)
  have hclimb : Arena.climb 628 arenaBound (grown p a) ((grown p a).getSNode (314 + p)) k = (b, k) := by
    rw [hfirst]
    refine (climb_step (turns := 2047) (by omega) _ _).trans ?_
    rw [hinc]
    exact hb'
  have hrun : Arena.makeNewNode p a k = ({ b with totalP := b.totalP + 1 }, k) := by
    have := countLeafP_unsaturated hne (314 + p) k
    rwa [hclimb] at this
  have hroot : b.getFreq 628 = 0xFFFF := hbase.trans ((hcF 628 (by decide)).trans h.root)
  have hsum := h.total
  have htree := climbedP (a := c) ⟨by omega, by omega, by omega⟩ hrams
    (by rw [hspan, hcF 629 (by decide), hcF 630 (by decide)]; exact hclimbed) hroot
    (by rw [hcF 629 (by decide), hcF 630 (by decide), hct]; exact hsum) (by rwa [hct])
  refine ⟨_, hrun, htree, ?_, ?_, ?_, fun x hx => (hweight' x hx).trans (hweight hx)⟩
  · change b.totalP + 1 = _
    rw [hrams, hct]
  · change b.mostP = _
    rw [hrams, hregs]
    apply BitVec.eq_of_toNat_eq
    rw [hmost, BitVec.toNat_add]
    change _ = (a.mostP.toNat + 2) % 1024
    omega
  · obtain ⟨hof, hoc, hop, hos⟩ := hout.trans hout'
    exact ⟨hof, hoc, hop, hos⟩

end Grow

/-! ### The commands -/

/-- Settles O41: the update is a climb from the position's leaf, as for the other tree, and the growth leaves a tree in which
the increment of the split leaf's node is still to come (`WeighedP.climbing_planted`). -/
theorem dynUpdatePKeepsTreeLaws : Obligations.DynUpdatePKeepsTreeLaws := by
  unfold Obligations.DynUpdatePKeepsTreeLaws
  intro s x he hv htree htotal
  have h := weighedP_of_pTree htree
  refine ⟨fun hx => ?_, fun hx hroom => ?_⟩
  · obtain ⟨b, hb, hkept, hrewrites, hout, htot, hweight⟩ := updateP_keeps h htotal hx s.draws
    have hregs := hrewrites.regs
    refine ⟨b, ?_, hkept.pTree, hout.sameC ?_ ?_ ?_, ?_, htot, ?_, ?_, ?_, hweight⟩
    · rw [exec_dynUpdateP he hv hx, hb, withArena_draws]
    all_goals rw [hregs]
    exact hv
  · obtain ⟨b, hb, hkept, htot, hmost, hout, hweight⟩ := makeNewNode_counts h hx hroom htotal s.draws
    have hrewrites : Rewrites { s.arena with mostP := BitVec.ofNat 10 (s.arena.mostP.toNat + 1 + 1) } b := by
      have := rewrites_makeNewNode x.toNat s.arena s.draws
      rwa [hb] at this
    have hregs := hrewrites.regs
    have hsym {y : Nat} (hy : y ≤ s.arena.lastPosition) : (spanP (x.toNat + 1)).Sym (314 + y) :=
      (sym_grown hx).mpr (.inr (sym_treeP.mpr ⟨y, rfl, hy⟩))
    refine ⟨b, ?_, hkept.pTree, hout.sameC ?_ ?_ ?_, hmost, htot, ?_, ?_, ?_, ?_, fun y hy => ?_⟩
    · rw [exec_dynNewNode he hv hx hroom, hb, withArena_draws]
    case refine_8 => exact (hweight _ ((sym_grown hx).mpr (.inl rfl))).trans (if_pos rfl)
    case refine_9 =>
      have hne : 314 + y ≠ 314 + x.toNat := fun heq => by
        change y ≤ s.arena.lastPosition at hy
        change x.toNat = s.arena.lastPosition + 1 at hx
        omega
      exact (hweight _ (hsym hy)).trans (if_neg hne)
    all_goals rw [hregs]
    exact hv

end Sys2Proof.Proofs
end

section
/-! PROOFS. DYN_READ (O39). -/

namespace Sys2Proof.Proofs

open Sys2Proof.Machine Sys2Proof.Laws

theorem exec_dynRead {s : State} {f : DynField} {i : BitVec 10} {v : Word} (he : s.estate ≠ .failed)
    (hl : operandsLegal (.dynRead f i) = true) (hflag : dynReadFlag f i.toNat s.arena = true)
    (hlegal : dynReadLegal f i.toNat s.arena = true) (hv : BitVec.ofNat 32 (dynReadValue f i.toNat s.arena) = v) :
    exec (.dynRead f i) s = .next ({ s with result := v }.ended []) :=
  hv ▸ command_checked (bad := fun s => !dynReadLegal f i.toNat s.arena) he hl hflag (congrArg not hlegal) rfl

theorem dynReadLegal_node {a : Arena} {f : DynField} {i : BitVec 10} (hf : f = .freq ∨ f = .child ∨ f = .parent)
    (hnode : i.toNat + 2 ≤ 2 * a.nMax.toNat ∨ 628 ≤ i.toNat ∧ i.toNat ≤ a.mostP.toNat)
    (hroot : f = .parent → i ≠ 0#10 ∧ i ≠ 628#10) : dynReadLegal f i.toNat a = true := by
  have hhas := hasNode_iff.mpr hnode
  rcases hf with rfl | rfl | rfl
  · exact hhas
  · exact hhas
  · obtain ⟨h0, h628⟩ := hroot rfl
    have h0' : i.toNat ≠ rootC := fun h => h0 (BitVec.eq_of_toNat_eq h)
    have h628' : i.toNat ≠ rootP := fun h => h628 (BitVec.eq_of_toNat_eq h)
    simp [dynReadLegal, hhas, h0', h628']

/-- NINFO: N1 in the high half of RESULT, N_MAX in the low half. -/
theorem ninfo_eq (n1 : BitVec 10) (nMax : BitVec 9) :
    BitVec.ofNat 32 (n1.toNat * 2 ^ 16 + nMax.toNat) = (n1.zeroExtend 32 <<< 16) ||| nMax.zeroExtend 32 := by
  have h1 := n1.isLt
  have hMax := nMax.isLt
  apply BitVec.eq_of_toNat_eq
  have hfits : nMax.toNat < 2 ^ 16 := by omega
  simp only [BitVec.toNat_ofNat, BitVec.toNat_or, BitVec.toNat_shiftLeft, BitVec.zeroExtend, BitVec.toNat_setWidth]
  rw [Nat.mod_eq_of_lt (a := n1.toNat) (by omega), Nat.mod_eq_of_lt (a := nMax.toNat) (by omega), Nat.shiftLeft_eq,
    Nat.mod_eq_of_lt (by omega), Nat.mod_eq_of_lt (by omega), Nat.mul_comm, Nat.two_pow_add_eq_or_of_lt hfits]

/-- Settles O39: with its flag set and its index legal, each read ends with the field in RESULT. -/
theorem dynReadReturnsField : Obligations.DynReadReturnsField := by
  unfold Obligations.DynReadReturnsField
  intro s i he
  refine ⟨fun f hf hflag hnode hi hroot => ?_, fun hflag hi hsym => ?_, fun hv => ⟨?_, ?_, ?_⟩, fun hv => ?_⟩
  · have hlegal := dynReadLegal_node hf hnode hroot
    rcases hf with rfl | rfl | rfl <;>
      exact exec_dynRead he (decide_eq_true hi) hflag hlegal (BitVec.ofNat_toNat _ _)
  · exact exec_dynRead he (decide_eq_true hi) hflag (dynReadLegal_sNode_iff.mpr hsym) (BitVec.ofNat_toNat _ _)
  · exact exec_dynRead he rfl hv rfl (BitVec.ofNat_toNat _ _)
  · exact exec_dynRead he rfl hv rfl (BitVec.ofNat_toNat _ _)
  · exact exec_dynRead he rfl hv rfl ((BitVec.ofNat_toNat _ _).trans (BitVec.setWidth_eq _))
  · exact exec_dynRead he rfl hv rfl (ninfo_eq _ _)

end Sys2Proof.Proofs
end

section
/-! PROOFS. The initial trees (O38). -/

namespace Sys2Proof.Proofs

open Sys2Proof.Machine Sys2Proof.Laws

/-! ### The leaves (R261) -/

/-- The leaves of `left` symbols from `sym` on, the first at node `j`, the next ones before it. -/
structure LeavesAt (left sym j : Nat) (a b : Arena) : Prop where
  freq : ∀ n, b.getFreq n = if n ≤ j ∧ j < n + left then 1 else a.getFreq n
  child : ∀ n, b.getChild n = if n ≤ j ∧ j < n + left then leafLink (sym + (j - n)) else a.getChild n
  parent : ∀ n, b.getParent n = a.getParent n
  sNode : ∀ x, b.getSNode x = if sym ≤ x ∧ x < sym + left then j - (x - sym) else a.getSNode x

theorem startLeaves_at : ∀ (left sym j : Nat) (a : Arena), a.wf = true → j < 884 → left ≤ j + 1 → sym + left ≤ 442 →
    LeavesAt left sym j a (startLeaves left sym j a)
  | 0, _, _, _, _, _, _, _ =>
    ⟨fun n => by rw [if_neg (by omega)]; rfl, fun n => by rw [if_neg (by omega)]; rfl, fun _ => rfl,
      fun x => by rw [if_neg (by omega)]; rfl⟩
  | left + 1, sym, j, a, hw, hj, hleft, hsym => by
    have hlink : -32768 ≤ leafLink sym ∧ leafLink sym < 32768 := by unfold leafLink; omega
    obtain ⟨hfreq, hchild, hparent, hsNode⟩ := startLeaves_at left (sym + 1) (j - 1)
      (((a.setFreq j 1).setChild j (leafLink sym)).setSNode sym j) (setSNode_wf (setChild_wf (setFreq_wf hw _ _) _ _) _ _)
      (by omega) (by omega) (by omega)
    refine ⟨fun n => ?_, fun n => ?_, hparent, fun x => ?_⟩
    · rw [startLeaves, hfreq, getFreq_setSNode, getFreq_setChild, getFreq_setFreq hw hj (by decide)]
      split_ifs <;> first | rfl | omega
    · rw [startLeaves, hchild, getChild_setSNode, getChild_setChild (setFreq_wf hw _ _) hj hlink.1 hlink.2]
      split_ifs
      any_goals omega
      · exact congrArg leafLink (by omega)
      · exact congrArg leafLink (by omega)
      · rfl
    · rw [startLeaves, hsNode, getSNode_setSNode (setChild_wf (setFreq_wf hw _ _) _ _) (by omega) (by omega)]
      split_ifs <;> first | rfl | omega

/-! ### The internal nodes (R261) -/

/-- The internal nodes below `j`, each over the next two nodes that have no parent yet. -/
structure InternalBelow (j total : Nat) (a b : Arena) : Prop where
  freq : ∀ n, j ≤ n → b.getFreq n = a.getFreq n
  child : ∀ n, j ≤ n → b.getChild n = a.getChild n
  parent : ∀ n, n = 0 ∨ 2 * j < n → b.getParent n = a.getParent n
  sNode : ∀ x, b.getSNode x = a.getSNode x
  node : ∀ n, n < j → b.getChild n = ((2 * n + 2 : Nat) : Int) ∧ b.getParent (2 * n + 2) = n ∧
    b.getParent (2 * n + 1) = n ∧ b.getFreq n = b.getFreq (2 * n + 2) + b.getFreq (2 * n + 1)
  root : b.getFreq 0 = total

/-- The nodes without a parent, `j` to `2j`, always weigh the same together. -/
theorem startInternal_below {total : Nat} (htotal : total < 65536) : ∀ (j : Nat) (a : Arena), a.wf = true →
    2 * j < 884 → ∑ n ∈ Finset.Ico j (2 * j + 1), a.getFreq n = total →
    InternalBelow j total a (startInternal j (2 * j) a)
  | 0, a, _, _, hsum => ⟨fun _ _ => rfl, fun _ _ => rfl, fun _ _ => rfl, fun _ => rfl, fun n hn => absurd hn (by omega),
      by simpa [startInternal] using hsum⟩
  | j + 1, a, hw, hj, hsum => by
    rw [show 2 * (j + 1) + 1 = 2 * j + 2 + 1 by omega, Finset.sum_Ico_succ_top (by omega),
      Finset.sum_Ico_succ_top (by omega)] at hsum
    have hpair : a.getFreq (2 * j + 2) + a.getFreq (2 * j + 1) < 65536 := by omega
    have hw1 := setFreq_wf hw j (a.getFreq (2 * j + 2) + a.getFreq (2 * j + 1))
    have hw2 := setChild_wf hw1 j ((2 * j + 2 : Nat) : Int)
    generalize ha : ((((a.setFreq j (a.getFreq (2 * j + 2) + a.getFreq (2 * j + 1))).setChild j
      ((2 * j + 2 : Nat) : Int)).setParent (2 * j + 2) j).setParent (2 * j + 1) j) = b
    have hF (n : Nat) : b.getFreq n =
        if n = j then a.getFreq (2 * j + 2) + a.getFreq (2 * j + 1) else a.getFreq n := by
      rw [← ha]
      exact getFreq_setFreq hw (by omega) hpair n
    have hC (n : Nat) : b.getChild n = if n = j then ((2 * j + 2 : Nat) : Int) else a.getChild n := by
      rw [← ha]
      exact getChild_setChild hw1 (by omega) (by omega) (by omega) n
    have hP (n : Nat) : b.getParent n = if n = 2 * j + 1 then j else if n = 2 * j + 2 then j else a.getParent n := by
      rw [← ha, getParent_setParent (setParent_wf hw2 _ _) (by omega) (by omega), getParent_setParent hw2 (by omega) (by omega)]
      rfl
    have hS (x : Nat) : b.getSNode x = a.getSNode x := by rw [← ha]; rfl
    have hwb : b.wf = true := by
      rw [← ha]
      exact setParent_wf (setParent_wf hw2 _ _) _ _
    have hstep : startInternal (j + 1) (2 * (j + 1)) a = startInternal j (2 * j) b := by rw [← ha]; rfl
    have hrest : ∑ n ∈ Finset.Ico (j + 1) (2 * j + 1), b.getFreq n = ∑ n ∈ Finset.Ico (j + 1) (2 * j + 1), a.getFreq n :=
      Finset.sum_congr rfl fun n hn => by
        rw [hF, if_neg (by have := Finset.mem_Ico.mp hn; omega)]
    obtain ⟨ifreq, ichild, iparent, isNode, inode, iroot⟩ := startInternal_below htotal j b hwb (by omega) (by
      rw [Finset.sum_eq_sum_Ico_succ_bot (by omega), hrest, hF, if_pos rfl]
      omega)
    rw [hstep]
    refine ⟨fun n hn => ?_, fun n hn => ?_, fun n hn => ?_, fun x => (isNode x).trans (hS x), fun n hn => ?_, iroot⟩
    · rw [ifreq n (by omega), hF, if_neg (by omega)]
    · rw [ichild n (by omega), hC, if_neg (by omega)]
    · rw [iparent n (by omega), hP, if_neg (by omega), if_neg (by omega)]
    · rcases Nat.lt_succ_iff_lt_or_eq.mp hn with hlt | rfl
      · exact inode n hlt
      · rw [ichild n le_rfl, iparent _ (by omega), iparent _ (by omega), ifreq n le_rfl, ifreq (2 * n + 2) (by omega),
          ifreq (2 * n + 1) (by omega), hC, hP, hP, hF, hF, hF, if_pos rfl, if_neg (by omega), if_pos rfl, if_pos rfl,
          if_pos rfl, if_neg (by omega), if_neg (by omega)]
        exact ⟨rfl, rfl, rfl, rfl⟩

/-! ### `StartC` and `StartP` -/

/-- The initial literal/length tree of `n` symbols (R261, R262), made of the arena `a`. -/
structure FreshC (n : Nat) (a b : Arena) : Prop where
  wf : b.wf = true
  nMax : b.nMax.toNat = n
  valid : b.validC = true
  leaf : ∀ x, x < n → b.getSNode x = 2 * n - 2 - x ∧ b.getFreq (2 * n - 2 - x) = 1 ∧
    b.getChild (2 * n - 2 - x) = leafLink x
  node : ∀ j, j + 1 < n → b.getChild j = ((2 * j + 2 : Nat) : Int) ∧ b.getParent (2 * j + 2) = j ∧
    b.getParent (2 * j + 1) = j ∧ b.getFreq j = b.getFreq (2 * j + 2) + b.getFreq (2 * j + 1)
  root : b.getFreq 0 = n
  outside : Outside (spanC n) a b

theorem startC_fresh {n m : Nat} (hlo : 2 ≤ n) (hhi : n ≤ 314) {a : Arena} (hw : a.wf = true) :
    FreshC n a (startC n m a) := by
  obtain ⟨c, hc, hwc, hl⟩ : ∃ c, startC n m a = { startInternal (n - 1) (2 * (n - 1)) c with validC := true } ∧
      c.wf = true ∧ LeavesAt n 0 (2 * n - 2) a c := by
    have hw' : Arena.wf { a with
      nMax := BitVec.ofNat 9 n
      n1 := if 256 + m - 3 + 1 ≤ n then 512#10 else BitVec.ofNat 10 (n - 1) } = true := hw
    refine ⟨_, ?_, (rewrites_startLeaves n 0 (2 * n - 2) _).wf hw', ?_⟩
    · rw [Nat.mul_sub]
      rfl
    · obtain ⟨hf, hch, hp, hs⟩ := startLeaves_at n 0 (2 * n - 2) _ hw' (by omega) (by omega) (by omega)
      exact ⟨hf, hch, hp, hs⟩
  have hsum : ∑ j ∈ Finset.Ico (n - 1) (2 * (n - 1) + 1), c.getFreq j = n := by
    rw [Finset.sum_congr rfl fun j hj => (hl.freq j).trans (if_pos (by have := Finset.mem_Ico.mp hj; omega)),
      Finset.sum_const, Nat.card_Ico, smul_eq_mul]
    omega
  have hi := startInternal_below (by omega) (n - 1) c hwc (by omega) hsum
  have hrewrites := startC_rewrites n m a
  rw [hc] at hrewrites ⊢
  have hfits : (BitVec.ofNat 9 n).toNat = n := by
    rw [BitVec.toNat_ofNat]
    omega
  refine ⟨hrewrites.wf hw, ?_, rfl, fun x hx => ⟨?_, ?_, ?_⟩, fun j hj => hi.node j (by omega), hi.root,
    fun j hj => ?_, fun j hj => ?_, fun j hj => ?_, fun x hx => ?_⟩
  · rw [hrewrites.regs]
    exact hfits
  · refine (hi.sNode x).trans ((hl.sNode x).trans ((if_pos ⟨Nat.zero_le _, by omega⟩).trans ?_))
    rw [Nat.sub_zero]
  · exact (hi.freq _ (by omega)).trans ((hl.freq _).trans (if_pos (by omega)))
  · exact (hi.child _ (by omega)).trans ((hl.child _).trans ((if_pos (by omega)).trans (congrArg leafLink (by omega))))
  · rw [node_spanC] at hj
    exact (hi.freq j (by omega)).trans ((hl.freq j).trans (if_neg (by omega)))
  · rw [node_spanC] at hj
    exact (hi.child j (by omega)).trans ((hl.child j).trans (if_neg (by omega)))
  · rw [node_spanC] at hj
    change ¬(0 < j ∧ _) at hj
    exact (hi.parent j (by omega)).trans (hl.parent j)
  · rw [sym_spanC] at hx
    exact (hi.sNode x).trans ((hl.sNode x).trans (if_neg (by omega)))

theorem startC_onlyRams (n m : Nat) (a : Arena) :
    OnlyRams { a with
      nMax := BitVec.ofNat 9 n
      n1 := if 256 + m - 3 + 1 ≤ n then 512#10 else BitVec.ofNat 10 (n - 1)
      validC := true } (startC n m a) := by
  have h := (startLeaves_onlyRams n 0 (2 * n - 2) { a with
    nMax := BitVec.ofNat 9 n
    n1 := if 256 + m - 3 + 1 ≤ n then 512#10 else BitVec.ofNat 10 (n - 1) }).trans
      (startInternal_onlyRams (n - 1) (2 * n - 2) _)
  exact congrArg (fun b : Arena => { b with validC := true }) h

theorem startC_n1 (m n : Nat) (a : Arena) :
    (startC n m a).n1 = if 256 + m - 3 + 1 ≤ n then 512#10 else BitVec.ofNat 10 (n - 1) := by
  rw [startC_onlyRams]

/-- The initial position tree: the one leaf of position 0 at the root (R263). -/
theorem startP_reads {k : Nat} {a : Arena} (hw : a.wf = true) :
    (∀ j, (startP k a).getFreq j = if j = 628 then 1 else a.getFreq j) ∧
    (∀ j, (startP k a).getChild j = if j = 628 then -315 else a.getChild j) ∧
    (∀ x, (startP k a).getSNode x = if x = 314 then 628 else a.getSNode x) :=
  ⟨fun j => getFreq_setFreq (i := 628) (v := 1) hw (by decide) (by decide) j,
    fun j => getChild_setChild (i := 628) (c := leafLink 314) (setFreq_wf hw 628 1) (by decide) (by decide) (by decide) j,
    fun x => getSNode_setSNode (i := 314) (v := 628) (setChild_wf (setFreq_wf hw 628 1) 628 (leafLink 314)) (by decide)
      (by decide) x⟩

theorem exec_dynStartC {s : State} (he : s.estate ≠ .failed) {k : BitVec 5} (hk : k.toNat ≤ 1) :
    exec (.dynStartC k) s = .next ({ s with arena := startCFor k.toNat s.arena }.ended []) :=
  command_ended _ [] (decide_eq_true hk) (notInFailed_iff.mpr he) rfl

theorem exec_dynStartP {s : State} (he : s.estate ≠ .failed) {k : BitVec 5} (hlo : 1 ≤ k.toNat) (hhi : k.toNat ≤ 16) :
    exec (.dynStartP k) s = .next ({ s with arena := startP k.toNat s.arena }.ended []) :=
  command_ended _ [] (by simpa [operandsLegal] using ⟨hlo, hhi⟩) (notInFailed_iff.mpr he) rfl

/-- Settles O38: the leaves go to the last nodes and the internal nodes to the first ones (`startLeaves_at`,
`startInternal_below`); the nodes that have no parent yet always weigh `n` together, so no weight is cut. -/
theorem dynStartBuildsTrees : Obligations.DynStartBuildsTrees := by
  unfold Obligations.DynStartBuildsTrees
  refine ⟨fun s k n he hw hk => ?_, fun s k he hlo hhi hw => ?_⟩
  · obtain ⟨m, hstart, hn, hn1⟩ : ∃ m, startCFor k.toNat s.arena = startC n m s.arena ∧ (2 ≤ n ∧ n ≤ 314) ∧
        (startC n m s.arena).n1 = if n = 314 then 512#10 else 285#10 := by
      rcases hk with ⟨rfl, rfl⟩ | ⟨rfl, rfl⟩
      · exact ⟨60, rfl, by decide, startC_n1 60 314 s.arena⟩
      · exact ⟨256, rfl, by decide, startC_n1 256 286 s.arena⟩
    have hk1 : k.toNat ≤ 1 := by rcases hk with ⟨rfl, -⟩ | ⟨rfl, -⟩ <;> decide
    have hregs := startC_onlyRams n m s.arena
    have hfresh := startC_fresh (m := m) hn.1 hn.2 hw
    have hout {j : Nat} (hj : 628 ≤ j) : ¬(spanC n).Node j := by
      rw [node_spanC]
      omega
    refine ⟨_, by rw [exec_dynStartC he hk1, hstart], hfresh.valid, hfresh.nMax, hn1, hfresh.leaf, fun j hj => ?_,
      hfresh.root, fun j hj => ?_, fun x hx => ?_, ?_⟩
    · obtain ⟨hc, hp, hp', hf⟩ := hfresh.node j hj
      exact ⟨by rw [hc]; push_cast; rfl, hp, hp', hf⟩
    · exact ⟨hfresh.outside.freq j (hout hj), hfresh.outside.child j (hout hj),
        hfresh.outside.parent j fun h => hout hj h.2⟩
    · refine hfresh.outside.sNode x ?_
      rw [sym_spanC]
      omega
    · refine ⟨?_, ?_, ?_, ?_, ?_⟩ <;> rw [hregs]
  · obtain ⟨hf, hc, hs⟩ := startP_reads (k := k.toNat) hw
    refine ⟨_, exec_dynStartP he hlo hhi, hf, hc, hs, rfl, rfl, rfl, ?_, rfl, rfl, rfl, rfl, rfl⟩
    change (2 ^ k.toNat) % 2 ^ 17 = _
    exact Nat.mod_eq_of_lt (Nat.pow_lt_pow_right (by decide) (by omega))

end Sys2Proof.Proofs
end

section
/-! PROOFS. The window's operations where the sink takes every byte: WIN_INIT (O47), WIN_LITERAL (O48), WIN_FLUSH and
WIN_READ (O50). -/

namespace Sys2Proof.Proofs

open Sys2Proof.Machine Sys2Proof.Laws

/-! ### The bytes of the window -/

@[simp] theorem first_length (x : Window) (n : Nat) : (x.first n).length = n := by
  simp [Window.first]

@[simp] theorem first_zero (x : Window) : x.first 0 = [] := rfl

theorem first_getD (x : Window) {n a : Nat} (h : a < n) : (x.first n).getD a 0#8 = x.read a := by
  simp [Window.first, h]

/-- The first bytes do not depend on the bytes past them. -/
theorem first_congr {x y : Window} {n : Nat} (h : ∀ a, a < n → x.read a = y.read a) : x.first n = y.first n :=
  List.map_congr_left fun a ha => h a (List.mem_range.mp ha)

theorem first_succ (x : Window) (n : Nat) : x.first (n + 1) = x.first n ++ [x.read n] := by
  simp [Window.first, List.range_succ]

theorem dic_of_ramsWf {s : State} (h : s.ramsWf = true) : Memory.wf s.window.dic = true := by
  obtain ⟨-, -, -, hdic⟩ := (ramsWf_iff s).mp h
  exact hdic

/-- The byte at the cursor is written, and no other (R302). -/
theorem read_writeAtCursor {x : Window} (h : Memory.wf x.dic = true) (b : Byte) (a : Nat) :
    (x.write x.loc.toNat b).read a = if a = x.loc.toNat then b else x.read a := by
  rw [window_read_write h]
  exact if_congr (and_iff_left x.loc.isLt) rfl rfl

/-! ### Emission by the window's operations -/

/-- The state in which the window's operations have emitted these bytes and left this window (R307). -/
def outputOn (s : State) (out : List Byte) (x : Window) : State :=
  { s.emitted out with window := x, inFlight := emitEvents out ++ s.inFlight }

theorem outputOn_nil (s : State) (x : Window) : outputOn s [] x = { s with window := x } := by
  simp [outputOn]

/-- The bytes from DIC[0] on, emitted. -/
theorem emitRange_first {s : State} (h : s.sinkRoom = none) (n : Nat) :
    emitRange n 0 s = .ok () (outputOn s (s.window.first n) s.window) := by
  rw [emitRange_open n 0 s h, rangeBytes_zero]
  rfl

/-- WIN_FLUSH's semantics (R308). -/
theorem winFlush_open {s : State} (hw : s.window.valid = true) (h : s.sinkRoom = none) :
    winFlush s = .ok () (outputOn s (s.window.first s.window.loc.toNat) { s.window with valid := false }) := by
  have hopen : requireWindow s = .ok () s := eng_require_true hw
  rw [winFlush, bind_of_ok hopen, bind_of_ok (eng_get s), bind_of_ok (emitRange_first h _)]
  rfl

/-- At the start of a command no port event is in flight. -/
theorem outputOn_issued (s : State) (out : List Byte) (x : Window) :
    outputOn (issued s) out x = { s.emitted out with window := x, inFlight := emitEvents out } := by
  simp only [outputOn, issued, List.append_nil]
  rfl

/-- `Put` at the last byte of the window: the whole window is emitted, this byte included, and the cursor is 0 (R302). -/
theorem put_atEnd {s : State} (h : s.window.loc = s.window.mask) (hs : s.sinkRoom = none) (b : Byte) :
    put b s = .ok () (outputOn s ((s.window.write s.window.loc.toNat b).first (s.window.mask.toNat + 1))
      { s.window.write s.window.loc.toNat b with loc := 0#16 }) := by
  have hemit := emitRange_first (s := { s with window := s.window.write s.window.loc.toNat b }) hs
    (s.window.mask.toNat + 1)
  rw [put, bind_of_ok (eng_modify _ s), bind_of_ok (eng_get _)]
  exact (congrFun (if_pos h) _).trans (bind_of_ok hemit)

/-! ### The commands -/

/-- Settles O47. -/
theorem winInitOpensWindow : Obligations.WinInitOpensWindow := by
  unfold Obligations.WinInitOpensWindow
  intro s k he hpos hk hwf
  have hmask := openedWindow_mask hk s.fill s.window
  refine ⟨openedWindow k.toNat s.fill s.window, ?_, rfl, rfl, hmask, fun a => ?_⟩
  · refine command_ended _ [] (by simp [operandsLegal, hpos, hk]) (notInFailed_iff.mpr he) ?_
    have hdicbit : BitVec.ofNat 5 k.toNat = k := by rw [BitVec.ofNat_toNat, BitVec.setWidth_eq]
    rw [winInit, eng_modify, hdicbit]
    rfl
  · have hsize : 2 ^ k.toNat ≤ dicSize := Nat.pow_le_pow_right (by decide) hk
    exact (cellGet_cellFill (dic_of_ramsWf hwf)).trans (if_congr (by omega) rfl rfl)

/-- Settles O48: `Put` before the last byte and at it, and then the count. -/
theorem winLiteralWrites : Obligations.WinLiteralWrites := by
  unfold Obligations.WinLiteralWrites
  rintro s b x he hw hwf rfl
  refine ⟨read_writeAtCursor (dic_of_ramsWf hwf) b, fun hroom => ?_, fun hend hsink => ?_⟩
  · exact command_ended _ [] rfl (notInFailed_iff.mpr he) (winLiteral_inside (s := issued s) hw hroom b)
  · refine command_ended _ _ rfl (notInFailed_iff.mpr he) ?_
    have hopen : requireWindow (issued s) = .ok () (issued s) := eng_require_true hw
    have hput := put_atEnd (s := issued s) hend hsink b
    rw [outputOn_issued] at hput
    exact (bind_of_ok hopen).trans (bind_of_ok hput)

theorem exec_winRead {s : State} {i : BitVec 16} (he : s.estate ≠ .failed) (hw : s.window.valid = true)
    (hi : i.toNat ≤ s.window.mask.toNat) :
    exec (.winRead i) s = .next ({ s with result := (s.window.read i.toNat).zeroExtend 32 }.ended []) := by
  have hvalue : BitVec.ofNat 32 (s.window.read i.toNat).toNat = (s.window.read i.toNat).zeroExtend 32 := by
    rw [BitVec.zeroExtend, BitVec.ofNat_toNat]
  have hgood : decide (s.window.mask.toNat < i.toNat) = false := decide_eq_false (Nat.not_lt.mpr hi)
  rw [← hvalue]
  exact command_checked (bad := fun s => decide (s.window.mask.toNat < i.toNat)) he rfl hw hgood rfl

/-- Settles O50. -/
theorem winFlushAndRead : Obligations.WinFlushAndRead := by
  unfold Obligations.WinFlushAndRead
  refine ⟨fun s he hw hsink => ?_, fun s i he hw hi => exec_winRead he hw hi⟩
  refine command_ended _ _ rfl (notInFailed_iff.mpr he) ?_
  have hflush := winFlush_open (s := issued s) hw hsink
  rwa [outputOn_issued] at hflush

end Sys2Proof.Proofs
end

section
/-! PROOFS. WIN_MATCH (O49): `Put` as a function of the window, what the window and the sink hold after some bytes have
been put, and the byte that the copy reads. -/

namespace Sys2Proof.Proofs

open Sys2Proof.Machine Sys2Proof.Laws

/-! ### `Put` as a function of the window -/

/-- The window after `Put(b)` (R302). -/
def putWindow (x : Window) (b : Byte) : Window :=
  { x.write x.loc.toNat b with loc := if x.loc = x.mask then 0#16 else x.loc + 1 }

/-- The bytes that `Put(b)` emits: the whole window, where the cursor is at its last byte (R302). -/
def putOutput (x : Window) (b : Byte) : List Byte :=
  if x.loc = x.mask then (x.write x.loc.toNat b).first (x.mask.toNat + 1) else []

/-- `Put` to a sink that takes every byte, and before the last byte of the window to any sink. -/
theorem put_eq {s : State} (hloc : s.window.loc.toNat ≤ s.window.mask.toNat)
    (h : s.sinkRoom = none ∨ s.window.loc.toNat < s.window.mask.toNat) (b : Byte) :
    put b s = .ok () (outputOn s (putOutput s.window b) (putWindow s.window b)) := by
  unfold putOutput putWindow
  by_cases hend : s.window.loc = s.window.mask
  · have hsink : s.sinkRoom = none := h.resolve_right (by rw [hend]; exact lt_irrefl _)
    rw [if_pos hend, if_pos hend, put_atEnd hend hsink]
  · have hlt : s.window.loc.toNat < s.window.mask.toNat :=
      lt_of_le_of_ne hloc fun h => hend (BitVec.eq_of_toNat_eq h)
    rw [if_neg hend, if_neg hend, put_inside hlt, outputOn_nil]

theorem putWindow_loc_of_lt {x : Window} (h : x.loc.toNat < x.mask.toNat) (b : Byte) :
    (putWindow x b).loc.toNat = x.loc.toNat + 1 := by
  have hne : x.loc ≠ x.mask := fun heq => by rw [heq] at h; exact lt_irrefl _ h
  have hmask := x.mask.isLt
  have hone : (1 : BitVec 16).toNat = 1 := rfl
  simp only [putWindow, if_neg hne, BitVec.toNat_add, hone]
  omega

theorem putOutput_of_lt {x : Window} (h : x.loc.toNat < x.mask.toNat) (b : Byte) : putOutput x b = [] :=
  if_neg fun heq => by rw [heq] at h; exact lt_irrefl _ h

theorem outputOn_outputOn (s : State) (out out' : List Byte) (x x' : Window) :
    outputOn (outputOn s out x) out' x' = outputOn s (out ++ out') x' := by
  have hflight : emitEvents out' ++ (emitEvents out ++ s.inFlight) = emitEvents (out ++ out') ++ s.inFlight := by
    simp [emitEvents]
  calc outputOn (outputOn s out x) out' x'
      = { (s.emitted out).emitted out' with
          window := x', inFlight := emitEvents out' ++ (emitEvents out ++ s.inFlight) } := rfl
    _ = outputOn s (out ++ out') x' := by rw [emitted_append, hflight]; rfl

/-! ### What the window holds after some bytes have been put (R302, R312) -/

/-- From the window `x`, the bytes `written` have been put and the bytes `out` emitted, which has left the window `y`: the
emitted bytes, in whole windows, and then those before the cursor are all the bytes there have been; the rest of the
window holds the last window emitted, or what it held. -/
structure Written (x : Window) (out written : List Byte) (y : Window) : Prop where
  history : x.first x.loc.toNat ++ written = out ++ y.first y.loc.toNat
  laps : x.mask.toNat + 1 ∣ out.length
  rest : ∀ a, y.loc.toNat ≤ a → a < x.mask.toNat + 1 →
    y.read a = if out = [] then x.read a else out.getD (out.length - (x.mask.toNat + 1) + a) 0#8
  beyond : ∀ a, x.mask.toNat + 1 ≤ a → y.read a = x.read a
  loc : y.loc.toNat ≤ x.mask.toNat
  mask : y.mask = x.mask
  valid : y.valid = x.valid
  wf : Memory.wf y.dic = true

theorem written_nil {x : Window} (hloc : x.loc.toNat ≤ x.mask.toNat) (hwf : Memory.wf x.dic = true) :
    Written x [] [] x :=
  ⟨by simp, dvd_zero _, fun _ _ _ => rfl, fun _ _ => rfl, hloc, rfl, rfl, hwf⟩

section Written

variable {x y : Window} {out written : List Byte} (h : Written x out written y)

include h

/-- The cursor counts the bytes that have not been emitted. -/
theorem Written.count : x.loc.toNat + written.length = out.length + y.loc.toNat := by
  simpa using congrArg List.length h.history

/-- The bytes up to the cursor, and the one written there. -/
theorem Written.history_succ (b : Byte) :
    x.first x.loc.toNat ++ (written ++ [b]) = out ++ (y.write y.loc.toNat b).first (y.loc.toNat + 1) := by
  have hread := read_writeAtCursor h.wf b
  have hbefore : (y.write y.loc.toNat b).first y.loc.toNat = y.first y.loc.toNat :=
    first_congr fun a ha => by rw [hread, if_neg ha.ne]
  rw [first_succ, hbefore, hread, if_pos rfl, ← List.append_assoc, h.history, List.append_assoc]

/-- One byte more, before the last byte of the window. -/
theorem Written.put_inside (hlt : y.loc.toNat < x.mask.toNat) (b : Byte) :
    Written x out (written ++ [b]) (putWindow y b) := by
  have hlt' : y.loc.toNat < y.mask.toNat := by rw [h.mask]; exact hlt
  have hloc := putWindow_loc_of_lt hlt' b
  have hread : ∀ a, a ≠ y.loc.toNat → (putWindow y b).read a = y.read a := fun a ha =>
    (read_writeAtCursor h.wf b a).trans (if_neg ha)
  refine ⟨?_, h.laps, fun a ha hsize => ?_, fun a ha => ?_, by omega, h.mask, h.valid, window_write_wf h.wf _ _⟩
  · rw [hloc, h.history_succ b]
    rfl
  · rw [hread a (by omega), h.rest a (by omega) hsize]
  · rw [hread a (by omega), h.beyond a ha]

/-- One byte more, at the last byte of the window. -/
theorem Written.put_atEnd (hend : y.loc = x.mask) (b : Byte) :
    Written x (out ++ (y.write y.loc.toNat b).first (x.mask.toNat + 1)) (written ++ [b]) (putWindow y b) := by
  have hzero : (putWindow y b).loc = 0#16 := if_pos (hend.trans h.mask.symm)
  have hdone : (putWindow y b).loc.toNat = 0 := by rw [hzero]; rfl
  refine ⟨?_, ?_, fun a _ ha => ?_, fun a ha => ?_, by omega, h.mask, h.valid, window_write_wf h.wf _ _⟩
  · rw [hdone, first_zero, List.append_nil, h.history_succ b, hend]
  · rw [List.length_append, first_length]
    exact dvd_add h.laps dvd_rfl
  · rw [if_neg (by simp [first_succ]), List.length_append, first_length, Nat.add_sub_cancel,
      List.getD_append_right _ _ _ _ (Nat.le_add_right _ _), Nat.add_sub_cancel_left, first_getD _ ha]
    rfl
  · exact (read_writeAtCursor h.wf b a).trans ((if_neg (by rw [hend]; omega)).trans (h.beyond a ha))

theorem Written.put (b : Byte) : Written x (out ++ putOutput y b) (written ++ [b]) (putWindow y b) := by
  by_cases hend : y.loc = x.mask
  · rw [putOutput, if_pos (hend.trans h.mask.symm), h.mask]
    exact h.put_atEnd hend b
  · have hlt : y.loc.toNat < x.mask.toNat := lt_of_le_of_ne h.loc fun heq => hend (BitVec.eq_of_toNat_eq heq)
    rw [putOutput_of_lt (by rw [h.mask]; exact hlt), List.append_nil]
    exact h.put_inside hlt b

/-- The byte `j` places before the cursor, round the window: a byte that has been put, or one that stood before the cursor,
or, further back than these, one that the window held. -/
theorem Written.read_back {j : Nat} (hj : 1 ≤ j) (hsize : j ≤ x.mask.toNat + 1) :
    y.read ((y.loc.toNat + (x.mask.toNat + 1) - j) % (x.mask.toNat + 1)) =
      if j ≤ x.loc.toNat + written.length
      then (x.first x.loc.toNat ++ written).getD (x.loc.toNat + written.length - j) 0#8
      else x.read (x.loc.toNat + written.length + (x.mask.toNat + 1) - j) := by
  have hloc := h.loc
  have hcount := h.count
  rw [h.history, hcount]
  by_cases hback : j ≤ y.loc.toNat
  · have hplace : (y.loc.toNat + (x.mask.toNat + 1) - j) % (x.mask.toNat + 1) = y.loc.toNat - j := by
      rw [Nat.sub_add_comm hback, Nat.add_mod_right, Nat.mod_eq_of_lt (by omega)]
    rw [hplace, if_pos (by omega), List.getD_append_right _ _ _ _ (by omega)]
    have hindex : out.length + y.loc.toNat - j - out.length = y.loc.toNat - j := by omega
    rw [hindex, first_getD _ (by omega)]
  · rw [Nat.mod_eq_of_lt (by omega), h.rest _ (by omega) (by omega)]
    by_cases hout : out = []
    · subst hout
      simp only [if_true, List.length_nil, Nat.zero_add, if_neg hback]
    · have hlap := Nat.le_of_dvd (List.length_pos_iff.mpr hout) h.laps
      rw [if_neg hout, if_pos (by omega), List.getD_append _ _ _ _ (by omega)]
      exact congrArg (out.getD · 0#8) (by omega)

end Written

/-! ### The byte that the copy reads (R304) -/

/-- The byte that a match at distance `d` from the window `x` writes after the bytes `written` (R304, R312 (2)). -/
def matchByte (x : Window) (d : Nat) (written : List Byte) (k : Nat) : Byte :=
  if k < d then x.read ((x.loc.toNat + (x.mask.toNat + 1) - d + k) % (x.mask.toNat + 1)) else written.getD (k - d) 0#8

/-- These are bytes that a match at distance `d` from the window `x` writes. -/
def Repeats (x : Window) (d : Nat) (written : List Byte) : Prop :=
  ∀ k, k < written.length → written.getD k 0#8 = matchByte x d written k

theorem repeats_nil (x : Window) (d : Nat) : Repeats x d [] := fun _ h => absurd h (Nat.not_lt_zero _)

/-- A byte does not depend on those written after it. -/
theorem matchByte_append {x : Window} {d : Nat} (hd : 1 ≤ d) {written : List Byte} {k : Nat} (hk : k ≤ written.length)
    (more : List Byte) : matchByte x d (written ++ more) k = matchByte x d written k := by
  unfold matchByte
  split
  · rfl
  · exact List.getD_append _ _ _ _ (by omega)

theorem Repeats.snoc {x : Window} {d : Nat} {written : List Byte} (h : Repeats x d written) (hd : 1 ≤ d) :
    Repeats x d (written ++ [matchByte x d written written.length]) := by
  intro k hk
  rw [List.length_append, List.length_singleton] at hk
  rw [matchByte_append hd (by omega)]
  rcases Nat.lt_succ_iff_lt_or_eq.mp hk with hlt | rfl
  · rw [List.getD_append _ _ _ _ hlt, h k hlt]
  · rw [List.getD_append_right _ _ _ _ le_rfl, Nat.sub_self, List.getD_cons_zero]

/-- The byte at the distance before the cursor is the next one of the match. -/
theorem Written.read_source {x y : Window} {out written : List Byte} (h : Written x out written y)
    (hx : x.loc.toNat ≤ x.mask.toNat) {d : Nat} (hd : 1 ≤ d) (hsize : d ≤ x.mask.toNat + 1) :
    y.read ((y.loc.toNat + (x.mask.toNat + 1) - d) % (x.mask.toNat + 1)) = matchByte x d written written.length := by
  rw [h.read_back hd hsize, matchByte]
  by_cases hk : written.length < d
  · rw [if_pos hk]
    by_cases hback : d ≤ x.loc.toNat + written.length
    · have hplace : (x.loc.toNat + (x.mask.toNat + 1) - d + written.length) % (x.mask.toNat + 1) =
          x.loc.toNat + written.length - d := by
        have hlap : x.loc.toNat + (x.mask.toNat + 1) - d + written.length =
            x.loc.toNat + written.length - d + (x.mask.toNat + 1) := by omega
        rw [hlap, Nat.add_mod_right, Nat.mod_eq_of_lt (by omega)]
      rw [if_pos hback, hplace, List.getD_append _ _ _ _ (by rw [first_length]; omega), first_getD _ (by omega)]
    · rw [if_neg hback, Nat.mod_eq_of_lt (by omega)]
      exact congrArg x.read (by omega)
  · rw [if_neg hk, if_pos (by omega), List.getD_append_right _ _ _ _ (by rw [first_length]; omega), first_length]
    exact congrArg (written.getD · 0#8) (by omega)

theorem and_mask_toNat {mask : BitVec 16} {b : Nat} (h : mask.toNat + 1 = 2 ^ b) (v : BitVec 16) :
    (v &&& mask).toNat = v.toNat % (mask.toNat + 1) := by
  have hmask : mask.toNat = 2 ^ b - 1 := by omega
  rw [BitVec.toNat_and, h, hmask, Nat.and_two_pow_sub_one_eq_mod]

/-- A distance from 1 to 65,536, as the 16 bits of the window's arithmetic subtract it. -/
theorem sub_distance_toNat (loc : BitVec 16) {d : Nat} (hd : 1 ≤ d) (hmax : d ≤ 65536) :
    (loc - BitVec.ofNat 16 d).toNat = (65536 - d + loc.toNat) % 65536 := by
  rw [BitVec.toNat_sub, BitVec.toNat_ofNat]
  have hloc := loc.isLt
  rcases Nat.lt_or_ge d 65536 with h | h
  · rw [Nat.mod_eq_of_lt h]
  · have hd : d = 65536 := by omega
    subst hd
    simp

/-- The place from which the copy reads its next byte: the masked distance before the cursor, round the window (R304). -/
theorem source_toNat {loc mask : BitVec 16} {b arg k laps cursor : Nat} (hb : b ≤ 16) (hmask : mask.toNat + 1 = 2 ^ b)
    (hlo : 1 ≤ arg) (hhi : arg ≤ 65536) (hcursor : loc.toNat + k = (mask.toNat + 1) * laps + cursor) :
    ((((loc - BitVec.ofNat 16 arg) &&& mask) + BitVec.ofNat 16 k) &&& mask).toNat =
      (cursor + (mask.toNat + 1) - ((arg - 1) % (mask.toNat + 1) + 1)) % (mask.toNat + 1) := by
  obtain ⟨q, hq⟩ : mask.toNat + 1 ∣ 65536 := hmask ▸ pow_dvd_pow 2 hb
  have hsrc : ((((loc - BitVec.ofNat 16 arg) &&& mask) + BitVec.ofNat 16 k) &&& mask).toNat =
      (65536 - arg + (loc.toNat + k)) % (mask.toNat + 1) := by
    have hdvd : mask.toNat + 1 ∣ 2 ^ 16 := ⟨q, hq⟩
    rw [and_mask_toNat hmask, BitVec.toNat_add, Nat.mod_mod_of_dvd _ hdvd, BitVec.toNat_ofNat, Nat.add_mod,
      Nat.mod_mod_of_dvd k hdvd, and_mask_toNat hmask, sub_distance_toNat loc hlo hhi, Nat.mod_mod,
      Nat.mod_mod_of_dvd _ ⟨q, hq⟩, ← Nat.add_mod, Nat.add_assoc]
  have hdist := Nat.div_add_mod (arg - 1) (mask.toNat + 1)
  have hlt : (arg - 1) % (mask.toNat + 1) < mask.toNat + 1 := Nat.mod_lt _ (Nat.succ_pos _)
  rw [hsrc, hcursor]
  generalize (arg - 1) % (mask.toNat + 1) = r at *
  generalize (arg - 1) / (mask.toNat + 1) = e at *
  generalize mask.toNat + 1 = size at *
  have heq : e < q := by
    by_contra hge
    have := Nat.mul_le_mul_left size (Nat.le_of_not_lt hge)
    omega
  obtain ⟨p, rfl⟩ := Nat.exists_eq_add_of_lt heq
  have hwhole : 65536 - arg + (size * laps + cursor) = (cursor + size - (r + 1)) + size * (p + laps) := by
    have hexpand : size * (e + p + 1) = size * e + size * p + size := by ring
    rw [hexpand] at hq
    rw [Nat.mul_add]
    omega
  rw [hwhole, Nat.add_mul_mod_self_left]

/-! ### The copy loop -/

/-- The copy of a match: its bytes, put one after another (R304). -/
theorem copyBytes_copies {x : Window} {b arg d : Nat} (hb : b ≤ 16) (hmask : x.mask.toNat + 1 = 2 ^ b)
    (hx : x.loc.toNat ≤ x.mask.toNat) (hlo : 1 ≤ arg) (hhi : arg ≤ 65536)
    (hd : d = (arg - 1) % (x.mask.toNat + 1) + 1) :
    ∀ (n : Nat) (s : State) (out written : List Byte), Written x out written s.window → Repeats x d written →
      s.sinkRoom = none ∨ s.window.loc.toNat + n ≤ x.mask.toNat →
      ∃ y out' written', copyBytes ((x.loc - BitVec.ofNat 16 arg) &&& x.mask) n written.length s =
          .ok () (outputOn s out' y) ∧
        Written x (out ++ out') (written ++ written') y ∧ Repeats x d (written ++ written') ∧ written'.length = n
  | 0, s, out, written, h, hr, _ => by
    refine ⟨s.window, [], [], ?_, by simpa using h, by simpa using hr, rfl⟩
    rw [outputOn_nil]
    rfl
  | n + 1, s, out, written, h, hr, hroom => by
    have hsize : d ≤ x.mask.toNat + 1 := by
      have hlt : (arg - 1) % (x.mask.toNat + 1) < x.mask.toNat + 1 := Nat.mod_lt _ (Nat.succ_pos _)
      omega
    obtain ⟨laps, hlaps⟩ := h.laps
    have hplace := source_toNat (k := written.length) (laps := laps) hb hmask hlo hhi (hlaps ▸ h.count)
    have hbyte := h.read_source hx (d := d) (by omega) hsize
    rw [hd, ← hplace, ← hd] at hbyte
    have hloc : s.window.loc.toNat ≤ s.window.mask.toNat := by rw [h.mask]; exact h.loc
    have hput := put_eq hloc (hroom.imp id fun hn => by rw [h.mask]; omega) (matchByte x d written written.length)
    have hroom' : (outputOn s (putOutput s.window (matchByte x d written written.length))
        (putWindow s.window (matchByte x d written written.length))).sinkRoom = none ∨
        (putWindow s.window (matchByte x d written written.length)).loc.toNat + n ≤ x.mask.toNat := by
      refine hroom.imp id fun hn => ?_
      rw [putWindow_loc_of_lt (by rw [h.mask]; omega)]
      omega
    obtain ⟨y, out', written', hcopy, hwritten, hrepeats, hlen⟩ :=
      copyBytes_copies hb hmask hx hlo hhi hd n _ _ _ (h.put _) (hr.snoc (by omega)) hroom'
    refine ⟨y, putOutput s.window (matchByte x d written written.length) ++ out',
      matchByte x d written written.length :: written', ?_, ?_, ?_, by rw [List.length_cons, hlen]⟩
    · rw [copyBytes, bind_of_ok (eng_get s), h.mask, hbyte, bind_of_ok hput, ← outputOn_outputOn]
      rw [List.length_append] at hcopy
      exact hcopy
    · simpa using hwritten
    · simpa using hrepeats

end Sys2Proof.Proofs
end

section
/-! PROOFS. WIN_MATCH as the commands' state has it (O49). -/

namespace Sys2Proof.Proofs

open Sys2Proof.Machine Sys2Proof.Laws

/-! ### Bytes that stay before the last byte of the window -/

section Within

variable {x y : Window} {written : List Byte}

/-- They make no whole window. -/
theorem Written.out_eq_nil {out : List Byte} (h : Written x out written y)
    (hroom : x.loc.toNat + written.length ≤ x.mask.toNat) : out = [] := by
  by_contra hout
  have hlap := Nat.le_of_dvd (List.length_pos_iff.mpr hout) h.laps
  have hcount := h.count
  omega

variable (h : Written x [] written y)

include h

theorem Written.cursor : y.loc.toNat = x.loc.toNat + written.length := by
  have hcount := h.count
  rw [List.length_nil] at hcount
  omega

theorem Written.read_written {k : Nat} (hk : k < written.length) :
    y.read (x.loc.toNat + k) = written.getD k 0#8 := by
  have hcursor := h.cursor
  have hhistory : x.first x.loc.toNat ++ written = y.first y.loc.toNat := h.history
  rw [← first_getD y (n := y.loc.toNat) (by omega), ← hhistory,
    List.getD_append_right _ _ _ _ (by rw [first_length]; omega), first_length, Nat.add_sub_cancel_left]

theorem Written.read_other {a : Nat} (ha : a < x.loc.toNat ∨ x.loc.toNat + written.length ≤ a) : y.read a = x.read a := by
  have hcursor := h.cursor
  have hhistory : x.first x.loc.toNat ++ written = y.first y.loc.toNat := h.history
  rcases ha with hbefore | hafter
  · rw [← first_getD y (n := y.loc.toNat) (by omega), ← hhistory,
      List.getD_append _ _ _ _ (by rw [first_length]; exact hbefore), first_getD _ hbefore]
  · rcases Nat.lt_or_ge a (x.mask.toNat + 1) with hin | hout
    · rw [h.rest a (by omega) hin, if_pos rfl]
    · exact h.beyond a hout

end Within

/-! ### The command -/

/-- The open window of `WindowInv` as the window's operations use it (R300). -/
theorem windowInv_size {s : State} (h : s.WindowInv) (hw : s.window.valid = true) :
    (∃ b, b ≤ 16 ∧ s.window.mask.toNat + 1 = 2 ^ b) ∧ s.window.loc.toNat ≤ s.window.mask.toNat := by
  obtain ⟨-, hk, hmask, hloc⟩ := h hw
  exact ⟨⟨_, hk, hmask⟩, hloc⟩

/-- The copy of a match of any length at any distance up to 65,536, to a sink that takes every byte, and to any sink where
the match stays before the last byte of the window (R304). -/
theorem copyMatch_copies {s : State} {n arg : Nat} (hw : s.window.valid = true) (hinv : s.WindowInv)
    (hwf : s.ramsWf = true) (hlo : 1 ≤ arg) (hhi : arg ≤ 65536)
    (hroom : s.sinkRoom = none ∨ s.window.loc.toNat + n ≤ s.window.mask.toNat) :
    ∃ y out written, copyMatch n arg s =
        .ok () (outputOn { s with decodeCount := s.decodeCount + BitVec.ofNat 64 n } out y) ∧
      Written s.window out written y ∧ Repeats s.window ((arg - 1) % (s.window.mask.toNat + 1) + 1) written ∧
      written.length = n := by
  obtain ⟨⟨b, hb, hmask⟩, hloc⟩ := windowInv_size hinv hw
  exact copyBytes_copies hb hmask hloc hlo hhi rfl n { s with decodeCount := s.decodeCount + BitVec.ofNat 64 n } [] []
    (written_nil hloc (dic_of_ramsWf hwf)) (repeats_nil _ _) hroom

/-- WIN_MATCH, as `copyMatch_copies` has the copy. -/
theorem winMatch_copies {s : State} {n : BitVec 9} (he : s.estate ≠ .failed) (hw : s.window.valid = true)
    (hinv : s.WindowInv) (hwf : s.ramsWf = true) (hlo : 1 ≤ s.arg.toNat % 2 ^ 17) (hhi : s.arg.toNat % 2 ^ 17 ≤ 65536)
    (hroom : s.sinkRoom = none ∨ s.window.loc.toNat + n.toNat ≤ s.window.mask.toNat) :
    ∃ y out written, exec (.winMatch n) s = .next ({ s.emitted out with
        window := y, decodeCount := s.decodeCount + BitVec.ofNat 64 n.toNat }.ended (emitEvents out)) ∧
      Written s.window out written y ∧
      Repeats s.window ((s.arg.toNat % 2 ^ 17 - 1) % (s.window.mask.toNat + 1) + 1) written ∧
      written.length = n.toNat := by
  obtain ⟨y, out, written, hcopy, hwritten⟩ := copyMatch_copies (s := issued s) (n := n.toNat) hw hinv hwf hlo hhi hroom
  refine ⟨y, out, written, command_ended _ _ rfl (notInFailed_iff.mpr he) ?_, hwritten⟩
  have hopen : requireWindow (issued s) = .ok () (issued s) := eng_require_true hw
  have hdist : (issued s).argDistance = s.arg.toNat % 2 ^ 17 := argDistance_eq s
  have hgood : raiseIf (decide ((issued s).argDistance = 0) || decide (65536 < (issued s).argDistance)) .badOperand
      (issued s) = .ok () (issued s) := by
    rw [hdist, decide_eq_false (by omega), decide_eq_false (by omega), Bool.or_self, eng_raiseIf_false]
  refine (bind_of_ok hopen).trans ((bind_of_ok (eng_get _)).trans ((bind_of_ok hgood).trans ?_))
  rw [hdist, hcopy]
  simp only [outputOn, issued, List.append_nil]
  rfl

/-- Settles O49: both clauses are `winMatch_copies`; where the match stays before the last byte of the window, no whole
window has been emitted (`Written.out_eq_nil`). -/
theorem winMatchCopies : Obligations.WinMatchCopies := by
  unfold Obligations.WinMatchCopies
  refine ⟨fun s n d he hw hinv hwf harg hlo hsize hroom => ?_, fun s n size d he hw hinv hwf hsink hlo hhi hsize hd => ?_⟩
  · have hmax := s.window.mask.isLt
    obtain ⟨y, out, written, hexec, hwritten, hrepeats, hlen⟩ :=
      winMatch_copies he hw hinv hwf (harg ▸ hlo) (by omega) (.inr hroom)
    rw [← harg, Nat.mod_eq_of_lt (by omega), Nat.sub_add_cancel hlo] at hrepeats
    obtain rfl := hwritten.out_eq_nil (hlen ▸ hroom)
    rw [emitted_nil, emitEvents_nil] at hexec
    refine ⟨y, hexec, hwritten.valid.trans hw, hwritten.mask, hlen ▸ hwritten.cursor,
      fun a ha => hwritten.read_other (hlen ▸ ha), fun k hk => ?_⟩
    rw [hwritten.read_written (by omega), hrepeats k (by omega), matchByte]
    split
    · rfl
    · rw [Nat.add_sub_assoc (by omega), hwritten.read_written (by omega)]
  · subst hsize hd
    obtain ⟨y, out, written, hexec, hwritten, hrepeats, hlen⟩ := winMatch_copies he hw hinv hwf hlo hhi (.inl hsink)
    exact ⟨y, out, written, hexec, hwritten.valid.trans hw, hwritten.mask, hwritten.loc, hlen,
      fun k hk => hrepeats k (by omega), hwritten.history, hwritten.laps, hwritten.rest, hwritten.beyond⟩

end Sys2Proof.Proofs
end

section
/-! PROOFS. The frame of the window and token commands (O54): what the moves of a body leave as it was, one part of the
block at a time. -/

namespace Sys2Proof.Proofs

open Sys2Proof.Machine Sys2Proof.Laws

/-! ### What a path keeps -/

/-- What each move of these parts leaves as it was, a path of them leaves. -/
theorem path_keeps {β : Type} {f : State → β} {K : List Part} (hf : ∀ {p s t}, p ∈ K → Move p s t → f t = f s)
    {s t : State} (h : Path K s t) : f t = f s := by
  induction h with
  | refl => rfl
  | tail _ hm ih =>
    obtain ⟨p, hp, hm⟩ := hm
    exact (hf hp hm).trans ih

theorem path_mono {K L : List Part} (hKL : K ⊆ L) {s t : State} (h : Path K s t) : Path L s t :=
  Relation.ReflTransGen.mono (fun _ _ ⟨p, hp, hm⟩ => ⟨p, hKL hp, hm⟩) _ _ h

section Keeps

variable {K : List Part} {s t : State}

theorem path_result (hK : .result ∉ K) (h : Path K s t) : t.result = s.result :=
  path_keeps (f := State.result) (fun hp hm => by
    cases hm with
    | result => exact absurd hp hK
    | table _ t => exact setTab_result _ t _
    | _ => rfl) h

theorem path_blockSize (hK : .blockSize ∉ K) (h : Path K s t) : t.blockSize = s.blockSize :=
  path_keeps (f := State.blockSize) (fun hp hm => by
    cases hm with
    | blockSize => exact absurd hp hK
    | table _ t => exact setTab_blockSize _ t _
    | _ => rfl) h

theorem path_decodeCount (hK : .decodeCount ∉ K) (h : Path K s t) : t.decodeCount = s.decodeCount :=
  path_keeps (f := State.decodeCount) (fun hp hm => by
    cases hm with
    | decodeCount => exact absurd hp hK
    | table _ t => exact setTab_decodeCount _ t _
    | _ => rfl) h

/-- The reader and the source's coming answers. -/
theorem path_input (hK : .reader ∉ K) (h : Path K s t) : t.reader = s.reader ∧ t.source = s.source :=
  Prod.mk.inj (path_keeps (f := fun s => (s.reader, s.source)) (fun hp hm => by
    cases hm with
    | reader => exact absurd hp hK
    | table _ t => cases t <;> rfl
    | _ => rfl) h)

/-- The sink, and what is counted and folded of its bytes. -/
theorem path_output (hK : .output ∉ K) (hck : .checksums ∉ K) (h : Path K s t) :
    t.crc16 = s.crc16 ∧ t.crc32 = s.crc32 ∧ t.sum8 = s.sum8 ∧ t.outCount = s.outCount ∧ t.sinkRoom = s.sinkRoom := by
  have hkeep := path_keeps (f := fun s => (s.crc16, s.crc32, s.sum8, s.outCount, s.sinkRoom)) (fun hp hm => by
    cases hm with
    | output => exact absurd hp hK
    | checksums => exact absurd hp hck
    | table _ t => cases t <;> rfl
    | _ => rfl) h
  simpa only [Prod.mk.injEq] using hkeep

end Keeps

/-- The two states agree on what ENTRY_START latches, and on WIN_MASK, which follows from it (R51, R300). -/
def SameLatches (s t : State) : Prop :=
  t.eMethod = s.eMethod ∧ t.eFill = s.eFill ∧ t.np = s.np ∧ t.pbit = s.pbit ∧ t.dicbit = s.dicbit ∧
    t.window.mask = s.window.mask

theorem path_latches {K : List Part} (hK : .opening ∉ K) {s t : State} (h : Path K s t) : SameLatches s t := by
  have hkeep := path_keeps (f := fun s => (s.eMethod, s.eFill, s.np, s.pbit, s.dicbit, s.window.mask)) (fun hp hm => by
    cases hm with
    | opening => exact absurd hp hK
    | table _ t => cases t <;> rfl
    | _ => rfl) h
  simpa only [SameLatches, Prod.mk.injEq] using hkeep

/-! ### Where a command does not fail -/

/-- A command whose body is moves alone, where it does not fail: it has come to the end of a path of its moves, but for
BUSY and the port events, or waits where it began. -/
theorem plain_goesOn {i : Instr} {s t : State} (hi : plain i = true) (h : exec i s = .next t) (ht : t.estate ≠ .failed) :
    ∃ u c tr fl, Path (partsOf i) (issued s) u ∧ t = { u with cmd := c, trace := tr, inFlight := fl } := by
  rcases exec_ends h with _ | fl | - | ⟨u, -, -, hu⟩ | rfl | ⟨-, rfl⟩ | ⟨-, rfl | rfl⟩
  · exact absurd rfl ht
  · exact ⟨issued s, s.cmd, s.trace, fl, Path.refl _, rfl⟩
  · exact absurd rfl ht
  · exact ⟨u, none, _, [], hu, rfl⟩
  all_goals cases hi

/-- RUN, where it does not fail: it waits where it began, or has closed the entry after a path of its moves. -/
theorem run_goesOn {s t : State} (h : exec .run s = .next t) (ht : t.estate ≠ .failed) :
    (∃ fl, t = { s with inFlight := fl }) ∨ ∃ u, Path (partsOf .run) (issued s) u ∧ t = (closed u).retire := by
  rcases exec_ends h with _ | fl | - | ⟨-, hi⟩ | hi | ⟨-, hi⟩ | ⟨u, -, -, hu⟩
  · exact absurd rfl ht
  · exact .inl ⟨fl, rfl⟩
  · exact absurd rfl ht
  · cases hi
  · cases hi
  · cases hi
  · exact .inr ⟨u, hu, rfl⟩

/-- BR_PACKED is written where an epoch begins, and nowhere else (R155). -/
theorem UsesPorts.packed {α : Type} {m : Eng α} (hm : UsesPorts m) :
    ∀ {s t : State} {a : α}, m s = .ok a t → t.reader.packed = s.reader.packed := by
  induction hm with
  | quiet hq =>
    intro s t a h
    rcases hq s with ⟨b, u, hok, hu⟩ | ⟨c, u, herr, -⟩
    · cases hok.symm.trans h
      exact congrArg (fun side => side.1.packed) hu
    · cases herr.symm.trans h
  | movePos pos draws =>
    intro s t a h
    obtain ⟨hasked, -⟩ := fillLookAhead_ok h
    rw [hasked.reader]
  | emit b =>
    intro s t a h
    rcases emit_cases b s with ⟨-, he⟩ | ⟨-, he⟩ <;> cases he.symm.trans h
    rfl
  | bind _ _ ihm ihf =>
    intro s t b h
    rw [eng_bind] at h
    split at h
    case h_1 a u hu => exact (ihf a h).trans (ihm hu)
    case h_2 => cases h

theorem exec_packed {i : Instr} {s t : State} (hinit : i ≠ .brInit) (hstart : i ≠ .entryStart) (hreset : i ≠ .softReset)
    (h : exec i s = .next t) (ht : t.estate ≠ .failed) : t.reader.packed = s.reader.packed := by
  obtain ⟨body, hbody, huses⟩ := exec_usesPorts hinit hstart hreset
  rcases command_goesOn ((hbody s).symm.trans h) ht with ⟨fl, rfl⟩ | ⟨v, hv, rfl⟩
  · rfl
  · exact (huses.packed hv :)

/-! ### The obligation -/

/-- The parts that a decoding command writes. -/
theorem decoding_parts {i : Instr} (hi : i = .decC ∨ i = .decP ∨ i = .blkStart) :
    plain i = true ∧ partsOf i ⊆ .result :: decodeParts := by
  rcases hi with rfl | rfl | rfl <;> decide

/-- Settles O54: each command is a path of its moves (`plain_goesOn`, `run_goesOn`), and what no move of a part writes is
as it was (`path_keeps`). -/
theorem tokenCommandsFrame : Obligations.TokenCommandsFrame := by
  unfold Obligations.TokenCommandsFrame
  intro s t i h ht
  refine ⟨fun hi => ?_, fun hi => ?_, ?_, ?_⟩
  · obtain ⟨hplain, hparts⟩ : plain i = true ∧ partsOf i = [.window, .output, .decodeCount] := by
      rcases hi with ⟨b, rfl⟩ | ⟨n, rfl⟩ <;> exact ⟨rfl, rfl⟩
    obtain ⟨u, c, tr, fl, hu, rfl⟩ := plain_goesOn hplain h ht
    rw [hparts] at hu
    obtain ⟨hreader, hsource⟩ := path_input (by decide) hu
    exact ⟨(path_sameStatus hu :), hreader, (path_tab (u := .c) (by decide) hu :),
      (path_tab (u := .pt) (by decide) hu :), (path_arena (by decide) hu :), (path_blockSize (by decide) hu :),
      (path_result (by decide) hu :), hsource, (path_latches (by decide) hu :)⟩
  · obtain ⟨hplain, hparts⟩ := decoding_parts hi
    have hpacked : t.reader.packed = s.reader.packed := by
      rcases hi with rfl | rfl | rfl <;> exact exec_packed (by decide) (by decide) (by decide) h ht
    obtain ⟨u, c, tr, fl, hu, rfl⟩ := plain_goesOn hplain h ht
    have hu := path_mono hparts hu
    obtain ⟨hmethod, hfill, hnp, hpbit, hdicbit, -⟩ := path_latches (by decide) hu
    obtain ⟨h16, h32, h8, hout, hroom⟩ := path_output (by decide) (by decide) hu
    exact ⟨(path_sameStatus hu :), ⟨hmethod, hfill, hnp, hpbit, hdicbit, h16, h32, h8,
      (path_decodeCount (by decide) hu :), hout, hroom⟩, (path_window (by decide) (by decide) (by decide) hu :), hpacked⟩
  · rintro rfl
    have hpacked := exec_packed (by decide) (by decide) (by decide) h ht
    obtain ⟨u, c, tr, fl, hu, rfl⟩ := plain_goesOn rfl h ht
    obtain ⟨hmethod, hfill, hnp, hpbit, hdicbit, hmask⟩ := path_latches (by decide) hu
    exact ⟨(path_sameStatus hu :), hmethod, hfill, hnp, hpbit, hdicbit, hmask, hpacked⟩
  · rintro rfl
    have hpacked := exec_packed (by decide) (by decide) (by decide) h ht
    rcases run_goesOn h ht with ⟨fl, rfl⟩ | ⟨u, hu, rfl⟩
    · exact ⟨rfl, rfl, rfl, rfl, rfl, rfl, rfl, rfl, hpacked⟩
    · obtain ⟨-, herr, hcode, -, hdropped, -⟩ := path_sameStatus hu
      obtain ⟨hmethod, hfill, hnp, hpbit, hdicbit, -⟩ := path_latches (by decide) hu
      exact ⟨herr, hcode, hdropped, hmethod, hfill, hnp, hpbit, hdicbit, hpacked⟩

end Sys2Proof.Proofs
end

section
/-! PROOFS. Computations that run the same whether the port events before them have joined the trace or are still in
flight (R345 (2), R410), down to a token and the tokens of an entry. -/

namespace Sys2Proof.Proofs

open Sys2Proof.Machine Sys2Proof.Laws

/-! ### Port events that have joined the trace -/

/-- The state in which the port events in flight have joined the trace. -/
def merged (s : State) : State := { s with trace := s.inFlight ++ s.trace, inFlight := [] }

/-- The computation runs the same where the port events before it have joined the trace. -/
def Seamless {α : Type} (m : Eng α) : Prop := ∀ s, mapEnd merged (m s) = mapEnd merged (m (merged s))

section Seamless

variable {α β : Type}

theorem Seamless.congr {m : Eng α} (hm : Seamless m) {s t : State} (h : merged s = merged t) :
    mapEnd merged (m s) = mapEnd merged (m t) := by
  rw [hm s, h, ← hm t]

theorem seamless_pure (a : α) : Seamless (pure a : Eng α) := fun _ => rfl

theorem seamless_raiseErr (c : ErrCode) : Seamless (raiseErr c : Eng α) := fun _ => rfl

theorem seamless_bind {m : Eng α} {f : α → Eng β} (hm : Seamless m) (hf : ∀ a, Seamless (f a)) :
    Seamless (m >>= f) := by
  intro s
  have hrun := hm s
  rw [eng_bind, eng_bind]
  cases hx : m s with
  | ok a t =>
    cases hy : m (merged s) with
    | ok b u =>
      rw [hx, hy] at hrun
      obtain ⟨rfl, htu⟩ := EStateM.Result.ok.inj hrun
      exact (hf a).congr htu
    | error e u =>
      rw [hx, hy] at hrun
      cases hrun
  | error e t =>
    cases hy : m (merged s) with
    | ok b u =>
      rw [hx, hy] at hrun
      cases hrun
    | error e' u =>
      rw [hx, hy] at hrun
      obtain ⟨rfl, htu⟩ := EStateM.Result.error.inj hrun
      exact congrArg (EStateM.Result.error e) htu

/-- What is read from the state is none of its port events. -/
theorem seamless_get_bind {f : State → Eng β} (hf : ∀ s, Seamless (f s)) (hsame : ∀ s, f (merged s) = f s) :
    Seamless ((get : Eng State) >>= f) := by
  intro s
  change mapEnd merged (f s s) = mapEnd merged (f (merged s) (merged s))
  rw [hsame]
  exact hf s s

theorem seamless_ite {c : Prop} [Decidable c] {m n : Eng α} (hm : Seamless m) (hn : Seamless n) :
    Seamless (if c then m else n) := by
  split
  · exact hm
  · exact hn

theorem seamless_modify {f : State → State} (h : ∀ s, merged (f s) = merged (f (merged s))) :
    Seamless (modify f : Eng Unit) := fun s => congrArg (EStateM.Result.ok ()) (h s)

/-- What carries its past runs the same over any split of the port events. -/
theorem Carries.seamless {m : Eng α} (hm : Carries m) : Seamless m := by
  intro s
  have hend {t : State} (h : (ownPast (fresh s s.cmd)).over t = t) : merged ((pastOf s).over t) = merged t := by
    have hevents := over_flight h
    calc merged ((pastOf s).over t)
        = { (ownPast (fresh s s.cmd)).over t with
            trace := (t.inFlight ++ s.inFlight) ++ s.trace, inFlight := [] } := rfl
      _ = merged t := by rw [h, hevents]; rfl
  have hrun : m s = mapEnd (pastOf s).over (m (fresh s s.cmd)) := hm (pastOf s) (fresh s s.cmd)
  rw [hrun]
  change mapEnd merged (mapEnd _ (m (fresh s s.cmd))) = mapEnd merged (m (fresh s s.cmd))
  cases hx : m (fresh s s.cmd) with
  | ok a t => exact congrArg (EStateM.Result.ok a) (hend (hm.keeps hx))
  | error e t => exact congrArg (EStateM.Result.error e) (hend (hm.keeps_error hx))

theorem halt_result {K : List Part} (hK : .result ∉ K) {s t : State} (h : Halt K s t) : t.result = s.result := by
  obtain ⟨u, r, src, fl, hu, -, rfl⟩ := h
  exact (path_result hK hu :)

/-- What sees neither RESULT nor the split of the port events, and leaves RESULT. -/
theorem Oblivious.seamless {m : Eng α} (hm : Oblivious m) {K : List Part} (hd : Does K m) (hK : .result ∉ K) :
    Seamless m := by
  intro s
  have hend {t : State} {r : Word} {tr fl : List PortEvent} (ht : t.result = s.result) (hr : r = s.result)
      (hevents : fl ++ tr = t.inFlight ++ t.trace) : merged t = merged (unseen t r tr fl) := by
    subst hr
    simp only [merged, unseen, hevents, ← ht]
  have hrun : SameRun (m s) (m (merged s)) := hm s s.result (s.inFlight ++ s.trace) [] rfl
  generalize hx : m s = x, hy : m (merged s) = y at hrun
  cases hrun with
  | ok a t r tr fl hevents =>
    exact congrArg (EStateM.Result.ok a)
      (hend (path_result hK (hd.1 _ _ _ hx)) (path_result hK (hd.1 _ _ _ hy) :) hevents)
  | error e t r tr fl hevents =>
    exact congrArg (EStateM.Result.error e)
      (hend (halt_result hK (hd.2 _ _ _ hx)) (halt_result hK (hd.2 _ _ _ hy) :) hevents)

end Seamless

/-! ### Decoding (R335) -/

theorem seamless_getBits (n : Nat) : Seamless (getBits n) :=
  (oblivious_getBits n).seamless (does_getBits (K := [.reader]) (by decide) n) (by decide)

theorem seamless_readBlockCount : Seamless readBlockCount :=
  seamless_bind (seamless_getBits 16) fun _ => seamless_modify fun _ => rfl

theorem seamless_nsBlockHeader : Seamless nsBlockHeader := by
  rw [nsBlockHeader_eq]
  refine seamless_bind seamless_readBlockCount fun _ =>
    seamless_bind (readsLens_readPtLen _ (by decide) _).carries.seamless fun _ =>
      seamless_bind readsLens_readCLen.carries.seamless fun _ => seamless_get_bind (fun s => ?_) fun _ => rfl
  have hpbit := s.pbit.isLt
  exact (readsLens_readPtLen _ (by omega) _).carries.seamless

theorem seamless_st0BlockHeader : Seamless st0BlockHeader := by
  rw [st0BlockHeader_eq]
  exact seamless_bind seamless_readBlockCount fun _ =>
    seamless_bind readsLens_readTreeC.carries.seamless fun _ => readsLens_readTreeP.carries.seamless

theorem seamless_requireReader : Seamless requireReader := (carries_require fun _ _ => rfl).seamless

theorem seamless_openBlock {header : Eng Unit} (h : Seamless header) : Seamless (openBlock header) := by
  have hlast : Seamless (modify fun s => { s with blockSize := s.blockSize - 1 }) := seamless_modify fun _ => rfl
  have htable : Seamless (requireTable .c) := (carries_require fun _ _ => rfl).seamless
  exact seamless_bind seamless_requireReader fun _ => seamless_get_bind (fun _ =>
    seamless_ite (seamless_bind h fun _ => hlast) (seamless_bind htable fun _ => hlast)) fun _ => rfl

theorem seamless_decodeSym (t : Table) : Seamless (decodeSym t) := (readsLens_decodeSym (t := t) t).carries.seamless

theorem seamless_nsDecodeC : Seamless nsDecodeC :=
  seamless_bind (seamless_openBlock seamless_nsBlockHeader) fun _ => seamless_decodeSym .c

theorem seamless_st0DecodeC : Seamless st0DecodeC :=
  seamless_bind (seamless_openBlock seamless_st0BlockHeader) fun _ => seamless_bind (seamless_decodeSym .c) fun _ =>
    seamless_ite (seamless_bind (seamless_getBits 8) fun _ => seamless_pure _) (seamless_pure _)

theorem seamless_dynDecodeC : Seamless dynDecodeC :=
  have hdyn : Seamless requireDynC := (carries_require fun _ _ => rfl).seamless
  have hwalk : Seamless (dynWalk rootC) :=
    (oblivious_dynWalk rootC).seamless (does_dynWalk (K := [.reader]) (by decide) rootC) (by decide)
  seamless_bind seamless_requireReader fun _ => seamless_bind hdyn fun _ => seamless_bind hwalk fun _ =>
    seamless_bind (seamless_modify fun _ => rfl) fun _ => seamless_get_bind (fun _ =>
      seamless_ite (seamless_bind (seamless_getBits 8) fun _ => seamless_pure _) (seamless_pure _)) fun _ => rfl

theorem seamless_decC : Seamless decC := by
  refine seamless_get_bind (fun s => ?_) fun _ => rfl
  split
  · exact seamless_dynDecodeC
  · exact seamless_dynDecodeC
  · exact seamless_st0DecodeC
  · exact seamless_nsDecodeC
  · exact seamless_nsDecodeC
  · exact seamless_nsDecodeC
  · exact seamless_nsDecodeC
  · exact seamless_raiseErr _

theorem seamless_decP : Seamless decP :=
  oblivious_decP.seamless (does_decP (K := [.reader, .arena]) (by decide) (by decide)) (by decide)

/-! ### Tokens (R341, R342) -/

theorem seamless_stepToken : Seamless stepToken := by
  have hresult : ∀ c : Nat, Seamless (setResult c) := fun c => seamless_modify fun _ => rfl
  exact seamless_bind seamless_decC fun c => seamless_ite
    (seamless_bind (carries_winLiteral _).seamless fun _ => hresult c)
    (seamless_bind seamless_decP fun _ => seamless_bind (carries_winMatchDecoded _ _).seamless fun _ => hresult c)

theorem seamless_runTokens : ∀ turns : Nat, Seamless (runTokens turns)
  | 0 => seamless_pure ()
  | turns + 1 => seamless_get_bind (fun _ => seamless_ite
      (seamless_bind seamless_stepToken fun _ => seamless_runTokens turns) (seamless_pure ())) fun _ => rfl

theorem seamless_winFlush : Seamless winFlush :=
  seamless_bind carries_requireWindow.seamless fun _ => seamless_get_bind (fun _ =>
    seamless_bind (carries_emitRange _ _).seamless fun _ => seamless_modify fun _ => rfl) fun _ => rfl

theorem seamless_closeEntry : Seamless closeEntry := seamless_modify fun _ => rfl

end Sys2Proof.Proofs
end

section
/-! PROOFS. FINISH, RUN at the end of an entry, and RUN as a STEP and then RUN (O22). -/

namespace Sys2Proof.Proofs

open Sys2Proof.Machine Sys2Proof.Laws

/-! ### What a token adds to DECODE_COUNT (R305, R341) -/

theorem ok_of_bind {α β : Type} {m : Eng α} {f : α → Eng β} {s t : State} {b : β} (h : (m >>= f) s = .ok b t) :
    ∃ a u, m s = .ok a u ∧ f a u = .ok b t := by
  rw [eng_bind] at h
  split at h
  case h_1 a u hu => exact ⟨a, u, hu, h⟩
  case h_2 => cases h

theorem dynDecodeC_lt : Yields (· < 2 ^ 16) dynDecodeC := by
  refine yields_bind fun _ => yields_bind fun _ => yields_bind_of (dynWalk_yields _) fun c hc => ?_
  refine yields_bind fun _ => yields_bind fun _ => yields_ite (fun _ => ?_) fun _ => yields_pure (by omega)
  exact yields_bind_of (getBits_yields 8) fun v hv => yields_pure (by omega)

theorem st0DecodeC_lt : Yields (· < 2 ^ 16) st0DecodeC := by
  refine yields_bind fun _ => yields_bind_of (decodeSym_yields .c) fun j hj => ?_
  have hj10 : j < 2 ^ 10 := hj
  refine yields_ite (fun _ => ?_) fun _ => yields_pure (by omega)
  exact yields_bind_of (getBits_yields 8) fun v hv => yields_pure (by omega)

theorem nsDecodeC_lt : Yields (· < 2 ^ 16) nsDecodeC := by
  refine yields_bind fun _ => fun s j t h => ?_
  have hj10 : j < 2 ^ 10 := decodeSym_yields .c s j t h
  omega

/-- A decoded symbol has 16 bits, whatever the arena holds. -/
theorem decC_lt : Yields (· < 2 ^ 16) decC := by
  refine yields_bind fun s => ?_
  split
  · exact dynDecodeC_lt
  · exact dynDecodeC_lt
  · exact st0DecodeC_lt
  · exact nsDecodeC_lt
  · exact nsDecodeC_lt
  · exact nsDecodeC_lt
  · exact nsDecodeC_lt
  · exact yields_raiseErr _

theorem winLiteral_count {b : Byte} {s t : State} {a : Unit} (h : winLiteral b s = .ok a t) :
    t.decodeCount = s.decodeCount + 1 := by
  obtain ⟨-, hbody⟩ := ok_of_require h
  obtain ⟨_, u, hput, hcount⟩ := ok_of_bind hbody
  have hu : u.decodeCount = s.decodeCount :=
    path_decodeCount (by decide) ((does_put (K := [.output, .window]) (by decide) (by decide) b).1 _ _ _ hput)
  cases hcount
  exact congrArg (· + 1) hu

theorem winMatchDecoded_count {len dist : Nat} {s t : State} {a : Unit} (h : winMatchDecoded len dist s = .ok a t) :
    t.decodeCount = s.decodeCount + BitVec.ofNat 64 len := by
  obtain ⟨-, hbody⟩ := ok_of_require h
  have hcopy : copyBytes ((s.window.loc - BitVec.ofNat 16 dist) &&& s.window.mask) len 0
      { s with decodeCount := s.decodeCount + BitVec.ofNat 64 len } = .ok a t := hbody
  exact path_decodeCount (by decide)
    ((does_copyBytes (K := [.output, .window]) (by decide) (by decide) _ len 0).1 _ _ _ hcopy)

/-- A token brings DECODE_COUNT on, and by less than the bound on ORIG_SIZE leaves room for. -/
theorem stepToken_count {s t : State} {a : Unit} (h : stepToken s = .ok a t) :
    ∃ k, 1 ≤ k ∧ k ≤ 2 ^ 16 ∧ t.decodeCount = s.decodeCount + BitVec.ofNat 64 k := by
  obtain ⟨c, u, hc, hrest⟩ := ok_of_bind h
  have hu : u.decodeCount = s.decodeCount := path_decodeCount (by decide) (decC_path hc)
  have hlt : c < 2 ^ 16 := decC_lt s c u hc
  by_cases hlit : c ≤ 255
  · rw [if_pos hlit] at hrest
    obtain ⟨_, v, hw, hend⟩ := ok_of_bind hrest
    have hcount := winLiteral_count hw
    rw [hu] at hcount
    cases hend
    exact ⟨1, le_rfl, by decide, hcount⟩
  · rw [if_neg hlit] at hrest
    obtain ⟨p, v, hp, hmatch⟩ := ok_of_bind hrest
    have hv : v.decodeCount = u.decodeCount := path_decodeCount (by decide) (decP_path hp)
    obtain ⟨_, w, hw, hend⟩ := ok_of_bind hmatch
    have hcount := winMatchDecoded_count hw
    rw [hv, hu] at hcount
    cases hend
    refine ⟨c - adjust, ?_, ?_, hcount⟩ <;> simp only [adjust] <;> omega

theorem stepToken_path {s t : State} {a : Unit} (h : stepToken s = .ok a t) : Path tokenParts s t :=
  (does_stepToken (List.Subset.refl _)).1 s a t h

/-- A token leaves ORIG_SIZE and brings DECODE_COUNT nearer to it, without wrapping (log 30). -/
theorem stepToken_nearer {s t : State} {a : Unit} (h : stepToken s = .ok a t)
    (hsize : s.origSize.toNat + 2 ^ 16 ≤ 2 ^ 64) (hgo : s.decodeCount.toNat < s.origSize.toNat) :
    t.origSize = s.origSize ∧ s.decodeCount.toNat < t.decodeCount.toNat := by
  obtain ⟨k, hpos, hmax, hcount⟩ := stepToken_count h
  obtain ⟨-, -, -, -, -, -, ⟨-, -, -, hlo, hhi, -⟩, -⟩ := path_sameStatus (stepToken_path h)
  refine ⟨by rw [State.origSize, hlo, hhi]; rfl, ?_⟩
  rw [hcount, BitVec.toNat_add, BitVec.toNat_ofNat]
  omega

/-! ### The bound on the tokens of RUN (R466) -/

theorem runTokens_succ {s : State} (hgo : s.decodeCount.toNat < s.origSize.toNat) (n : Nat) :
    runTokens (n + 1) s = (do stepToken; runTokens n) s :=
  (bind_of_ok (eng_get s)).trans (congrFun (if_pos hgo) s)

/-- The bound does not matter where it leaves a token for every byte. -/
theorem runTokens_bound (n : Nat) : ∀ (m : Nat) (s : State), s.origSize.toNat + 2 ^ 16 ≤ 2 ^ 64 →
    s.origSize.toNat ≤ s.decodeCount.toNat + n → s.origSize.toNat ≤ s.decodeCount.toNat + m →
    runTokens n s = runTokens m s := by
  induction n with
  | zero =>
    intro m s _ hn _
    rw [runTokens_done hn, runTokens_done hn]
  | succ n ih =>
    intro m s hsize hn hm
    by_cases hgo : s.decodeCount.toNat < s.origSize.toNat
    · obtain ⟨m, rfl⟩ : ∃ k, m = k + 1 := Nat.exists_eq_succ_of_ne_zero (by omega)
      rw [runTokens_succ hgo, runTokens_succ hgo, eng_bind, eng_bind]
      cases ht : stepToken s with
      | error e t => rfl
      | ok a t =>
        obtain ⟨horig, hnear⟩ := stepToken_nearer ht hsize hgo
        exact ih m t (by rw [horig]; exact hsize) (by rw [horig]; omega) (by rw [horig]; omega)
    · rw [runTokens_done (Nat.le_of_not_lt hgo), runTokens_done (Nat.le_of_not_lt hgo)]

/-! ### RUN of an LZ entry (R342) -/

/-- The tokens of an entry, at most `turns` of them, and then what FINISH does. -/
def tokensThenFinish (turns : Nat) : Eng Unit := do
  runTokens turns
  winFlush
  closeEntry

theorem seamless_tokensThenFinish (turns : Nat) : Seamless (tokensThenFinish turns) :=
  seamless_bind (seamless_runTokens turns) fun _ => seamless_bind seamless_winFlush fun _ => seamless_closeEntry

theorem runEntry_lz {s : State} (h : s.storedEntry = false) : runEntry s = tokensThenFinish s.origSize.toNat s := by
  rw [runEntry, bind_of_ok (eng_get s), if_neg (ne_true_of_eq_false h)]
  rfl

/-- RUN of an LZ entry does not see how the port events before it are split. -/
theorem seamless_runEntry {s : State} (h : s.storedEntry = false) :
    mapEnd merged (runEntry s) = mapEnd merged (runEntry (merged s)) := by
  have h' : (merged s).storedEntry = false := h
  rw [runEntry_lz h, runEntry_lz h']
  exact seamless_tokensThenFinish _ s

theorem finishEntry_lz {s : State} (h : s.lzEntry = true) : finishEntry s = (do winFlush; closeEntry) s := by
  rw [finishEntry, bind_of_ok (eng_get s), if_pos h]

theorem exec_run {s : State} (he : s.estate = .active) : exec .run s = settle s (runEntry (issued s)) :=
  command_run (legal := true) rfl (congrArg inActive he)

theorem exec_finish {s : State} (he : s.estate = .active) : exec .finish s = settle s (finishEntry (issued s)) :=
  command_run (legal := true) rfl (congrArg inActive he)

/-- Where DECODE_COUNT has reached ORIG_SIZE, RUN is FINISH. -/
theorem exec_run_done {s : State} (he : s.estate = .active) (hlo : 1 ≤ s.eMethod.toNat) (hhi : s.eMethod.toNat ≤ 7)
    (hdone : s.origSize.toNat ≤ s.decodeCount.toNat) : exec .run s = exec .finish s := by
  have hnone : runTokens s.origSize.toNat (issued s) = .ok () (issued s) := runTokens_done (s := issued s) hdone _
  rw [exec_run he, exec_finish he, runEntry_lz (s := issued s) (storedEntry_eq_false hlo hhi),
    finishEntry_lz (s := issued s) (lzEntry_eq_true hlo hhi)]
  exact congrArg (settle s) (bind_of_ok hnone)

/-- FINISH of an LZ entry flushes the window and closes the entry. -/
theorem exec_finish_lz {s : State} (he : s.estate = .active) (hlo : 1 ≤ s.eMethod.toNat) (hhi : s.eMethod.toNat ≤ 7)
    (hw : s.window.valid = true) (hsink : s.sinkRoom = none) :
    exec .finish s = .next ({ s.emitted (s.window.first s.window.loc.toNat) with
      window := { s.window with valid := false }
      overrun := decide (s.origSize.toNat < s.decodeCount.toNat)
      done := true
      estate := .finished }.ended (emitEvents (s.window.first s.window.loc.toNat))) := by
  have hflush := winFlush_open (s := issued s) hw hsink
  rw [outputOn_issued] at hflush
  rw [exec_finish he, finishEntry_lz (s := issued s) (lzEntry_eq_true hlo hhi), bind_of_ok hflush]
  rfl

/-- FINISH of a stored entry closes the entry. -/
theorem exec_finish_stored {s : State} (he : s.estate = .active) (hm : s.eMethod = 0#4 ∨ s.eMethod = 8#4) :
    exec .finish s = .next ({ s with
      overrun := decide (s.origSize.toNat < s.decodeCount.toNat), done := true, estate := .finished }.ended []) := by
  have hlz : (issued s).lzEntry ≠ true := by
    rcases hm with hm | hm <;> simp [State.lzEntry, State.methodNow, issued, hm]
  rw [exec_finish he, finishEntry, bind_of_ok (eng_get _), if_neg hlz]
  rfl

/-! ### RUN as a STEP and then RUN -/

theorem retire_merged (s : State) : (merged s).retire = s.retire := rfl

theorem failCommand_merged (c : ErrCode) (s : State) : (merged s).failCommand c = s.failCommand c := rfl

/-- Two ends of a body that are the same but for the split of the port events end the command alike. -/
theorem settle_merged {x y : EStateM.Result Stop State Unit} (h : mapEnd merged x = mapEnd merged y) {r s v : State}
    (hs : s.cmd ≠ none) (hv : settle s y = .next v) (hidle : v.cmd = none) : settle r x = .next v := by
  cases y with
  | ok a t =>
    cases x with
    | ok b u =>
      have hut : merged u = merged t := (EStateM.Result.ok.inj h).2
      rw [← hv, settle, settle, ← retire_merged u, hut, retire_merged]
    | error e u => cases h
  | error e t =>
    cases x with
    | ok b u => cases h
    | error e' u =>
      obtain ⟨rfl, hut⟩ := EStateM.Result.error.inj h
      cases e' with
      | raise c =>
        rw [← hv, settle, settle, ← failCommand_merged c u, hut, failCommand_merged]
      | stall =>
        cases hv
        exact absurd hidle hs

/-- A token of an LZ entry leaves it an LZ entry. -/
theorem stepToken_storedEntry {s t : State} {a : Unit} (h : stepToken s = .ok a t) (hlo : 1 ≤ s.eMethod.toNat)
    (hhi : s.eMethod.toNat ≤ 7) : t.storedEntry = false := by
  have hmethod : t.eMethod = s.eMethod := path_eMethod (by decide) (stepToken_path h)
  exact storedEntry_eq_false (by rw [hmethod]; exact hlo) (by rw [hmethod]; exact hhi)

/-- RUN with tokens to go is a token, and then RUN from there (R342, R345 (2)). -/
theorem runEntry_step {s t : State} (hlo : 1 ≤ s.eMethod.toNat) (hhi : s.eMethod.toNat ≤ 7)
    (hgo : s.decodeCount.toNat < s.origSize.toNat) (hsize : s.origSize.toNat + 2 ^ 16 ≤ 2 ^ 64)
    (ht : stepToken s = .ok () t) : runEntry s = runEntry t := by
  obtain ⟨horig, hnear⟩ := stepToken_nearer ht hsize hgo
  obtain ⟨n, hn⟩ : ∃ n, s.origSize.toNat = n + 1 := Nat.exists_eq_succ_of_ne_zero (by omega)
  have hfirst : runTokens (n + 1) s = runTokens n t := (runTokens_succ hgo n).trans (bind_of_ok ht)
  have hrest : runTokens n t = runTokens (n + 1) t :=
    runTokens_bound n (n + 1) t (by rw [horig]; exact hsize) (by rw [horig]; omega) (by rw [horig]; omega)
  rw [runEntry_lz (storedEntry_eq_false hlo hhi), runEntry_lz (stepToken_storedEntry ht hlo hhi), horig, hn,
    tokensThenFinish, eng_bind, eng_bind, hfirst, hrest]

/-- Settles O22. In the state that a token leaves in the middle of RUN, the port events are still in flight, and RUN does
not see that (`Seamless`). -/
theorem finishFlushesAndEnds : Obligations.FinishFlushesAndEnds := by
  unfold Obligations.FinishFlushesAndEnds
  refine ⟨fun s he hsink => ⟨fun hlo hhi hw => ?_, exec_finish_stored he⟩, ?_⟩
  · exact ⟨exec_finish_lz he hlo hhi hw hsink, exec_run_done he hlo hhi⟩
  · rintro s u v hcmd he hlo hhi hgo hsize ⟨hstep, hidle, hu⟩ hrun hv
    obtain ⟨t, hbody, rfl⟩ := command_completed (legal := true) (allowed := inActive) hstep hcmd hidle hu
    have htoken : stepToken (issued s) = .ok () t := (ok_of_require hbody).2
    have hpath := stepToken_path htoken
    have hlz : t.storedEntry = false := stepToken_storedEntry htoken (s := issued s) hlo hhi
    have hactive : t.estate = .active := by
      obtain ⟨-, -, -, -, -, hestate, -⟩ := path_sameStatus hpath
      exact hestate.trans he
    have hagain : issued { t.retire with cmd := s.cmd } = merged t := by
      have hc : s.cmd = t.cmd := (path_cmd hpath).symm
      rw [hc]
      rfl
    rw [exec_run (s := { t.retire with cmd := s.cmd }) hactive, hagain] at hrun
    rw [exec_run he, runEntry_step (s := issued s) hlo hhi hgo hsize htoken]
    exact settle_merged (seamless_runEntry hlz) (s := { t.retire with cmd := s.cmd }) hcmd hrun hv

end Sys2Proof.Proofs
end

section
/-! PROOFS. The engine's turn and a CMD write (O4, O5), NOP and SOFT_RESET (O14), and the dispatch by method (O16). -/

namespace Sys2Proof.Proofs

open Sys2Proof.Machine Sys2Proof.Laws

/-! ### A CMD write, and the engine's turn (O4) -/

/-- A CMD write while no command runs latches the word (R330). -/
theorem step_cmdWrite {s : State} {w : Word} {rest : List Event} (hidle : s.cmd = none)
    (hs : s.schedule = .write .word 0x00#7 w :: rest) : step s = .next { s with schedule := rest, cmd := some w } := by
  have hbusy : State.busy { s with schedule := rest } = false := by simp [State.busy, hidle]
  simp [step, hs, moveOf, hostWrite, accessLegal_word (o := 0x00#7) rfl, hbusy]

/-- The engine's turn in the schedule, with a word latched (R30). -/
theorem step_engine {s : State} {w : Word} {rest : List Event} (hcmd : s.cmd = some w)
    (hs : s.schedule = .engine :: rest) : step s = runWord w { s with schedule := rest } := by
  simp only [step, hs, moveOf, engineMove, hcmd]

theorem runWord_of_decode {w : Word} {i : Instr} (h : decode w = .ok i) (s : State) : runWord w s = exec i s := by
  simp only [runWord, h]

theorem step_withFetchWord (s : State) (i : Instr) :
    step (s.withFetchWord 32 (encode i).toNat) = exec i { s with cmd := some (encode i) } := by
  have hword : BitVec.ofNat 32 ((encode i).toNat % 2 ^ 32) = encode i := by
    rw [Nat.mod_eq_of_lt (encode i).isLt, BitVec.ofNat_toNat, BitVec.setWidth_eq]
  rw [step_engine (s := s.withFetchWord 32 (encode i).toNat) (congrArg some hword) rfl,
    runWord_of_decode (decode_encode i)]
  simp only [State.withFetchWord, hword]

/-- Settles O4: the write is `step_cmdWrite`, and the engine's move decodes the latched word wherever its turn comes
from. -/
theorem stepRunsDecodedCommand : Obligations.StepRunsDecodedCommand := by
  unfold Obligations.StepRunsDecodedCommand
  refine ⟨fun s w rest hidle hs => ⟨_, step_cmdWrite hidle hs, rfl, rfl⟩, fun s w i hcmd hw => ⟨fun hs => ?_, ?_⟩,
    step_withFetchWord⟩
  · rw [step_latched hs hcmd, runWord_of_decode hw]
  · intro rest hs
    rw [step_engine hcmd hs, runWord_of_decode hw]

/-! ### Register writes while a command runs (O5) -/

/-- Settles O5: an aligned write is legal, and BUSY is looked at before the offset. -/
theorem busyWritesDropped : Obligations.BusyWritesDropped := by
  unfold Obligations.BusyWritesDropped
  intro s o v rest hbusy hword hs
  have hrest : State.busy { s with schedule := rest } = true := hbusy
  simp [step, hs, moveOf, hostWrite, accessLegal_word hword, hrest]

/-! ### NOP and SOFT_RESET (O14) -/

theorem exec_nop (s : State) : exec .nop s = .next (s.ended []) := rfl

theorem exec_softReset (s : State) : exec .softReset s = .next (issued s).softReset.retire := rfl

theorem softReset_status (s : State) : (issued s).softReset.retire.status = 0x00000200#32 := by
  change State.reset.status = _
  decide

/-- Settles O14: both commands are allowed in every state and cannot stop; `State.softReset` names what it keeps. -/
theorem softResetResets : Obligations.SoftResetResets := by
  unfold Obligations.SoftResetResets
  refine ⟨exec_nop, fun s => ⟨_, exec_softReset s, softReset_status s, rfl, ⟨rfl, rfl, rfl, rfl, rfl, rfl⟩, ?_⟩⟩
  and_intros <;> rfl

/-! ### The dispatch by method (O16) -/

section Dispatch

variable {s : State}

theorem decC_adaptive (h : s.eMethod = 1#4 ∨ s.eMethod = 2#4) : decC s = dynDecodeC s := by
  rw [decC, eng_bind, eng_get]
  rcases h with h | h <;> simp [State.methodNow, h]

theorem decP_lh2 (h : s.eMethod = 2#4) : decP s = dynDecodeP s := by
  rw [decP, eng_bind, eng_get]
  simp [State.methodNow, h]

theorem refuses_decC_stored (h : s.eMethod = 0#4 ∨ s.eMethod = 8#4) : Refuses decC s := by
  refine refuses_get_bind ?_
  rcases h with h | h <;> simp [State.methodNow, h, refuses_raise]

theorem refuses_decP_stored (h : s.eMethod = 0#4 ∨ s.eMethod = 8#4) : Refuses decP s := by
  refine refuses_get_bind ?_
  rcases h with h | h <;> simp [State.methodNow, h, refuses_raise]

/-- Stored entries and the adaptive methods have no block header (R335). -/
theorem refuses_blkHdr_headless (h : (s.eMethod = 0#4 ∨ s.eMethod = 8#4) ∨ s.eMethod = 1#4 ∨ s.eMethod = 2#4) :
    Refuses blkHdr s := by
  refine refuses_get_bind ?_
  rcases h with (h | h) | h | h <;> simp [State.methodNow, h, refuses_raise]

theorem lzEntry_eq_false (h : s.eMethod = 0#4 ∨ s.eMethod = 8#4) : s.lzEntry = false := by
  rcases h with h | h <;> simp [State.lzEntry, State.methodNow, h]

/-- In ACTIVE a command of an entry and a component command that compute the same value are the same. -/
theorem command_result_congr {m n : Eng Nat} (he : s.estate = .active)
    (h : m (issued s) = n (issued s)) :
    command true inActive (do let v ← m; setResult v) s = command true notInFailed (do let v ← n; setResult v) s := by
  have hbody : (do let v ← m; setResult v : Eng Unit) (issued s) = (do let v ← n; setResult v : Eng Unit) (issued s) := by
    rw [eng_bind, eng_bind, h]
  rw [command_run rfl (congrArg inActive he), command_run rfl (congrArg notInFailed he)]
  exact congrArg (settle s) hbody

end Dispatch

/-- Settles O16: the procedures dispatch on E_METHOD before they do anything, and a command whose body is refused there is
refused (`command_refuses`). -/
theorem dispatchByMethod : Obligations.DispatchByMethod := by
  unfold Obligations.DispatchByMethod
  intro s he
  refine ⟨fun h => command_result_congr he (decC_adaptive (s := issued s) h),
    fun h => command_result_congr he (decP_lh2 (s := issued s) h), ?_,
    fun h => command_refuses rfl (refuses_blkHdr_headless (.inr h))⟩
  rintro h i (rfl | rfl | rfl | rfl)
  · exact command_refuses rfl (refuses_bind (refuses_decC_stored h))
  · exact command_refuses rfl (refuses_bind (refuses_decP_stored h))
  · exact command_refuses rfl (refuses_blkHdr_headless (.inl h))
  · exact command_refuses rfl (refuses_first (lzEntry_eq_false (s := issued s) h))

end Sys2Proof.Proofs
end

section
/-! PROOFS. Every command ends where the sink takes every byte and the source answers every request (O56). -/

namespace Sys2Proof.Proofs

open Sys2Proof.Machine Sys2Proof.Laws

/-! ### States whose ports keep no command waiting -/

/-- The source has an answer for every request that the reader may still make: `End` has come already, or there is one for
each byte of the packed size that has not been received. -/
def Fed (s : State) : Prop :=
  s.reader.endAt.isSome = true ∨ s.reader.packed.toNat - s.reader.inCount.toNat ≤ s.source.length

/-- The sink takes every byte, the reader counts right, and the source is ready for what the reader may ask. -/
structure Supplied (s : State) : Prop where
  sinkOpen : s.sinkRoom = none
  counted : ReaderCounted s.reader
  fed : Fed s

/-- The computation never waits: it comes to its end in a state that is supplied again, or it raises. -/
inductive Flows {α : Type} : EStateM.Result Stop State α → Prop
  | ok (a : α) (t : State) (h : Supplied t) : Flows (.ok a t)
  | raise (c : ErrCode) (t : State) : Flows (.error (.raise c) t)

/-- The computation has stopped to wait for an answer of the source or for the sink. -/
def Waits {α : Type} (x : EStateM.Result Stop State α) : Prop := ∃ t, x = .error .stall t

theorem Flows.not_waits {α : Type} {x : EStateM.Result Stop State α} (h : Flows x) : ¬ Waits x := by
  rintro ⟨t, rfl⟩
  cases h

theorem flows_bind {α β : Type} {m : Eng α} {f : α → Eng β} {s : State} (hm : Flows (m s))
    (hf : ∀ a t, Supplied t → Flows (f a t)) : Flows ((m >>= f) s) := by
  rw [eng_bind]
  cases hx : m s with
  | ok a t =>
    rw [hx] at hm
    cases hm with
    | ok _ _ ht => exact hf a t ht
  | error e t =>
    rw [hx] at hm
    cases hm with
    | raise c _ => exact .raise c t

/-! ### Requests that are answered -/

theorem requestByte_not_waits {s : State} (h : s.source ≠ []) : ¬ Waits (requestByte s) := by
  rintro ⟨t, ht⟩
  rcases requestByte_cases s with ⟨hs, -⟩ | ⟨b, rest, -, hs⟩ | ⟨rest, -, hs⟩ | ⟨rest, -, hs⟩
  · exact h hs
  all_goals cases ht.symm.trans hs

/-- An answered request has taken one answer. -/
theorem requestByte_source {s t : State} {a : Unit} (h : requestByte s = .ok a t) :
    s.source.length = t.source.length + 1 := by
  rcases requestByte_cases s with ⟨-, hs⟩ | ⟨b, rest, hsource, hs⟩ | ⟨rest, hsource, hs⟩ | ⟨rest, -, hs⟩ <;>
    cases h.symm.trans hs
  · exact congrArg List.length hsource
  · exact congrArg List.length hsource

/-- As many requests as the source has answers for are all answered. -/
theorem requestBytes_not_waits : ∀ (n : Nat) {s : State}, n ≤ s.source.length → ¬ Waits (requestBytes n s)
  | 0, s, _ => by
    rintro ⟨t, h⟩
    cases h
  | n + 1, s, hn => by
    rintro ⟨t, h⟩
    simp only [requestBytes, eng_bind, eng_get] at h
    split at h
    case h_2 e u hu =>
      cases h
      exact requestByte_not_waits (List.ne_nil_of_length_pos (by omega)) ⟨_, hu⟩
    case h_1 a u hu =>
      have hsource := requestByte_source hu
      split at h
      case isTrue => cases h
      case isFalse => exact requestBytes_not_waits n (by omega) ⟨t, h⟩

/-- An answered request leaves the source ready for the others. -/
theorem requestByte_fed {n : Nat} {s t : State} {a : Unit} (h : requestByte s = .ok a t)
    (hmay : MayRequest (n + 1) s.reader) (hfed : Fed s) : Fed t := by
  obtain ⟨hasked, hcounts⟩ := requestByte_ok h
  have hcounts := hcounts n hmay
  by_cases hend : t.reader.endAt.isSome = true
  · exact .inl hend
  · rw [if_neg hend] at hcounts
    obtain ⟨-, hcount⟩ := hcounts
    have hnone := hasked.endStays (Option.not_isSome_iff_eq_none.mp hend)
    have hleft := hfed.resolve_left (by simp [hnone])
    have hsource := requestByte_source h
    have hpacked : t.reader.packed = s.reader.packed := by rw [hasked.reader]
    exact .inr (by rw [hpacked]; omega)

theorem requestBytes_fed : ∀ (n : Nat) {s t : State} {a : Unit}, requestBytes n s = .ok a t → MayRequest n s.reader →
    Fed s → Fed t
  | 0, s, t, a, h, _, hfed => by
    cases h
    exact hfed
  | n + 1, s, t, a, h, hmay, hfed => by
    simp only [requestBytes, eng_bind, eng_get] at h
    split at h
    case h_2 => cases h
    case h_1 _ u hu =>
      have hfedu := requestByte_fed hu hmay hfed
      have hmayu := (requestByte_ok hu).2 n hmay
      split at h
      case isTrue =>
        cases h
        exact hfedu
      case isFalse hend =>
        rw [if_neg hend] at hmayu
        exact requestBytes_fed n h hmayu.1 hfedu

/-- The reader may make no more requests than the source has answers for. -/
theorem MayRequest.le_source {n : Nat} {s : State} (h : MayRequest n s.reader) (hfed : Fed s) : n ≤ s.source.length := by
  rcases h.2 with rfl | ⟨hend, hroom⟩
  · exact Nat.zero_le _
  · have hleft := hfed.resolve_left (by simp [hend])
    omega

theorem fillLookAhead_flows {s : State} (h : Supplied s) : Flows (fillLookAhead s) := by
  have hmay := mayRequest_target h.counted
  have hwaits := requestBytes_not_waits _ (hmay.le_source h.fed)
  change Flows (requestBytes (s.reader.requestTarget - s.reader.requestsMade) s)
  cases hx : requestBytes (s.reader.requestTarget - s.reader.requestsMade) s with
  | ok a t =>
    obtain ⟨hasked, hcounted⟩ := requestBytes_ok _ hx
    exact .ok a t ⟨by rw [hasked.frame]; exact h.sinkOpen, (hcounted hmay).1, requestBytes_fed _ hx hmay h.fed⟩
  | error e t =>
    cases e with
    | raise c => exact .raise c t
    | stall => exact absurd ⟨t, hx⟩ hwaits

/-! ### Commands made of the port operations -/

theorem Supplied.of_portSide {s t : State} (h : Supplied s) (ht : portSide t = portSide s) : Supplied t := by
  simp only [portSide, Prod.mk.injEq] at ht
  obtain ⟨hreader, hsource, hsink, -, -⟩ := ht
  exact ⟨hsink.trans h.sinkOpen, hreader ▸ h.counted, by unfold Fed; rw [hreader, hsource]; exact h.fed⟩

theorem quiet_flows {α : Type} {m : Eng α} (hm : Quiet m) {s : State} (h : Supplied s) : Flows (m s) := by
  rcases hm s with ⟨a, t, hok, ht⟩ | ⟨c, t, herr, -⟩
  · rw [hok]
    exact .ok a t (h.of_portSide ht)
  · rw [herr]
    exact .raise c t

/-- Whatever is made of the port operations waits for no port that is supplied. -/
theorem UsesPorts.flows {α : Type} {m : Eng α} (hm : UsesPorts m) : ∀ s : State, Supplied s → Flows (m s) := by
  induction hm with
  | quiet hq => exact fun s h => quiet_flows hq h
  | movePos pos draws =>
    intro s h
    have hcounted := h.counted
    exact fillLookAhead_flows (s := { s with draws := draws s, reader := { s.reader with pos := pos s } })
      ⟨h.sinkOpen, ⟨hcounted.counted, hcounted.withinPacked, hcounted.endLast⟩, h.fed⟩
  | emit b =>
    intro s h
    rw [emit_open h.sinkOpen]
    exact .ok () _ ⟨h.sinkOpen, h.counted, h.fed⟩
  | bind _ _ ihm ihf => exact fun s h => flows_bind (ihm s h) fun a t ht => ihf a t ht

/-! ### BR_INIT and ENTRY_START, which begin an epoch -/

/-- The start of the reader makes two requests at most (R155, R156). -/
theorem brInit_not_waits {s : State} (h : 2 ≤ s.source.length) : ¬ Waits (brInit s) := by
  have hfill : ¬ Waits (fillLookAhead { s with reader :=
      { s.reader with packed := s.packedSize, pos := 0#64, endAt := none, inCount := 0#64, bytes := [] } }) := by
    refine requestBytes_not_waits _ (Nat.le_trans ?_ h)
    simp [Reader.requestTarget]
  rintro ⟨t, ht⟩
  simp only [brInit, eng_bind, eng_modify] at ht
  split at ht
  case h_1 => cases ht
  case h_2 e u hu =>
    cases ht
    exact hfill ⟨_, hu⟩

theorem entryStart_not_waits {s : State} (h : 2 ≤ s.source.length) : ¬ Waits (entryStart s) := by
  rintro ⟨t, ht⟩
  rcases Nat.lt_or_ge 8 s.method.toNat with hm | hm
  · rw [entryStart_reserved hm] at ht
    cases ht
  · have hmethod : s.clearEntry.method = s.method := rfl
    have hgood : decide (8 < s.method.toNat) = false := decide_eq_false (by omega)
    simp only [entryStart, eng_bind, eng_modify, eng_get, hmethod, hgood, eng_raiseIf_false] at ht
    split at ht
    case h_1 b u hu =>
      rw [startMethod_eq u hm] at ht
      cases ht
    case h_2 e u hu =>
      cases ht
      exact brInit_not_waits (s := s.clearEntry.latchEntry) h ⟨_, hu⟩

/-! ### The obligation -/

/-- A command whose body does not wait ends: with its body, or in a failure. -/
theorem command_ends_of_not_waits {legal : Bool} {allowed : EState → Bool} {body : Eng Unit} {s : State}
    (h : ¬ Waits (body (issued s))) : ∃ t, command legal allowed body s = .next t ∧ t.cmd = none := by
  cases legal with
  | false => exact ⟨_, command_illegal, rfl⟩
  | true =>
    cases ha : allowed s.estate with
    | false => exact ⟨_, command_refused rfl ha, rfl⟩
    | true =>
      cases hx : body (issued s) with
      | ok a t => exact ⟨_, command_ok rfl ha hx, rfl⟩
      | error e t =>
        cases e with
        | raise c => exact ⟨_, command_raise rfl ha hx, rfl⟩
        | stall => exact absurd ⟨t, hx⟩ h

/-- Settles O56: the two commands that begin an epoch make two requests at most, SOFT_RESET makes none, and every other
body is made of the port operations (`exec_usesPorts`), which wait for no port that is supplied (`UsesPorts.flows`). -/
theorem everyCommandEnds : Obligations.EveryCommandEnds := by
  unfold Obligations.EveryCommandEnds
  intro s i hinv hsink hsource
  by_cases hepoch : i = .brInit ∨ i = .entryStart
  · rw [if_pos hepoch] at hsource
    rcases hepoch with rfl | rfl
    · exact command_ends_of_not_waits (legal := true) (allowed := notInFailed) (brInit_not_waits (s := issued s) hsource)
    · exact command_ends_of_not_waits (legal := true) (allowed := inEveryState)
        (entryStart_not_waits (s := issued s) hsource)
  · rw [if_neg hepoch] at hsource
    by_cases hreset : i = .softReset
    · subst hreset
      exact ⟨_, exec_softReset s, rfl⟩
    · obtain ⟨body, hbody, huses⟩ := exec_usesPorts (not_or.mp hepoch).1 (not_or.mp hepoch).2 hreset
      have hsupplied : Supplied (issued s) := ⟨hsink, readerInv_counted hinv, hsource⟩
      rw [hbody]
      exact command_ends_of_not_waits (huses.flows _ hsupplied).not_waits

end Sys2Proof.Proofs
end

section
/-! PROOFS. What a command that ends in FAILED leaves of ERR and its code (O12), and the engine's turn while no command
runs (O6). -/

namespace Sys2Proof.Proofs

open Sys2Proof.Machine Sys2Proof.Laws

/-! ### The end of a command in FAILED (O12) -/

section Failures

variable {i : Instr} {s t : State}

/-- What the two ways of failing leave (R402): the first code is the one that stood there, if ERR was set. -/
theorem failure_status {u : State} {c : ErrCode} (h : t = State.failCommand c u ∨ t = State.failDecode c u) :
    t.err = true ∧ t.noneValid = true ∧ t.errcode = if u.err then u.errcode else some c := by
  rcases h with rfl | rfl <;> exact ⟨rfl, rfl, rfl⟩

/-- Of the commands whose body is moves alone, FAILED refuses every one but NOP (R333). -/
theorem allowedIn_failed_of_ne_nop (hi : plain i = true) (hnop : i ≠ .nop) : allowedIn i .failed = false := by
  cases i with
  | nop => exact absurd rfl hnop
  | softReset | entryStart => cases hi
  | _ => rfl

/-- ENTRY_START fails only after it has cleared ERR (R334). -/
theorem entryStart_failed (hcmd : s.cmd ≠ none) (h : exec .entryStart s = .next t) (hend : t.cmd = none)
    (hfailed : t.estate = .failed) : ∃ u c, u.err = false ∧ t = State.failCommand c u := by
  have hc : command (operandsLegal .entryStart) inEveryState entryStart s = .next t := h
  rcases command_cases hc with ⟨hl, -⟩ | ⟨-, ha, -⟩ | ⟨-, -, ⟨u, hu, rfl⟩ | ⟨c, u, hu, rfl⟩ | ⟨u, -, rfl⟩⟩
  · cases hl
  · cases ha
  · obtain ⟨-, v, -, rfl⟩ := entryStart_ends_ok hu
    cases hfailed
  · refine ⟨u, c, ?_, rfl⟩
    rcases entryStart_ends_error hu with rfl | hhalt
    · rfl
    · obtain ⟨-, herr, -⟩ := halt_sameStatus hhalt
      exact herr
  · exact absurd hend hcmd

/-- Every other command but NOP that ends in FAILED has failed, with ERR and its code as the command found them. -/
theorem exec_failed (hstart : i ≠ .entryStart) (hnop : i ≠ .nop) (hcmd : s.cmd ≠ none) (h : exec i s = .next t)
    (hend : t.cmd = none) (hfailed : t.estate = .failed) :
    ∃ u c, u.err = s.err ∧ u.errcode = s.errcode ∧ (t = State.failCommand c u ∨ t = State.failDecode c u) := by
  rcases exec_ends h with _ | _ | ⟨b, u, c, hb, hu⟩ | ⟨u, hi, ha, hu⟩ | _ | ⟨u, hi, -, -⟩ | _
  case failsDecode => exact ⟨issued s, .badOperand, rfl, rfl, .inr rfl⟩
  case waits => exact absurd hend hcmd
  case fails =>
    obtain ⟨-, herr, hcode, -⟩ := halt_sameStatus hu
    cases hb with
    | issued => exact ⟨u, c, herr, hcode, .inl rfl⟩
    | cleared hi => exact absurd hi hstart
    | latched hi => exact absurd hi hstart
  case completes =>
    obtain ⟨-, -, -, -, -, hestate, -⟩ := path_sameStatus hu
    have hfound : s.estate = .failed := hestate.symm.trans hfailed
    rw [hfound, allowedIn_failed_of_ne_nop hi hnop] at ha
    cases ha
  case resets => cases hfailed
  case starts => exact absurd hi hstart
  case closes => cases hfailed

end Failures

/-- Settles O12: a command that ends in FAILED has failed (`exec_failed`, `entryStart_failed`), and R402's lines keep the
code where the failure finds ERR set. -/
theorem firstFailureKept : Obligations.FirstFailureKept := by
  unfold Obligations.FirstFailureKept
  intro s t i hnop hcmd h hend hfailed
  by_cases hstart : i = .entryStart
  · subst hstart
    obtain ⟨u, c, herr, ht⟩ := entryStart_failed hcmd h hend hfailed
    obtain ⟨hset, hnone, hcode⟩ := failure_status (.inl ht)
    exact ⟨hset, hnone, fun _ hne => absurd rfl hne, fun _ => by simp [hcode, herr]⟩
  · obtain ⟨u, c, herr, hcode, ht⟩ := exec_failed hstart hnop hcmd h hend hfailed
    obtain ⟨hset, hnone, hcode'⟩ := failure_status ht
    rw [herr, hcode] at hcode'
    refine ⟨hset, hnone, fun hs _ => by rw [hcode', if_pos hs], fun hs => ?_⟩
    simp [hcode', hs.resolve_right hstart]

/-! ### The engine's turn while no command runs (O6) -/

theorem engineMove_idle {s : State} (h : s.busy = false) : engineMove s = .next s := by
  have hcmd : s.cmd = none := by simpa [State.busy] using h
  simp only [engineMove, hcmd]

/-- Settles O6: with no schedule and at the engine's turn in it, the step is the engine's move. -/
theorem idleBlockChangesNothing : Obligations.IdleBlockChangesNothing := by
  unfold Obligations.IdleBlockChangesNothing
  intro s hidle
  refine ⟨fun hs => ?_, fun rest hs => ?_⟩
  · simp only [step, hs, engineMove_idle hidle]
  · have hrest : State.busy { s with schedule := rest } = false := hidle
    simp only [step, hs, moveOf, engineMove_idle hrest]

end Sys2Proof.Proofs
end

section
/-! PROOFS. The fields of the STATUS word and the interrupt output (O9). -/

namespace Sys2Proof.Proofs

open Sys2Proof.Machine Sys2Proof.Laws

/-- The single bits of the STATUS word (R34). -/
theorem status_bits (s : State) :
    s.status.getLsbD 0 = s.busy ∧ s.status.getLsbD 1 = s.done ∧ s.status.getLsbD 2 = s.err ∧
    s.status.getLsbD 3 = false ∧ s.status.getLsbD 8 = s.overrun ∧ s.status.getLsbD 9 = s.blkEmpty ∧
    s.status.getLsbD 10 = s.dropped := by
  simp only [State.status, BitVec.getLsbD_append]
  and_intros <;> simp

theorem status_errcode (s : State) : s.status.extractLsb' 4 4 = errNumber s.errcode := by
  unfold State.status
  iterate 4 rw [BitVec.extractLsb'_append_eq_of_le (by decide)]
  exact BitVec.extractLsb'_append_eq_right

theorem status_estate (s : State) : s.status.extractLsb' 11 2 = estateNumber s.estate := by
  unfold State.status
  iterate 8 rw [BitVec.extractLsb'_append_eq_of_le (by decide)]
  exact BitVec.extractLsb'_append_eq_right

theorem status_upperZeros (s : State) : s.status.extractLsb' 13 19 = 0#19 := by
  unfold State.status
  iterate 8 rw [BitVec.extractLsb'_append_eq_of_le (by decide)]
  exact BitVec.extractLsb'_append_eq_left

/-- The interrupt output from the registers as they read (R405). -/
theorem irq_of_registers (s : State) :
    s.irq = ((s.readReg 0x08).getLsbD 7 && ((s.readReg 0x04).getLsbD 1 || (s.readReg 0x04).getLsbD 2)) := by
  obtain ⟨-, hdone, herr, -⟩ := status_bits s
  have hstatus : s.readReg 0x04 = s.status := rfl
  have henable : (s.readReg 0x08).getLsbD 7 = s.irqEn := by simp [State.readReg, State.irqEn]
  rw [hstatus, henable, hdone, herr, State.irq]

/-- Settles O9, field by field. -/
theorem statusWordFields : Obligations.StatusWordFields := by
  unfold Obligations.StatusWordFields
  refine ⟨fun s => ?_, irq_of_registers⟩
  obtain ⟨hbusy, hdone, herr, hzero, hoverrun, hempty, hdropped⟩ := status_bits s
  refine ⟨hbusy, hdone, herr, hzero, (status_errcode s).trans ?_, hoverrun, hempty, hdropped,
    (status_estate s).trans ?_, status_upperZeros s⟩
  · cases s.errcode with
    | none => rfl
    | some c => cases c <;> rfl
  · cases s.estate <;> rfl

end Sys2Proof.Proofs
end

section
/-! PROOFS. The reset state and the reset input (O10, O60). -/

namespace Sys2Proof.Proofs

open Sys2Proof.Machine Sys2Proof.Laws

/-! ### The reset values (O10) -/

theorem reset_atReset : State.reset.AtReset where
  status := by decide
  ctrl := by decide
  zero := by decide
  ident := rfl
  packed := rfl
  noEnd := rfl
  noneValid := rfl
  irq := by decide

/-- The reset input leaves another state than `State.reset` only outside the items of R450: the ports, the agents' moves
and the records (log 28). -/
theorem hardReset_atReset (s : State) : (hardReset s).AtReset where
  status := reset_atReset.status
  ctrl := reset_atReset.ctrl
  zero := reset_atReset.zero
  ident := rfl
  packed := rfl
  noEnd := rfl
  noneValid := rfl
  irq := reset_atReset.irq

theorem step_reset {s : State} {rest : List Event} (hs : s.schedule = .reset :: rest) :
    step s = .next (hardReset { s with schedule := rest }) := by
  simp only [step, hs, moveOf]

/-- Settles O10: the reset input is `hardReset`, whose registers read as those of `State.reset`. -/
theorem resetValues : Obligations.ResetValues := by
  unfold Obligations.ResetValues
  exact ⟨reset_atReset, fun s rest hs => ⟨_, step_reset hs, hardReset_atReset _, rfl⟩⟩

/-! ### The invariants at reset (O60) -/

/-- The reset state is what the reset input makes of it. -/
theorem hardReset_reset : hardReset State.reset = State.reset := rfl

/-- An invariant that survives the reset input in any state holds at reset. -/
theorem Kept.reset {P F : State → Prop} (hk : Kept P F) : P State.reset :=
  hardReset_reset ▸ hk.hardReset State.reset

/-- Settles O60: each invariant of O57 to O59 survives the reset input. -/
theorem resetMeetsInvariants : Obligations.ResetMeetsInvariants := by
  unfold Obligations.ResetMeetsInvariants
  exact ⟨kept_ramsWf.reset, kept_statusInv.reset, kept_windowInv.reset, kept_readerInv.reset, kept_tablesInv.reset,
    kept_arenaInv.reset⟩

end Sys2Proof.Proofs
end

section
/-! PROOFS. DYN_DECODE_C and DYN_DECODE_P (O42), and DYN_DECODE_C below the root (O43). -/

namespace Sys2Proof.Proofs

open Sys2Proof.Machine Sys2Proof.Laws

/-! ### Commands on the trees that have completed -/

/-- A command that ends outside FAILED, and whose body does not wait, has made its checks and has come to its body's end. -/
theorem completed_command {legal : Bool} {body : Eng Unit} {s u : State} (h : command legal notInFailed body s = .next u)
    (hu : u.estate ≠ .failed) (hwait : ∀ t, body (issued s) ≠ .error .stall t) :
    legal = true ∧ s.estate ≠ .failed ∧ ∃ t, body (issued s) = .ok () t ∧ u = t.retire := by
  rcases command_cases h with ⟨-, rfl⟩ | ⟨-, -, rfl⟩ | ⟨hl, ha, ⟨t, hok, rfl⟩ | ⟨c, t, -, rfl⟩ | ⟨t, hstall, -⟩⟩
  · exact absurd rfl hu
  · exact absurd rfl hu
  · exact ⟨hl, notInFailed_iff.mp ha, t, hok, rfl⟩
  · exact absurd rfl hu
  · exact absurd hstall (hwait t)

/-- The same for the shape of the commands on the trees: a flag, one check, and the rest. -/
theorem completed_checked {legal : Bool} {p bad : State → Bool} {c : ErrCode} {m : State → Eng Unit} {s u : State}
    (h : command legal notInFailed (do
      require p
      let t ← get
      raiseIf (bad t) c
      m t) s = .next u)
    (hu : u.estate ≠ .failed) (hwait : ∀ t, m (issued s) (issued s) ≠ .error .stall t) :
    legal = true ∧ s.estate ≠ .failed ∧ p (issued s) = true ∧ bad (issued s) = false ∧
      ∃ t, m (issued s) (issued s) = .ok () t ∧ u = t.retire := by
  have hbody : (do
      require p
      let t ← get
      raiseIf (bad t) c
      m t : Eng Unit) (issued s) =
      if p (issued s) then if bad (issued s) then .error (.raise c) (issued s) else m (issued s) (issued s)
      else .error (.raise .badState) (issued s) := by
    cases hp : p (issued s) <;> cases hbad : bad (issued s) <;> simp [eng_raiseIf, hp, hbad]
  obtain ⟨hl, he, t, hok, rfl⟩ := completed_command h hu fun t => by
    rw [hbody]
    split_ifs
    · nofun
    · exact hwait t
    · nofun
  rw [hbody] at hok
  split_ifs at hok with hp hbad
  exact ⟨hl, he, hp, Bool.eq_false_iff.mpr hbad, t, hok, rfl⟩

section Completed

variable {s u : State}

theorem completes_dynUpdateC {x : BitVec 9} (h : s.completes (.dynUpdateC x) u) :
    s.estate ≠ .failed ∧ s.arena.validC = true ∧ u = (withArena s (Arena.updateC x.toNat s.arena s.draws)).ended [] := by
  obtain ⟨-, he, hv, -, t, ht, rfl⟩ := completed_checked (p := fun s => s.arena.validC)
    (bad := fun s => decide (s.arena.nMax.toNat ≤ x.toNat)) (m := fun _ => updateArena (Arena.updateC x.toNat)) h.1 h.2.2
    fun t => nofun
  cases ht
  exact ⟨he, hv, rfl⟩

theorem completes_dynUpdateP {x : BitVec 7} (h : s.completes (.dynUpdateP x) u) :
    s.estate ≠ .failed ∧ s.arena.validP = true ∧ u = (withArena s (Arena.updateP x.toNat s.arena s.draws)).ended [] := by
  obtain ⟨-, he, hv, -, t, ht, rfl⟩ := completed_checked (legal := operandsLegal (.dynUpdateP x))
    (p := fun s => s.arena.validP) (c := .symbolRange) (bad := fun s => decide (s.arena.lastPosition < x.toNat))
    (m := fun _ => updateArena (Arena.updateP x.toNat)) h.1 h.2.2
    fun t => nofun
  cases ht
  exact ⟨he, hv, rfl⟩

theorem completes_dynNewNode {x : BitVec 7} (h : s.completes (.dynNewNode x) u) :
    s.estate ≠ .failed ∧ s.arena.validP = true ∧ s.arena.full = false ∧
      u = (withArena s (Arena.makeNewNode x.toNat s.arena s.draws)).ended [] := by
  have hrest : (do
      raiseIf s.arena.full .indexOverflow
      updateArena (Arena.makeNewNode x.toNat) : Eng Unit) (issued s) =
      if s.arena.full then .error (.raise .indexOverflow) (issued s)
      else .ok () (withArena (issued s) (Arena.makeNewNode x.toNat s.arena s.draws)) := by
    cases s.arena.full <;> rfl
  obtain ⟨-, he, hv, -, t, ht, rfl⟩ := completed_checked (legal := operandsLegal (.dynNewNode x))
    (p := fun s => s.arena.validP) (c := .symbolRange) (bad := fun s => decide (x.toNat ≠ s.arena.lastPosition + 1))
    (m := fun s => do
      raiseIf s.arena.full .indexOverflow
      updateArena (Arena.makeNewNode x.toNat)) h.1 h.2.2 fun t => by
    rw [show (issued s).arena = s.arena from rfl, hrest]
    split_ifs <;> nofun
  rw [show (issued s).arena = s.arena from rfl, hrest] at ht
  split_ifs at ht with hfull
  cases ht
  exact ⟨he, hv, Bool.eq_false_iff.mpr hfull, rfl⟩

end Completed

/-! ### The walk (R279) -/

theorem peek_one (r : Reader) : r.peek 1 = if r.bit r.pos.toNat then 1 else 0 := by
  simp [Reader.peek, Reader.bitsAt]

/-- The walk reads the bits that lead to a leaf, and no more. -/
theorem walkFrom_spells {x : Nat} : ∀ (bits : List Bool) (turns n : Nat) (s : State), bits.length < turns →
    s.reader.drained → s.reader.pos.toNat + bits.length ≤ 2 ^ 64 → s.reader.startsWith s.reader.pos.toNat bits →
    s.arena.spells n bits x →
    walkFrom turns (s.arena.getChild n) s = .ok (leafLink x) (s.skipped bits.length)
  | _, 0, _, _, hturns, _, _, _, _ => absurd hturns (Nat.not_lt_zero _)
  | [], turns + 1, n, s, _, _, _, _, hspell => by
    have hleaf : s.arena.getChild n = leafLink x := hspell
    rw [walkFrom, hleaf, if_neg (leafLink_neg x).not_gt]
    exact congrArg _ (skipped_zero s).symm
  | b :: bits, turns + 1, n, s, hturns, hd, hpos, hs, ⟨c, hc, hc1, hspell⟩ => by
    obtain ⟨hb, hrest⟩ := startsWith_cons.mp hs
    simp only [List.length_cons] at hturns hpos ⊢
    have hnext : bits ≠ [] → (s.skipped 1).reader.pos.toNat = s.reader.pos.toNat + 1 := fun hne => by
      have := List.length_pos_of_ne_nil hne
      exact advance_pos (by omega)
    have hwalk := walkFrom_spells bits turns (if b then c - 1 else c) (s.skipped 1) (by omega) hd
      (by
        by_cases hne : bits = []
        · rw [hne]
          exact (s.skipped 1).reader.pos.isLt.le
        · rw [hnext hne]
          omega)
      (fun j hj => by
        rw [hnext fun hne => absurd hj (by simp [hne])]
        exact hrest j hj)
      hspell
    have hbit : getBits 1 s = .ok (if b then 1 else 0) (s.skipped 1) := by
      rw [getBits_drained hd (by decide), peek_one, hb]
    have hchild : c - (if b then 1 else 0) = if b then c - 1 else c := by
      split_ifs <;> rfl
    rw [walkFrom, hc, if_pos (by omega), bind_of_ok hbit, bind_of_ok (eng_get _), Int.toNat_natCast, hchild]
    exact hwalk.trans (by rw [skipped_skipped, Nat.add_comm 1])

theorem dynWalk_spells {x root : Nat} {bits : List Bool} {s : State} (hlen : bits.length < 884) (hd : s.reader.drained)
    (hpos : s.reader.pos.toNat + bits.length ≤ 2 ^ 64) (hs : s.reader.startsWith s.reader.pos.toNat bits)
    (hspell : s.arena.spells root bits x) : dynWalk root s = .ok x (s.skipped bits.length) := by
  have hwalk := walkFrom_spells bits arenaBound root s (hlen.trans (by decide)) hd hpos hs hspell
  rw [dynWalk, bind_of_ok (eng_get s), bind_of_ok hwalk, if_pos (leafLink_neg x), leafSymbol_leafLink]
  rfl

/-! ### DYN_DECODE_C (R280) -/

/-- A state after a decoding: bits consumed, a tree updated, and RESULT. -/
def decoded (s : State) (x : Arena × Nat) (n v : Nat) : State :=
  { withArena (s.skipped n) x with result := BitVec.ofNat 32 v }

section DecodeC

variable {s : State} {x : Nat} {bits : List Bool} (he : s.estate ≠ .failed) (hr : s.reader.valid = true)
  (hd : s.reader.drained) (hv : s.arena.validC = true) (hlen : bits.length < 884)
  (hpos : s.reader.pos.toNat + bits.length ≤ 2 ^ 64) (hs : s.reader.startsWith s.reader.pos.toNat bits)
  (hspell : s.arena.spells 0 bits x)

include hr hd hv hlen hpos hs hspell

/-- DYN_DECODE_C up to the bits that N1 takes besides. -/
theorem dynDecodeC_walked : dynDecodeC s = (do
    if x = s.arena.n1.toNat then do
      let v ← getBits 8
      pure (x + v)
    else pure x : Eng Nat) (withArena (s.skipped bits.length) (Arena.updateC x s.arena s.draws)) := by
  have hn1 : (Arena.updateC x s.arena s.draws).1.n1 = s.arena.n1 := by rw [(rewrites_updateC _ _ _).regs]
  refine (bind_of_ok (eng_require_true hr)).trans <| (bind_of_ok (eng_require_true hv)).trans <|
    (bind_of_ok (dynWalk_spells hlen hd hpos hs hspell)).trans <| (bind_of_ok (eng_updateArena _ _)).trans <|
    (bind_of_ok (eng_get _)).trans (congrFun (if_congr (by rw [← hn1]; rfl) rfl rfl) _)

include he

theorem exec_dynDecodeC_plain (hx : x ≠ s.arena.n1.toNat) :
    exec .dynDecodeC s = .next ((decoded s (Arena.updateC x s.arena s.draws) bits.length x).ended []) := by
  have hwalked := dynDecodeC_walked (s := issued s) hr hd hv hlen hpos hs hspell
  exact command_ended _ [] rfl (notInFailed_iff.mpr he)
    ((bind_of_ok (hwalked.trans (congrFun (if_neg hx) _))).trans rfl)

theorem exec_dynDecodeC_n1 (hx : x = s.arena.n1.toNat) :
    exec .dynDecodeC s = .next ((decoded s (Arena.updateC x s.arena s.draws) (bits.length + 8)
      (x + (s.reader.advance bits.length).peek 8)).ended []) := by
  have hbits := getBits_drained (n := 8)
    (s := withArena ((issued s).skipped bits.length) (Arena.updateC x s.arena s.draws)) hd (by decide)
  have hwalked := dynDecodeC_walked (s := issued s) hr hd hv hlen hpos hs hspell
  refine command_ended _ [] rfl (notInFailed_iff.mpr he)
    ((bind_of_ok (hwalked.trans ((congrFun (if_pos hx) _).trans (bind_of_ok hbits)))).trans ?_)
  rw [decoded, ← skipped_skipped]
  rfl

end DecodeC

/-! ### DYN_DECODE_P (R281) -/

theorem positionValue_eq {x v : Nat} (hx : x < 128) (hv : v < 64) : positionValue (314 + x) v = x * 64 + v := by
  unfold positionValue nChar
  omega

theorem growP_notDue {s : State} (h : s.growthDue = false) : ∀ turns, growP turns s = .ok () s
  | 0 => rfl
  | turns + 1 => by simp [growP, h]

theorem growthDue_iff {s : State} :
    s.growthDue = true ↔ s.arena.nextCount ≠ 0xFFFFFFFF#32 ∧ s.arena.nextCount.toNat < s.decodeCount.toNat :=
  (Bool.and_eq_true_iff).trans (and_congr decide_eq_true_iff decide_eq_true_iff)

theorem exec_dynDecodeP {s : State} {x : Nat} {bits : List Bool} (he : s.estate ≠ .failed) (hr : s.reader.valid = true)
    (hd : s.reader.drained) (hv : s.arena.validP = true)
    (hdue : s.arena.nextCount = 0xFFFFFFFF#32 ∨ s.decodeCount.toNat ≤ s.arena.nextCount.toNat) (hx : x < 128)
    (hlen : bits.length < 884) (hpos : s.reader.pos.toNat + bits.length ≤ 2 ^ 64)
    (hs : s.reader.startsWith s.reader.pos.toNat bits) (hspell : s.arena.spells 628 bits (314 + x)) :
    exec .dynDecodeP s = .next ((decoded s (Arena.updateP x s.arena s.draws) (bits.length + 6)
      (x * 64 + (s.reader.advance bits.length).peek 6)).ended []) := by
  have hnot : (issued s).growthDue = false := Bool.eq_false_iff.mpr fun h => by
    obtain ⟨hne, hlt⟩ := growthDue_iff.mp h
    exact hdue.elim hne fun hle => absurd hlt (not_lt.mpr hle)
  have hwalk := dynWalk_spells (s := issued s) hlen hd hpos hs hspell
  have hbits := getBits_drained (n := 6)
    (s := withArena ((issued s).skipped bits.length) (Arena.updateP x s.arena s.draws)) hd (by decide)
  have hvalue := positionValue_eq hx (bitsAt_lt (s.reader.advance bits.length) 6 (s.reader.advance bits.length).pos.toNat)
  have hbody : dynDecodeP (issued s) = .ok (x * 64 + (s.reader.advance bits.length).peek 6)
      (withArena (((issued s).skipped bits.length).skipped 6) (Arena.updateP x s.arena s.draws)) :=
    (bind_of_ok (eng_require_true hr)).trans <| (bind_of_ok (eng_require_true hv)).trans <|
      (bind_of_ok (growP_notDue hnot arenaBound)).trans <| (bind_of_ok hwalk).trans <|
      (bind_of_ok (eng_updateArena _ _)).trans <| (bind_of_ok hbits).trans (congrArg (EStateM.Result.ok · _) hvalue)
  refine command_ended _ [] rfl (notInFailed_iff.mpr he) ((bind_of_ok hbody).trans ?_)
  rw [decoded, ← skipped_skipped]
  rfl

/-! ### Growth (R276) -/

/-- The state after one turn of the growth loop. -/
def grownOnce (s : State) : State :=
  let x := Arena.makeNewNode (s.arena.nextCount.toNat / 64) s.arena s.draws
  withArena s (x.1.stepNextCount, x.2)

theorem growP_due {s : State} (h : s.growthDue = true) (turns : Nat) :
    growP (turns + 1) s = if s.arena.full then .error (.raise .indexOverflow) s else growP turns (grownOnce s) := by
  cases hfull : s.arena.full <;> simp [growP, h, hfull, grownOnce, withArena]

/-- The loop's turn moves MOST_P by two, and leaves DYNV_P. -/
theorem grownOnce_regs (s : State) : (grownOnce s).arena.mostP = BitVec.ofNat 10 (s.arena.mostP.toNat + 1 + 1) ∧
    (grownOnce s).arena.validP = s.arena.validP := by
  have hregs := (rewrites_makeNewNode (s.arena.nextCount.toNat / 64) s.arena s.draws).regs
  rw [grownOnce, withArena]
  generalize Arena.makeNewNode _ s.arena s.draws = x at hregs
  exact ⟨by rw [Arena.stepNextCount, hregs], by rw [Arena.stepNextCount, hregs]⟩

/-- As many turns as the arena has room for are as good as more. -/
theorem growP_enough {m n : Nat} {s : State} (hm : 884 ≤ s.arena.mostP.toNat + 2 * (m + 1))
    (hn : 884 ≤ s.arena.mostP.toNat + 2 * (n + 1)) : growP (m + 1) s = growP (n + 1) s := by
  induction m generalizing n s with
  | zero =>
    have hfull : s.arena.full = true := decide_eq_true hm
    cases hdue : s.growthDue with
    | false => rw [growP_notDue hdue, growP_notDue hdue]
    | true => rw [growP_due hdue, growP_due hdue, if_pos hfull, if_pos hfull]
  | succ m ih =>
    cases hdue : s.growthDue with
    | false => rw [growP_notDue hdue, growP_notDue hdue]
    | true =>
      rw [growP_due hdue, growP_due hdue]
      split_ifs with hfull
      · rfl
      · have hroom : s.arena.mostP.toNat + 2 < 884 := not_le.mp (of_decide_eq_false (Bool.eq_false_iff.mpr hfull))
        have hmost : (grownOnce s).arena.mostP.toNat = s.arena.mostP.toNat + 2 := by
          rw [(grownOnce_regs s).1, BitVec.toNat_ofNat]
          omega
        obtain ⟨k, rfl⟩ : ∃ k, n = k + 1 := Nat.exists_eq_succ_of_ne_zero (by omega)
        exact ih (by omega) (by omega)

/-- Where growth is due, DYN_DECODE_P goes on from the state after one turn of the loop. -/
theorem dynDecodeP_grownOnce {s : State} (hr : s.reader.valid = true) (hv : s.arena.validP = true)
    (hdue : s.growthDue = true) (hroom : s.arena.full = false) : dynDecodeP s = dynDecodeP (grownOnce s) := by
  have hgrow : growP arenaBound s = growP arenaBound (grownOnce s) := by
    obtain ⟨m, hm, hbound⟩ : ∃ m, 884 ≤ m ∧ arenaBound = m + 1 + 1 := ⟨2046, by decide, rfl⟩
    rw [hbound, growP_due hdue, hroom]
    exact growP_enough (by omega) (by omega)
  have hrest {t : State} (hr : t.reader.valid = true) (hv : t.arena.validP = true) : dynDecodeP t = (do
      growP arenaBound
      let sym ← dynWalk rootP
      updateArena (Arena.countLeafP sym)
      let v ← getBits 6
      pure (positionValue sym v) : Eng Nat) t :=
    (bind_of_ok (eng_require_true hr)).trans (bind_of_ok (eng_require_true hv))
  rw [hrest hr hv, hrest (t := grownOnce s) hr ((grownOnce_regs s).2.trans hv), eng_bind, eng_bind, hgrow]

/-- What a computation's end makes of a state depends on the state it began in only where it waits. -/
theorem settle_of_ended {s t v : State} {x : EStateM.Result Stop State Unit} (h : settle t x = .next v)
    (hcmd : v.cmd ≠ t.cmd) : settle s x = .next v := by
  cases x with
  | ok a w => exact h
  | error e w =>
    cases e with
    | raise c => exact h
    | stall =>
      cases h
      exact absurd rfl hcmd

/-- From two states in which its body does the same, DYN_DECODE_P ends in the same state. -/
theorem exec_dynDecodeP_congr {s t v : State} (hs : s.estate ≠ .failed) (ht : t.estate ≠ .failed)
    (hbody : dynDecodeP (issued s) = dynDecodeP (issued t)) (hv : exec .dynDecodeP t = .next v) (hcmd : v.cmd ≠ t.cmd) :
    exec .dynDecodeP s = .next v := by
  have hrun {s : State} (hs : s.estate ≠ .failed) : exec .dynDecodeP s =
      settle s ((dynDecodeP >>= fun p => setResult p : Eng Unit) (issued s)) :=
    command_run rfl (notInFailed_iff.mpr hs)
  rw [hrun ht, eng_bind] at hv
  rw [hrun hs, eng_bind, hbody]
  exact settle_of_ended hv hcmd

/-! ### The obligations -/

/-- The growth clause: the host's DYN_NEW_NODE and the new NEXTCOUNT are one turn of the growth loop. -/
theorem exec_dynDecodeP_grown {s u v : State} {x : BitVec 7} {next : BitVec 32} (hcmd : s.cmd ≠ none)
    (hr : s.reader.valid = true) (hne : s.arena.nextCount ≠ 0xFFFFFFFF#32)
    (hlt : s.arena.nextCount.toNat < s.decodeCount.toNat) (hx : x.toNat = s.arena.nextCount.toNat / 64)
    (hu : s.completes (.dynNewNode x) u)
    (hnext : next = if s.arena.nn.toNat ≤ (s.arena.nextCount + 64#32).toNat then 0xFFFFFFFF#32
      else s.arena.nextCount + 64#32)
    (hv : exec .dynDecodeP { u with cmd := s.cmd, arena := { u.arena with nextCount := next } } = .next v)
    (hend : v.cmd = none) : exec .dynDecodeP s = .next v := by
  obtain ⟨he, hvalid, hroom, rfl⟩ := completes_dynNewNode hu
  have hregs := (rewrites_makeNewNode x.toNat s.arena s.draws).regs
  have hgrown := dynDecodeP_grownOnce (s := issued s) hr hvalid (growthDue_iff.mpr ⟨hne, hlt⟩) hroom
  have honce : grownOnce (issued s) = withArena (issued s)
      ((Arena.makeNewNode x.toNat s.arena s.draws).1.stepNextCount, (Arena.makeNewNode x.toNat s.arena s.draws).2) := by
    rw [hx]
    rfl
  generalize Arena.makeNewNode x.toNat s.arena s.draws = y at hregs honce hv
  have hcount : next = if y.1.nn.toNat ≤ (y.1.nextCount + 64#32).toNat then never else y.1.nextCount + 64#32 := by
    rw [hregs]
    exact hnext
  have hsame : grownOnce (issued s) = issued { (withArena s y).ended [] with
      cmd := s.cmd
      arena := { y.1 with nextCount := next } } := by
    rw [honce, Arena.stepNextCount, ← hcount]
    rfl
  refine exec_dynDecodeP_congr he ?_ ?_ hv ?_
  · exact he
  · exact hgrown.trans (congrArg dynDecodeP hsame)
  · exact hend ▸ hcmd.symm

/-- Settles O42: a walk reads the bits that lead to a leaf (`walkFrom_spells`), and then the update, or one turn of the growth
loop, is that of the host's command. -/
theorem dynDecodeWalks : Obligations.DynDecodeWalks := by
  unfold Obligations.DynDecodeWalks
  refine ⟨fun s u x bits hr hd hx hspell hlen hpos hs hu => ?_, fun s u x bits hr hd hdue hspell hlen hpos hs hu => ?_,
    fun s u v x next hcmd hr hne hlt hx hu hnext hv hend => exec_dynDecodeP_grown hcmd hr hne hlt hx hu hnext hv hend⟩
  · obtain ⟨he, hv, rfl⟩ := completes_dynUpdateC hu
    exact ⟨exec_dynDecodeC_plain he hr hd hv hlen hpos.le hs hspell,
      exec_dynDecodeC_n1 he hr hd hv hlen hpos.le hs hspell⟩
  · obtain ⟨he, hv, rfl⟩ := completes_dynUpdateP hu
    exact exec_dynDecodeP he hr hd hv hdue x.isLt hlen hpos.le hs hspell

/-- Settles O43: the climb is over after one increment (`climb_root`), and the one bit leads to the leaf. -/
theorem dynDecodeCUnderRoot : Obligations.DynDecodeCUnderRoot := by
  unfold Obligations.DynDecodeCUnderRoot
  intro s x n q a he hv hx hlegal hroom ha hn hq hparent
  have hupdate : Arena.updateC x.toNat s.arena s.draws = ((a.inc n).1, s.draws) := by
    have hroot : (a.inc n).2 = 0 := by
      rw [Arena.inc, ← hq]
      exact hparent
    have hleaf : s.arena.getSNode x.toNat = n := by rw [hn, ha, getSNode_setFreq]
    rw [updateC_unsaturated hroom, ← ha, hleaf, hroot]
    exact climb_root _ _ _ _
  refine ⟨by rw [exec_dynUpdateC he hv hx hlegal, hupdate, withArena_draws], fun hr hd hchild hbit hleaf => ?_⟩
  have hspell : s.arena.spells 0 [s.reader.bit s.reader.pos.toNat] x.toNat := by
    refine ⟨(s.arena.getChild 0).toNat, by omega, by omega, ?_⟩
    have hnode : (if s.reader.bit s.reader.pos.toNat then (s.arena.getChild 0).toNat - 1
        else (s.arena.getChild 0).toNat) = n := by
      split_ifs at hbit ⊢ <;> omega
    rw [hnode]
    exact hleaf
  have hs := startsWith_singleton.mpr (Eq.refl (s.reader.bit s.reader.pos.toNat))
  have hpos : s.reader.pos.toNat + [s.reader.bit s.reader.pos.toNat].length ≤ 2 ^ 64 := s.reader.pos.isLt
  have hlen : [s.reader.bit s.reader.pos.toNat].length < 884 := Nat.one_lt_succ_succ 882
  refine ⟨fun hne => ?_, fun heq => ?_⟩
  · rw [exec_dynDecodeC_plain he hr hd hv hlen hpos hs hspell hne, hupdate]
    rfl
  · rw [exec_dynDecodeC_n1 he hr hd hv hlen hpos hs hspell heq, hupdate]
    rfl

end Sys2Proof.Proofs
end

section
/-! PROOFS. The rebuild of a tree (R273), steps 1 and 2: the leaves compacted, and then the nodes from the last one down, each
a leaf or an internal node over the next pair. -/

namespace Sys2Proof.Proofs

open Sys2Proof.Machine Sys2Proof.Laws

/-! ### One node written -/

/-- A node's weight and child link, as the rebuild writes them together. -/
def setNode (a : Arena) (i v : Nat) (c : Int) : Arena := (a.setFreq i v).setChild i c

theorem getFreq_lt (a : Arena) (i : Nat) : a.getFreq i < 65536 := (cellGet 0#16 a.freq i).isLt

theorem setNode_onlyRams (a : Arena) (i v : Nat) (c : Int) : OnlyRams a (setNode a i v c) :=
  (setFreq_onlyRams a i v).trans (setChild_onlyRams _ i c)

section SetNode

variable {a : Arena} {i v : Nat} {c : Int}

theorem setNode_wf (hw : a.wf = true) : (setNode a i v c).wf = true := setChild_wf (setFreq_wf hw i v) i c

theorem getFreq_setNode (hw : a.wf = true) (hi : i < 884) (j : Nat) :
    (setNode a i v c).getFreq j = if j = i then v % 65536 else a.getFreq j := by
  have hcut : BitVec.ofNat 16 v = BitVec.ofNat 16 (v % 65536) := BitVec.eq_of_toNat_eq (by simp)
  have hset : a.setFreq i v = a.setFreq i (v % 65536) := by
    unfold Arena.setFreq
    rw [hcut]
  rw [setNode, hset]
  exact getFreq_setFreq hw hi (Nat.mod_lt _ (by decide)) j

theorem getChild_setNode (hw : a.wf = true) (hi : i < 884) (hlo : -32768 ≤ c) (hhi : c < 32768) (j : Nat) :
    (setNode a i v c).getChild j = if j = i then c else a.getChild j :=
  getChild_setChild (setFreq_wf hw i v) hi hlo hhi j

end SetNode

/-! ### Step 1: the leaves compacted -/

/-- How many of the `m` nodes from `base` on are leaves. -/
def leavesBefore (a : Arena) (base m : Nat) : Nat := Nat.count (fun i => a.getChild (base + i) < 0) m

/-- The arena `c` after step 1 has passed the `m` nodes from `base` on in the arena `a`: each leaf stands after the leaves
before it, with half its weight, rounded up. -/
structure Compacted (a : Arena) (base m : Nat) (c : Arena) : Prop where
  wf : c.wf = true
  leaf : ∀ i, i < m → a.getChild (base + i) < 0 →
    c.getFreq (base + leavesBefore a base i) = (a.getFreq (base + i) + 1) / 2 ∧
    c.getChild (base + leavesBefore a base i) = a.getChild (base + i)
  other : ∀ j, j < base ∨ base + m ≤ j → c.getFreq j = a.getFreq j ∧ c.getChild j = a.getChild j
  links : (∀ j, c.getParent j = a.getParent j) ∧ ∀ x, c.getSNode x = a.getSNode x
  regs : OnlyRams a c
  sum : ∑ q ∈ Finset.range (leavesBefore a base m), c.getFreq (base + q) =
    ∑ i ∈ Finset.range m, if a.getChild (base + i) < 0 then (a.getFreq (base + i) + 1) / 2 else 0

section Compact

variable {a c : Arena} {base m : Nat}

theorem leavesBefore_succ : leavesBefore a base (m + 1) =
    leavesBefore a base m + if a.getChild (base + m) < 0 then 1 else 0 := Nat.count_succ _ _

theorem leavesBefore_le : leavesBefore a base m ≤ m := Nat.count_le _

theorem leavesBefore_lt {i : Nat} (hi : i < m) (hleaf : a.getChild (base + i) < 0) :
    leavesBefore a base i < leavesBefore a base m := Nat.count_strict_mono (p := fun i => a.getChild (base + i) < 0) hleaf hi

theorem compacted_nil (hw : a.wf = true) : Compacted a base 0 a :=
  ⟨hw, fun _ hi => absurd hi (Nat.not_lt_zero _), fun _ _ => ⟨rfl, rfl⟩, ⟨fun _ => rfl, fun _ => rfl⟩, OnlyRams.rfl, rfl⟩

theorem Compacted.inner (h : Compacted a base m c) (hinner : ¬a.getChild (base + m) < 0) : Compacted a base (m + 1) c := by
  obtain ⟨hw, hleaf, hother, hlinks, hregs, hsum⟩ := h
  refine ⟨hw, fun i hi hneg => ?_, fun j hj => hother j (by omega), hlinks, hregs, ?_⟩
  · refine hleaf i (Nat.lt_of_le_of_ne (Nat.le_of_lt_succ hi) fun h => hinner ?_) hneg
    rw [← h]
    exact hneg
  · rw [leavesBefore_succ, Finset.sum_range_succ, if_neg hinner, if_neg hinner]
    exact hsum

theorem Compacted.leafStep (h : Compacted a base m c) (hm : base + m < 884) (hneg : a.getChild (base + m) < 0) :
    Compacted a base (m + 1)
      (setNode c (base + leavesBefore a base m) ((a.getFreq (base + m) + 1) / 2) (a.getChild (base + m))) := by
  obtain ⟨hw, hleaf, hother, hlinks, hregs, hsum⟩ := h
  have hle := leavesBefore_le (a := a) (base := base) (m := m)
  have hfits := getFreq_lt a (base + m)
  have hbounds := getChild_bounds a (base + m)
  have hF := getFreq_setNode (v := (a.getFreq (base + m) + 1) / 2) (c := a.getChild (base + m)) hw
    (show base + leavesBefore a base m < 884 by omega)
  have hC := getChild_setNode (v := (a.getFreq (base + m) + 1) / 2) (c := a.getChild (base + m)) hw
    (show base + leavesBefore a base m < 884 by omega) hbounds.1 hbounds.2
  refine ⟨setNode_wf hw, fun i hi hi' => ?_, fun j hj => ?_, hlinks, hregs.trans (setNode_onlyRams _ _ _ _), ?_⟩
  · rw [hF, hC]
    rcases Nat.lt_succ_iff_lt_or_eq.mp hi with hlt | rfl
    · have hne := leavesBefore_lt hlt hi'
      rw [if_neg (by omega), if_neg (by omega)]
      exact hleaf i hlt hi'
    · rw [if_pos rfl, if_pos rfl]
      exact ⟨by omega, rfl⟩
  · rw [hF, hC, if_neg (by omega), if_neg (by omega)]
    exact hother j (by omega)
  · rw [leavesBefore_succ, if_pos hneg, Finset.sum_range_succ, Finset.sum_range_succ, if_pos hneg, hF, if_pos rfl,
      ← hsum, Finset.sum_congr rfl fun q hq => (hF (base + q)).trans
        (if_neg (by have := Finset.mem_range.mp hq; omega))]
    omega

/-- Step 1 of R273. -/
theorem compactLeaves_compacts : ∀ (left m : Nat) (c : Arena), base + m + left ≤ 884 → Compacted a base m c →
    Compacted a base (m + left) (compactLeaves left (base + m) (base + leavesBefore a base m) c).1 ∧
    (compactLeaves left (base + m) (base + leavesBefore a base m) c).2 = base + leavesBefore a base (m + left)
  | 0, _, _, _, h => ⟨h, rfl⟩
  | left + 1, m, c, hm, h => by
    obtain ⟨hfreq, hchild⟩ := h.other (base + m) (.inr le_rfl)
    have hrest := compactLeaves_compacts left (m + 1)
    rw [show m + (left + 1) = m + 1 + left by omega, compactLeaves, hchild, hfreq]
    split_ifs with hneg
    · have hcount : leavesBefore a base (m + 1) = leavesBefore a base m + 1 := by rw [leavesBefore_succ, if_pos hneg]
      rw [hcount] at hrest
      exact hrest _ (by omega) (h.leafStep (by omega) hneg)
    · have hcount : leavesBefore a base (m + 1) = leavesBefore a base m := by rw [leavesBefore_succ, if_neg hneg]; rfl
      rw [hcount] at hrest
      exact hrest _ (by omega) (h.inner hneg)

end Compact

/-! ### Step 2: the nodes from the last one down -/

/-- The weight of the `k`-th pair of nodes below the root: the weight of the internal node over it. -/
def pairWeight (t : Span) (k : Nat) (d : Arena) : Nat := d.getFreq (t.base + 2 * k - 1) + d.getFreq (t.base + 2 * k)

/-- The arenas that step 2 passes from the compacted leaves `c` on, with `k` internal nodes and `j` leaves still to be placed:
the next node is `k + j - 1` nodes after the root. A leaf is placed where the next pair is not complete, or where a leaf
weighs no more than the next internal node. -/
inductive Rebuilding (t : Span) (c : Arena) : (k j : Nat) → Arena → Prop
  | start : Rebuilding t c (t.count - 1) t.count c
  | leaf {k j : Nat} {d : Arena} (h : Rebuilding t c k (j + 1) d) (hk : 1 ≤ k)
      (hdue : k ≤ j + 1 ∨ ∃ i ≤ j, c.getFreq (t.base + i) ≤ pairWeight t k d) :
      Rebuilding t c k j (setNode d (t.base + (k + j)) (d.getFreq (t.base + j)) (d.getChild (t.base + j)))
  | node {k j : Nat} {d : Arena} (h : Rebuilding t c (k + 1) j d) (hj : j ≤ k)
      (hlight : ∀ i, i < j → pairWeight t (k + 1) d < c.getFreq (t.base + i)) :
      Rebuilding t c k j (setNode d (t.base + (k + j)) (pairWeight t (k + 1) d) ((t.base + 2 * (k + 1) : Nat) : Int))

theorem Rebuilding.onlyRams {t : Span} {c d : Arena} {k j : Nat} (h : Rebuilding t c k j d) : OnlyRams c d := by
  induction h with
  | start => exact OnlyRams.rfl
  | leaf _ _ _ ih => exact ih.trans (setNode_onlyRams _ _ _ _)
  | node _ _ _ ih => exact ih.trans (setNode_onlyRams _ _ _ _)

/-- The compacted leaves: their links are leaves' links, and no two are the same. -/
structure LeafRow (t : Span) (c : Arena) : Prop where
  wf : c.wf = true
  fits : t.Fits
  leaf : ∀ i, i < t.count → c.getChild (t.base + i) < 0
  inj : ∀ i i', i < t.count → i' < t.count → c.getChild (t.base + i) = c.getChild (t.base + i') → i = i'

/-- What stands in the nodes of such an arena: the leaves that are still to be placed are as they were; the placed nodes
are the other leaves and the internal nodes, each kind in its order. -/
structure Shape (t : Span) (c : Arena) (k j : Nat) (d : Arena) : Prop where
  wf : d.wf = true
  nodesLeft : k + 1 ≤ t.count
  leavesLeft : j ≤ k + 1
  ended : k = 0 → j = 0
  rest : ∀ i, i < j → d.getFreq (t.base + i) = c.getFreq (t.base + i) ∧ d.getChild (t.base + i) = c.getChild (t.base + i)
  kind : ∀ m, k + j ≤ m → m + 1 < 2 * t.count →
    (∃ i, j ≤ i ∧ i < t.count ∧ d.getChild (t.base + m) = c.getChild (t.base + i) ∧
      d.getFreq (t.base + m) = c.getFreq (t.base + i)) ∨
    ∃ r, k < r ∧ r < t.count ∧ m + 2 ≤ 2 * r ∧ d.getChild (t.base + m) = ((t.base + 2 * r : Nat) : Int) ∧
      d.getFreq (t.base + m) = pairWeight t r d % 65536
  leafAt : ∀ i, j ≤ i → i < t.count → ∃ m, k + j ≤ m ∧ m + 1 < 2 * t.count ∧
    d.getChild (t.base + m) = c.getChild (t.base + i) ∧ d.getFreq (t.base + m) = c.getFreq (t.base + i)
  nodeAt : ∀ r, k < r → r < t.count → ∃ m, k + j ≤ m ∧ m + 1 < 2 * t.count ∧
    d.getChild (t.base + m) = ((t.base + 2 * r : Nat) : Int)
  leafOrder : ∀ m m' i i', k + j ≤ m → m < m' → m' + 1 < 2 * t.count → i < t.count → i' < t.count →
    d.getChild (t.base + m) = c.getChild (t.base + i) → d.getChild (t.base + m') = c.getChild (t.base + i') → i < i'
  nodeOrder : ∀ m m' r r' : Nat, k + j ≤ m → m < m' → m' + 1 < 2 * t.count →
    d.getChild (t.base + m) = ((t.base + 2 * r : Nat) : Int) → d.getChild (t.base + m') = ((t.base + 2 * r' : Nat) : Int) →
    r < r'
  outside : Outside t c d

theorem pairWeight_congr {t : Span} {d d' : Arena} {p k : Nat} (hp : p + 1 < 2 * k)
    (h : ∀ i, i ≠ t.base + p → d'.getFreq i = d.getFreq i) : pairWeight t k d' = pairWeight t k d := by
  unfold pairWeight
  rw [h _ (by omega), h _ (by omega)]

section ShapeSteps

variable {t : Span} {c d : Arena} {k j : Nat} (hc : LeafRow t c)

include hc

theorem Shape.start : Shape t c (t.count - 1) t.count c := by
  have hgrown := hc.fits.grown
  exact ⟨hc.wf, by omega, by omega, by omega, fun _ _ => ⟨rfl, rfl⟩, fun m hm hm' => by omega, fun i hi hi' => by omega,
    fun r hr hr' => by omega, fun m m' i i' hm hlt hm' => by omega, fun m m' r r' hm hlt hm' => by omega, Outside.rfl⟩

omit hc in
theorem setNode_outside {p v : Nat} {l : Int} (hout : Outside t c d) (hp : p + 1 < 2 * t.count)
    (hF : ∀ i, i ≠ t.base + p → (setNode d (t.base + p) v l).getFreq i = d.getFreq i)
    (hC : ∀ i, i ≠ t.base + p → (setNode d (t.base + p) v l).getChild i = d.getChild i) :
    Outside t c (setNode d (t.base + p) v l) := by
  have hne {i : Nat} (hi : ¬t.Node i) : i ≠ t.base + p := fun h => hi ⟨by omega, by omega⟩
  exact ⟨fun i hi => (hF i (hne hi)).trans (hout.freq i hi), fun i hi => (hC i (hne hi)).trans (hout.child i hi),
    hout.parent, hout.sNode⟩

theorem Shape.leaf (h : Shape t c k (j + 1) d) (hk : 1 ≤ k) :
    Shape t c k j (setNode d (t.base + (k + j)) (d.getFreq (t.base + j)) (d.getChild (t.base + j))) := by
  obtain ⟨hw, hnodes, hleaves, hended, hrest, hkind, hleafAt, hnodeAt, hleafOrder, hnodeOrder, hout⟩ := h
  have hp : t.base + (k + j) < 884 := hc.fits.node_lt ⟨by omega, by omega⟩
  have hbounds := getChild_bounds d (t.base + j)
  have hFp := (getFreq_setNode (v := d.getFreq (t.base + j)) (c := d.getChild (t.base + j)) hw hp (t.base + (k + j))).trans
    ((if_pos rfl).trans (Nat.mod_eq_of_lt (getFreq_lt _ _)))
  have hCp := (getChild_setNode (v := d.getFreq (t.base + j)) hw hp hbounds.1 hbounds.2 (t.base + (k + j))).trans (if_pos rfl)
  have hF (i : Nat) (hi : i ≠ t.base + (k + j)) :=
    (getFreq_setNode (v := d.getFreq (t.base + j)) (c := d.getChild (t.base + j)) hw hp i).trans (if_neg hi)
  have hC (i : Nat) (hi : i ≠ t.base + (k + j)) :=
    (getChild_setNode (v := d.getFreq (t.base + j)) hw hp hbounds.1 hbounds.2 i).trans (if_neg hi)
  obtain ⟨hfreq, hchild⟩ := hrest j (Nat.lt_succ_self j)
  have hout' := setNode_outside hout (by omega) hF hC
  have hw' : (setNode d (t.base + (k + j)) (d.getFreq (t.base + j)) (d.getChild (t.base + j))).wf = true := setNode_wf hw
  generalize setNode d (t.base + (k + j)) (d.getFreq (t.base + j)) (d.getChild (t.base + j)) = d' at *
  rw [hfreq] at hFp
  rw [hchild] at hCp
  refine ⟨hw', hnodes, by omega, by omega, fun i hi => ?_, fun m hm hm' => ?_, fun i hi hi' => ?_, fun r hr hr' => ?_,
    fun m m' i i' hm hlt hm' hi hi' hmi hmi' => ?_, fun m m' r r' hm hlt hm' hmr hmr' => ?_, hout'⟩
  · rw [hF _ (by omega), hC _ (by omega)]
    exact hrest i (by omega)
  · rcases Nat.eq_or_lt_of_le hm with rfl | hlt
    · exact .inl ⟨j, le_rfl, by omega, hCp, hFp⟩
    · rw [hF _ (by omega), hC _ (by omega)]
      rcases hkind m hlt hm' with ⟨i, hi, hi', hmi⟩ | ⟨r, hr, hr', hmr, hcr, hfr⟩
      · exact .inl ⟨i, by omega, hi', hmi⟩
      · exact .inr ⟨r, hr, hr', hmr, hcr, by rw [pairWeight_congr (by omega) hF, hfr]⟩
  · rcases Nat.eq_or_lt_of_le hi with rfl | hlt
    · exact ⟨k + j, le_rfl, by omega, hCp, hFp⟩
    · obtain ⟨m, hm, hm', hmi⟩ := hleafAt i hlt hi'
      exact ⟨m, by omega, hm', by rwa [hF _ (by omega), hC _ (by omega)]⟩
  · obtain ⟨m, hm, hm', hmr⟩ := hnodeAt r hr hr'
    exact ⟨m, by omega, hm', by rwa [hC _ (by omega)]⟩
  · rw [hC (t.base + m') (by omega)] at hmi'
    rcases Nat.eq_or_lt_of_le hm with rfl | hlt'
    · obtain rfl : j = i := hc.inj _ _ (by omega) hi (hCp.symm.trans hmi)
      rcases hkind m' (by omega) hm' with ⟨i₁, hi₁, hi₁', hmi₁, -⟩ | ⟨r, -, -, -, hcr, -⟩
      · have := hc.inj _ _ hi₁' hi' (hmi₁.symm.trans hmi')
        omega
      · have := hc.leaf i' hi'
        omega
    · rw [hC _ (by omega)] at hmi
      exact hleafOrder m m' i i' hlt' hlt hm' hi hi' hmi hmi'
  · rw [hC (t.base + m') (by omega)] at hmr'
    rcases Nat.eq_or_lt_of_le hm with rfl | hlt'
    · have := hc.leaf j (by omega)
      omega
    · rw [hC _ (by omega)] at hmr
      exact hnodeOrder m m' r r' hlt' hlt hm' hmr hmr'

theorem Shape.node (h : Shape t c (k + 1) j d) (hj : j ≤ k) :
    Shape t c k j (setNode d (t.base + (k + j)) (pairWeight t (k + 1) d) ((t.base + 2 * (k + 1) : Nat) : Int)) := by
  obtain ⟨hw, hnodes, hleaves, hended, hrest, hkind, hleafAt, hnodeAt, hleafOrder, hnodeOrder, hout⟩ := h
  have hp : t.base + (k + j) < 884 := hc.fits.node_lt ⟨by omega, by omega⟩
  have hl : t.base + 2 * (k + 1) < 884 := hc.fits.node_lt ⟨by omega, by omega⟩
  have hF (i : Nat) := getFreq_setNode (v := pairWeight t (k + 1) d) (c := ((t.base + 2 * (k + 1) : Nat) : Int)) hw hp i
  have hC (i : Nat) := getChild_setNode (v := pairWeight t (k + 1) d) (c := ((t.base + 2 * (k + 1) : Nat) : Int)) hw hp
    (by omega) (by omega) i
  have hw' : (setNode d (t.base + (k + j)) (pairWeight t (k + 1) d) ((t.base + 2 * (k + 1) : Nat) : Int)).wf = true :=
    setNode_wf hw
  have hout' := setNode_outside hout (show k + j + 1 < 2 * t.count by omega) (fun i hi => (hF i).trans (if_neg hi))
    fun i hi => (hC i).trans (if_neg hi)
  generalize setNode d (t.base + (k + j)) (pairWeight t (k + 1) d) ((t.base + 2 * (k + 1) : Nat) : Int) = d' at *
  have hFp := (hF (t.base + (k + j))).trans (if_pos rfl)
  have hCp := (hC (t.base + (k + j))).trans (if_pos rfl)
  replace hF (i : Nat) (hi : i ≠ t.base + (k + j)) := (hF i).trans (if_neg hi)
  replace hC (i : Nat) (hi : i ≠ t.base + (k + j)) := (hC i).trans (if_neg hi)
  refine ⟨hw', by omega, by omega, by omega, fun i hi => ?_, fun m hm hm' => ?_, fun i hi hi' => ?_, fun r hr hr' => ?_,
    fun m m' i i' hm hlt hm' hi hi' hmi hmi' => ?_, fun m m' r r' hm hlt hm' hmr hmr' => ?_, hout'⟩
  · rw [hF _ (by omega), hC _ (by omega)]
    exact hrest i hi
  · rcases Nat.eq_or_lt_of_le hm with rfl | hlt
    · exact .inr ⟨k + 1, by omega, by omega, by omega, hCp, by rw [pairWeight_congr (by omega) hF, hFp]⟩
    · rw [hF _ (by omega), hC _ (by omega)]
      rcases hkind m (by omega) hm' with ⟨i, hi, hi', hmi⟩ | ⟨r, hr, hr', hmr, hcr, hfr⟩
      · exact .inl ⟨i, hi, hi', hmi⟩
      · exact .inr ⟨r, by omega, hr', hmr, hcr, by rw [pairWeight_congr (by omega) hF, hfr]⟩
  · obtain ⟨m, hm, hm', hmi⟩ := hleafAt i hi hi'
    exact ⟨m, by omega, hm', by rwa [hF _ (by omega), hC _ (by omega)]⟩
  · rcases Nat.eq_or_lt_of_le hr with rfl | hlt
    · exact ⟨k + j, le_rfl, by omega, hCp⟩
    · obtain ⟨m, hm, hm', hmr⟩ := hnodeAt r hlt hr'
      exact ⟨m, by omega, hm', by rwa [hC _ (by omega)]⟩
  · rw [hC (t.base + m') (by omega)] at hmi'
    rcases Nat.eq_or_lt_of_le hm with rfl | hlt'
    · have := hc.leaf i hi
      omega
    · rw [hC _ (by omega)] at hmi
      exact hleafOrder m m' i i' (by omega) hlt hm' hi hi' hmi hmi'
  · rw [hC (t.base + m') (by omega)] at hmr'
    rcases Nat.eq_or_lt_of_le hm with rfl | hlt'
    · rcases hkind m' (by omega) hm' with ⟨i, -, hi, hmi, -⟩ | ⟨r₁, hr₁, -, -, hcr, -⟩
      · have := hc.leaf i hi
        omega
      · omega
    · rw [hC _ (by omega)] at hmr
      exact hnodeOrder m m' r r' (by omega) hlt hm' hmr hmr'

theorem Rebuilding.shape (h : Rebuilding t c k j d) : Shape t c k j d := by
  induction h with
  | start => exact Shape.start hc
  | leaf _ hk _ ih => exact ih.leaf hc hk
  | node _ hj _ ih => exact ih.node hc hj

end ShapeSteps

/-! ### The loop of step 2 -/

/-- A loop that copies leaves down, as long as more than `stop` of them are left (R273). -/
theorem copyDown_copies {t : Span} {k stop : Nat} {go : Int → Int → Bool} (P : Nat → Arena → Prop)
    (hgo : ∀ j : Nat, go (((t.base + (k + j) : Nat) : Int) - 1) (((t.base + j : Nat) : Int) - 1) = decide (stop < j))
    (hstep : ∀ j d, stop ≤ j → P (j + 1) d →
      P j (setNode d (t.base + (k + j)) (d.getFreq (t.base + j)) (d.getChild (t.base + j)))) :
    ∀ (j turns : Nat) (d : Arena), j < turns → P j d → ∃ d',
      copyDown go turns (((t.base + (k + j) : Nat) : Int) - 1) (((t.base + j : Nat) : Int) - 1) d =
        some (d', ((t.base + (k + min j stop) : Nat) : Int) - 1, ((t.base + min j stop : Nat) : Int) - 1) ∧
      P (min j stop) d'
  | _, 0, _, hturns, _ => absurd hturns (Nat.not_lt_zero _)
  | 0, turns + 1, d, _, h => by
    rw [copyDown, hgo, decide_eq_false (Nat.not_lt_zero _), Nat.zero_min]
    exact ⟨d, rfl, h⟩
  | j + 1, turns + 1, d, hturns, h => by
    rw [copyDown, hgo]
    by_cases hmore : stop < j + 1
    · have hcopy : d.copyNode (((t.base + (k + (j + 1)) : Nat) : Int) - 1) (((t.base + (j + 1) : Nat) : Int) - 1) =
          setNode d (t.base + (k + j)) (d.getFreq (t.base + j)) (d.getChild (t.base + j)) := by
        rw [Arena.copyNode, if_pos ⟨by omega, by omega⟩,
          show (((t.base + (k + (j + 1)) : Nat) : Int) - 1).toNat = t.base + (k + j) by omega,
          show (((t.base + (j + 1) : Nat) : Int) - 1).toNat = t.base + j by omega]
        rfl
      have hrest := copyDown_copies P hgo hstep j turns _ (Nat.lt_of_succ_lt_succ hturns)
        (hstep j d (Nat.le_of_lt_succ hmore) h)
      rw [decide_eq_true hmore, if_pos rfl, hcopy, show min (j + 1) stop = min j stop by omega,
        show ((t.base + (k + (j + 1)) : Nat) : Int) - 1 - 1 = ((t.base + (k + j) : Nat) : Int) - 1 by omega,
        show ((t.base + (j + 1) : Nat) : Int) - 1 - 1 = ((t.base + j : Nat) : Int) - 1 by omega]
      exact hrest
    · rw [decide_eq_false hmore, Nat.min_eq_left (not_lt.mp hmore)]
      exact ⟨d, rfl, h⟩

/-- The search ends at the first node from `k` on that weighs no more than `f`. -/
theorem searchWeight_finds {d : Arena} {f m : Nat} (hm : d.getFreq m ≤ f) : ∀ (turns k : Nat), k ≤ m → m < k + turns →
    ∃ k', d.searchWeight f turns k = some k' ∧ k ≤ k' ∧ d.getFreq k' ≤ f ∧ ∀ i, k ≤ i → i < k' → f < d.getFreq i
  | 0, k, hk, hturns => absurd hturns (by omega)
  | turns + 1, k, hk, hturns => by
    rw [Arena.searchWeight]
    split_ifs with hlt
    · have hne : k ≠ m := fun h => absurd hm (not_le.mpr (h ▸ hlt))
      obtain ⟨k', hrun, hk', hle, hbefore⟩ := searchWeight_finds hm turns (k + 1) (by omega) (by omega)
      refine ⟨k', hrun, by omega, hle, fun i hi hi' => ?_⟩
      rcases Nat.eq_or_lt_of_le hi with rfl | hi
      · exact hlt
      · exact hbefore i hi hi'
    · exact ⟨k, rfl, le_rfl, not_lt.mp hlt, fun i hi hi' => by omega⟩

section Loop

variable {t : Span} {c : Arena} (hc : LeafRow t c)

include hc

/-- One turn of step 2: leaves until the next pair is complete, the leaves that weigh no more than the pair, and the
internal node over it. -/
theorem rebuildNodes_turn {k j turns : Nat} {d : Arena} (h : Rebuilding t c (k + 1) j d) :
    ∃ j' d', Rebuilding t c k j' d' ∧
      rebuildNodes t.base (turns + 1) (((t.base + (k + 1 + j) : Nat) : Int) - 1) (((t.base + j : Nat) : Int) - 1)
        (((t.base + 2 * (k + 1) : Nat) : Int) - 1) d =
      rebuildNodes t.base turns (((t.base + (k + j') : Nat) : Int) - 1) (((t.base + j' : Nat) : Int) - 1)
        (((t.base + 2 * k : Nat) : Int) - 1) d' := by
  have hshape := h.shape hc
  have hcount : t.count ≤ 442 := by
    have := hc.fits.place
    omega
  have hj : j < arenaBound := lt_of_le_of_lt (show j ≤ 884 by have := hshape.leavesLeft; have := hshape.nodesLeft; omega)
    (by decide)
  obtain ⟨d₁, hrun₁, h₁⟩ := copyDown_copies (t := t) (k := k + 1) (stop := k)
    (go := fun i _ => decide (((t.base + 2 * (k + 1) : Nat) : Int) - 1 ≤ i)) (Rebuilding t c (k + 1))
    (fun j => decide_eq_decide.mpr (by omega)) (fun j d hkj h => h.leaf (by omega) (.inl (by omega))) j arenaBound d hj h
  have hshape₁ := h₁.shape hc
  generalize hj₁ : min j k = j₁ at *
  have hf : d₁.freqAt (((t.base + 2 * (k + 1) : Nat) : Int) - 1) +
      d₁.freqAt (((t.base + 2 * (k + 1) : Nat) : Int) - 1 + 1) = pairWeight t (k + 1) d₁ := by
    rw [Arena.freqAt, Arena.freqAt, if_pos (by omega), if_pos (by omega), pairWeight,
      show (((t.base + 2 * (k + 1) : Nat) : Int) - 1).toNat = t.base + 2 * (k + 1) - 1 by omega,
      show (((t.base + 2 * (k + 1) : Nat) : Int) - 1 + 1).toNat = t.base + 2 * (k + 1) by omega]
  obtain ⟨q, hsearch, hq, hlight, hheavy⟩ := searchWeight_finds (d := d₁) (f := pairWeight t (k + 1) d₁)
    (m := t.base + 2 * (k + 1)) (Nat.le_add_left _ _) arenaBound t.base (by omega)
    (lt_of_lt_of_le (hc.fits.node_lt (n := t.base + 2 * (k + 1)) ⟨by omega, by have := hshape.nodesLeft; omega⟩)
      (le_trans (show 884 ≤ arenaBound by decide) (Nat.le_add_left _ _)))
  obtain ⟨stop, rfl⟩ : ∃ stop, q = t.base + stop := ⟨q - t.base, by omega⟩
  obtain ⟨d₂, hrun₂, h₂, hle, hpair⟩ := copyDown_copies (t := t) (k := k + 1) (stop := stop)
    (go := fun _ j => decide (((t.base + stop : Nat) : Int) ≤ j))
    (fun j d => Rebuilding t c (k + 1) j d ∧ j ≤ j₁ ∧ pairWeight t (k + 1) d = pairWeight t (k + 1) d₁)
    (fun j => decide_eq_decide.mpr (by omega)) (fun j d hstop h => by
      obtain ⟨h, hle, hpair⟩ := h
      have hkept := pairWeight_congr (t := t) (p := k + 1 + j) (k := k + 1) (by omega) fun i hi =>
        (getFreq_setNode (v := d.getFreq (t.base + j)) (c := d.getChild (t.base + j)) (h.shape hc).wf
          (hc.fits.node_lt ⟨by omega, by have := (h.shape hc).nodesLeft; omega⟩) i).trans (if_neg hi)
      refine ⟨h.leaf (by omega) (.inr ⟨stop, hstop, ?_⟩), by omega, hkept.trans hpair⟩
      rw [hpair, ← (hshape₁.rest stop (by omega)).1]
      exact hlight) j₁ arenaBound d₁ (lt_of_le_of_lt (by omega) hj) ⟨h₁, le_rfl, rfl⟩
  generalize hj₂ : min j₁ stop = j₂ at *
  refine ⟨j₂, _, h₂.node (by omega) fun i hi => ?_, ?_⟩
  · rw [hpair, ← (hshape₁.rest i (by omega)).1]
    exact hheavy _ (by omega) (by omega)
  · rw [rebuildNodes, if_neg (by omega), hrun₁]
    simp only [hf, hsearch, hrun₂]
    rw [if_pos (by omega), hpair,
      show (((t.base + (k + 1 + j₂) : Nat) : Int) - 1).toNat = t.base + (k + j₂) by omega,
      show ((t.base + 2 * (k + 1) : Nat) : Int) - 1 + 1 = ((t.base + 2 * (k + 1) : Nat) : Int) by omega,
      show ((t.base + (k + 1 + j₂) : Nat) : Int) - 1 - 1 = ((t.base + (k + j₂) : Nat) : Int) - 1 by omega,
      show ((t.base + 2 * (k + 1) : Nat) : Int) - 1 - 2 = ((t.base + 2 * k : Nat) : Int) - 1 by omega]
    rfl

/-- Step 2 of R273 ends when every leaf and every internal node is placed. -/
theorem rebuildNodes_ends : ∀ (k j turns : Nat) (d : Arena), k < turns → Rebuilding t c k j d →
    ∃ d', rebuildNodes t.base turns (((t.base + (k + j) : Nat) : Int) - 1) (((t.base + j : Nat) : Int) - 1)
      (((t.base + 2 * k : Nat) : Int) - 1) d = some d' ∧ Rebuilding t c 0 0 d'
  | _, _, 0, _, hturns, _ => absurd hturns (Nat.not_lt_zero _)
  | 0, j, turns + 1, d, _, h => by
    obtain rfl := (h.shape hc).ended rfl
    rw [rebuildNodes, if_pos (by omega)]
    exact ⟨d, rfl, h⟩
  | k + 1, j, turns + 1, d, hturns, h => by
    obtain ⟨j', d', h', hturn⟩ := rebuildNodes_turn hc (turns := turns) h
    rw [hturn]
    exact rebuildNodes_ends k j' turns d' (Nat.lt_of_succ_lt_succ hturns) h'

end Loop

end Sys2Proof.Proofs
end

section
/-! PROOFS. The rebuild of a tree (R273), step 3 and the whole: from leaves anywhere in the nodes of a tree to a linked tree over
them. -/

namespace Sys2Proof.Proofs

open Sys2Proof.Machine Sys2Proof.Laws

/-! ### Step 3: the links from below -/

@[simp] theorem getFreq_relink : ∀ (left i : Nat) (a : Arena) (j : Nat), (relink left i a).getFreq j = a.getFreq j
  | 0, _, _, _ => rfl
  | left + 1, i, a, j => (getFreq_relink left (i + 1) _ j).trans (getFreq_linkBelow a i j _)

@[simp] theorem getChild_relink : ∀ (left i : Nat) (a : Arena) (j : Nat), (relink left i a).getChild j = a.getChild j
  | 0, _, _, _ => rfl
  | left + 1, i, a, j => (getChild_relink left (i + 1) _ j).trans (getChild_linkBelow a i j _)

theorem relink_onlyRams : ∀ (left i : Nat) (a : Arena), OnlyRams a (relink left i a)
  | 0, _, _ => OnlyRams.rfl
  | left + 1, i, a => (linkBelow_onlyRams a _ i).trans (relink_onlyRams left (i + 1) _)

section Relink

variable {read : Arena → Nat} {hit : Int → Prop} {a : Arena}

/-- What step 3 leaves in an element that it writes only for the links `hit`: the last such node, else what it held. -/
theorem relink_read (hlink : ∀ (b : Arena) (i : Nat), b.wf = true → i < 884 → -442 ≤ b.getChild i → b.getChild i < 884 →
      (hit (b.getChild i) → read (b.linkBelow (b.getChild i) i) = i) ∧
      (¬hit (b.getChild i) → read (b.linkBelow (b.getChild i) i) = read b)) :
    ∀ (left i : Nat) (a : Arena), a.wf = true → i + left ≤ 884 →
      (∀ n, i ≤ n → n < i + left → -442 ≤ a.getChild n ∧ a.getChild n < 884) →
      ((∀ n, i ≤ n → n < i + left → ¬hit (a.getChild n)) → read (relink left i a) = read a) ∧
      ∀ n, i ≤ n → n < i + left → hit (a.getChild n) → (∀ m, n < m → m < i + left → ¬hit (a.getChild m)) →
        read (relink left i a) = n
  | 0, i, a, _, _, _ => ⟨fun _ => rfl, fun n hn hn' => by omega⟩
  | left + 1, i, a, hw, hi, hbounds => by
    obtain ⟨hlo, hhi⟩ := hbounds i le_rfl (by omega)
    obtain ⟨hhit, hmiss⟩ := hlink a i hw (by omega) hlo hhi
    have hrest := relink_read hlink left (i + 1) (a.linkBelow (a.getChild i) i) (linkBelow_wf hw _ _) (by omega)
      fun n hn hn' => by
        rw [getChild_linkBelow]
        exact hbounds n (by omega) (by omega)
    simp only [getChild_linkBelow] at hrest
    obtain ⟨hnone, hlast⟩ := hrest
    refine ⟨fun hno => ?_, fun n hn hn' hh hlater => ?_⟩
    · exact (hnone fun n hn hn' => hno n (by omega) (by omega)).trans (hmiss (hno i le_rfl (by omega)))
    · rcases Nat.eq_or_lt_of_le hn with rfl | hlt
      · exact (hnone fun m hm hm' => hlater m hm (by omega)).trans (hhit hh)
      · exact hlast n hlt (by omega) hh fun m hm hm' => hlater m hm (by omega)

variable {left i : Nat} (hw : a.wf = true) (hi : i + left ≤ 884)
  (hbounds : ∀ n, i ≤ n → n < i + left → -442 ≤ a.getChild n ∧ a.getChild n < 884)

include hw hi hbounds

theorem getParent_relink (m : Nat) :
    ((∀ n, i ≤ n → n < i + left → ¬Below (a.getChild n) m) → (relink left i a).getParent m = a.getParent m) ∧
    ∀ n, i ≤ n → n < i + left → Below (a.getChild n) m → (∀ n', n < n' → n' < i + left → ¬Below (a.getChild n') m) →
      (relink left i a).getParent m = n :=
  relink_read (read := fun a => a.getParent m) (hit := fun c => Below c m) (fun b n hwb hn _ hhi =>
    ⟨fun h => (getParent_linkBelow hwb (by omega) hhi m).trans (if_pos h),
      fun h => (getParent_linkBelow hwb (by omega) hhi m).trans (if_neg h)⟩) left i a hw hi hbounds

theorem getSNode_relink (x : Nat) :
    ((∀ n, i ≤ n → n < i + left → a.getChild n ≠ leafLink x) → (relink left i a).getSNode x = a.getSNode x) ∧
    ∀ n, i ≤ n → n < i + left → a.getChild n = leafLink x →
      (∀ n', n < n' → n' < i + left → a.getChild n' ≠ leafLink x) → (relink left i a).getSNode x = n :=
  relink_read (read := fun a => a.getSNode x) (hit := fun c => c = leafLink x) (fun b n hwb hn hlo _ =>
    ⟨fun h => (getSNode_linkBelow hwb (by omega) hlo x).trans (if_pos h),
      fun h => (getSNode_linkBelow hwb (by omega) hlo x).trans (if_neg h)⟩) left i a hw hi hbounds

end Relink

/-! ### The leaves of a tree -/

/-- Among the nodes of the tree, each symbol of it has one leaf, and there are no other leaves. -/
structure Leafy (t : Span) (a : Arena) : Prop where
  wf : a.wf = true
  fits : t.Fits
  sym : ∀ n, t.Node n → a.getChild n < 0 → ∃ x, t.Sym x ∧ a.getChild n = leafLink x
  leaf : ∀ x, t.Sym x → ∃ n, t.Node n ∧ a.getChild n = leafLink x
  inj : ∀ n n' x, t.Node n → t.Node n' → a.getChild n = leafLink x → a.getChild n' = leafLink x → n = n'

theorem Linked.leafy {t : Span} {a : Arena} (h : Linked t a) : Leafy t a := by
  refine ⟨h.wf, h.fits, fun n hn hneg => ?_, fun x hx => ⟨_, h.leaf x hx⟩, fun n n' x hn hn' hc hc' => ?_⟩
  · rcases h.node n hn with ⟨x, hx, hc, -⟩ | ⟨c, hc, -⟩
    · exact ⟨x, hx, hc⟩
    · omega
  · rw [← (h.sNode_of_leaf hn hc).2, (h.sNode_of_leaf hn' hc').2]

theorem node_iff_offset {t : Span} {n : Nat} (hg : 2 ≤ t.count) :
    t.Node n ↔ ∃ i, i < 2 * t.count - 1 ∧ n = t.base + i :=
  ⟨fun ⟨hlo, hhi⟩ => ⟨n - t.base, by omega, by omega⟩, fun ⟨i, hi, hn⟩ => ⟨by omega, by omega⟩⟩

section Leaves

variable {t : Span} {a c d : Arena} (hl : Leafy t a)

include hl

/-- There are as many leaves as symbols. -/
theorem Leafy.count : leavesBefore a t.base (2 * t.count - 1) = t.count := by
  have hg := hl.fits.grown
  have hnode (i : Nat) (hi : i < 2 * t.count - 1) : t.Node (t.base + i) := (node_iff_offset hg).mpr ⟨i, hi, rfl⟩
  have hcard : (Finset.Ico t.first (t.first + t.count)).card = t.count := by rw [Nat.card_Ico, Nat.add_sub_cancel_left]
  refine (Nat.count_eq_card_filter_range _ _).trans (Eq.trans ?_ hcard)
  refine Finset.card_bij (fun i _ => leafSymbol (a.getChild (t.base + i))) (fun i hi => ?_) (fun i hi i' hi' heq => ?_)
    fun x hx => ?_
  · obtain ⟨hlt, hneg⟩ := Finset.mem_filter.mp hi
    obtain ⟨x, hx, hc⟩ := hl.sym _ (hnode i (Finset.mem_range.mp hlt)) hneg
    rw [hc, leafSymbol_leafLink]
    exact Finset.mem_Ico.mpr hx
  · obtain ⟨hlt, hneg⟩ := Finset.mem_filter.mp hi
    obtain ⟨hlt', hneg'⟩ := Finset.mem_filter.mp hi'
    have := hl.inj _ _ _ (hnode i (Finset.mem_range.mp hlt)) (hnode i' (Finset.mem_range.mp hlt'))
      (leafLink_leafSymbol hneg).symm (by rw [heq, leafLink_leafSymbol hneg'])
    omega
  · obtain ⟨n, hn, hc⟩ := hl.leaf x (Finset.mem_Ico.mp hx)
    obtain ⟨i, hi, rfl⟩ := (node_iff_offset hg).mp hn
    refine ⟨i, Finset.mem_filter.mpr ⟨Finset.mem_range.mpr hi, ?_⟩, by rw [hc, leafSymbol_leafLink]⟩
    rw [hc]
    exact leafLink_neg x

omit hl in
/-- Every number below the count is some leaf's number. -/
theorem exists_leafNumber {base : Nat} : ∀ {m q : Nat}, q < leavesBefore a base m →
    ∃ i, i < m ∧ a.getChild (base + i) < 0 ∧ leavesBefore a base i = q
  | 0, q, hq => absurd hq (Nat.not_lt_zero q)
  | m + 1, q, hq => by
    by_cases hlt : q < leavesBefore a base m
    · obtain ⟨i, hi, hleaf⟩ := exists_leafNumber hlt
      exact ⟨i, hi.trans (Nat.lt_succ_self m), hleaf⟩
    · rw [leavesBefore_succ] at hq
      split_ifs at hq with hneg
      · exact ⟨m, Nat.lt_succ_self m, hneg, by omega⟩
      · omega

theorem Leafy.row (hc : Compacted a t.base (2 * t.count - 1) c) : LeafRow t c := by
  have hg := hl.fits.grown
  have hfrom {q : Nat} (hq : q < t.count) := exists_leafNumber (hl.count.symm ▸ hq)
  refine ⟨hc.wf, hl.fits, fun q hq => ?_, fun q q' hq hq' heq => ?_⟩
  · obtain ⟨i, hi, hneg, rfl⟩ := hfrom hq
    rw [(hc.leaf i hi hneg).2]
    exact hneg
  · obtain ⟨i, hi, hneg, rfl⟩ := hfrom hq
    obtain ⟨i', hi', hneg', rfl⟩ := hfrom hq'
    rw [(hc.leaf i hi hneg).2, (hc.leaf i' hi' hneg').2] at heq
    have := hl.inj _ _ _ ((node_iff_offset hg).mpr ⟨i, hi, rfl⟩) ((node_iff_offset hg).mpr ⟨i', hi', rfl⟩)
      (heq.trans (leafLink_leafSymbol hneg').symm) (leafLink_leafSymbol hneg').symm
    rw [show i = i' by omega]

/-- The rebuild in its three steps. -/
theorem Leafy.rebuild_steps : ∃ c d, Compacted a t.base (2 * t.count - 1) c ∧ Rebuilding t c 0 0 d ∧
    a.rebuild t.base (t.base + (2 * t.count - 1)) = some (relink (2 * t.count - 1) t.base d) := by
  have hg := hl.fits.grown
  have hfits := hl.fits.node_lt (n := t.base + (2 * t.count - 2)) ⟨by omega, by omega⟩
  obtain ⟨hcompact, hcount⟩ := compactLeaves_compacts (2 * t.count - 1) 0 a (by omega) (compacted_nil (base := t.base) hl.wf)
  rw [Nat.zero_add, hl.count] at hcount
  rw [Nat.zero_add] at hcompact
  have hzero : leavesBefore a t.base 0 = 0 := Nat.count_zero _
  rw [hzero, Nat.add_zero] at hcompact hcount
  obtain ⟨d, hrun, hd⟩ := rebuildNodes_ends (hl.row hcompact) (t.count - 1) t.count arenaBound _
    (lt_of_lt_of_le (show t.count - 1 < 884 by omega) (by decide)) .start
  refine ⟨_, d, hcompact, hd, ?_⟩
  rw [Arena.rebuild, Nat.add_sub_cancel_left]
  dsimp only
  rw [hcount, show ((t.base + (2 * t.count - 1) : Nat) : Int) - 1 = ((t.base + (t.count - 1 + t.count) : Nat) : Int) - 1 by omega,
    show ((t.base + (2 * t.count - 1) : Nat) : Int) - 2 = ((t.base + 2 * (t.count - 1) : Nat) : Int) - 1 by omega, hrun]

end Leaves

/-! ### The rebuilt tree -/

/-- The rebuild `b` of the tree over the leaves of `a`: linked, each leaf with half its weight, rounded up, in the order in
which they stood, and each internal weight the sum of its children's. -/
structure Rebuilt (t : Span) (a b : Arena) : Prop where
  linked : Linked t b
  leaf : ∀ n x, t.Node n → a.getChild n = leafLink x → b.weight x = (a.getFreq n + 1) / 2
  order : ∀ n n' x x', t.Node n → t.Node n' → n < n' → a.getChild n = leafLink x → a.getChild n' = leafLink x' →
    b.getSNode x < b.getSNode x'
  sum : ∀ n c : Nat, t.Node n → b.getChild n = (c : Int) → b.getFreq n = (b.getFreq (c - 1) + b.getFreq c) % 65536
  outside : Outside t a b
  regs : OnlyRams a b

section Rebuilt

variable {t : Span} {a c d : Arena} (hl : Leafy t a) (hc : Compacted a t.base (2 * t.count - 1) c) (hd : Rebuilding t c 0 0 d)

include hl hc hd

/-- The nodes after step 2: leaves of the tree's symbols, and internal nodes over later pairs of nodes. -/
theorem Rebuilding.node_kinds {n : Nat} (hn : t.Node n) : (∃ x, t.Sym x ∧ d.getChild n = leafLink x) ∨
    ∃ r, 1 ≤ r ∧ r < t.count ∧ n + 2 ≤ t.base + 2 * r ∧ d.getChild n = ((t.base + 2 * r : Nat) : Int) ∧
      d.getFreq n = (d.getFreq (t.base + 2 * r - 1) + d.getFreq (t.base + 2 * r)) % 65536 := by
  have hg := hl.fits.grown
  obtain ⟨m, hm, rfl⟩ := (node_iff_offset hg).mp hn
  rcases (hd.shape (hl.row hc)).kind m (by omega) (by omega) with ⟨q, -, hq, hcq, -⟩ | ⟨r, hr, hr', hmr, hcr, hfr⟩
  · obtain ⟨i, hi, hneg, rfl⟩ := exists_leafNumber (hl.count.symm ▸ hq)
    obtain ⟨x, hx, hcx⟩ := hl.sym _ ((node_iff_offset hg).mpr ⟨i, hi, rfl⟩) hneg
    exact .inl ⟨x, hx, by rw [hcq, (hc.leaf i hi hneg).2, hcx]⟩
  · exact .inr ⟨r, hr, hr', by omega, hcr, hfr⟩

/-- The place of a leaf after step 2, and its weight. -/
theorem Rebuilding.leaf_placed {n x : Nat} (hn : t.Node n) (hx : a.getChild n = leafLink x) :
    ∃ n', t.Node n' ∧ d.getChild n' = leafLink x ∧ d.getFreq n' = (a.getFreq n + 1) / 2 := by
  have hg := hl.fits.grown
  obtain ⟨i, hi, rfl⟩ := (node_iff_offset hg).mp hn
  have hneg : a.getChild (t.base + i) < 0 := hx ▸ leafLink_neg x
  obtain ⟨hfreq, hchild⟩ := hc.leaf i hi hneg
  obtain ⟨m, -, hm, hcm, hfm⟩ := (hd.shape (hl.row hc)).leafAt (leavesBefore a t.base i) (Nat.zero_le _)
    (hl.count ▸ leavesBefore_lt hi hneg)
  exact ⟨_, (node_iff_offset hg).mpr ⟨m, by omega, rfl⟩, by rw [hcm, hchild, hx], by rw [hfm, hfreq]⟩

/-- The leaves keep their order in step 2. -/
theorem Rebuilding.leaf_order {n n' m m' x x' : Nat} (hn : t.Node n) (hn' : t.Node n') (hm : t.Node m) (hm' : t.Node m')
    (hx : a.getChild n = leafLink x) (hx' : a.getChild n' = leafLink x') (hmx : d.getChild m = leafLink x)
    (hmx' : d.getChild m' = leafLink x') (hlt : m < m') : n < n' := by
  have hg := hl.fits.grown
  obtain ⟨i, hi, rfl⟩ := (node_iff_offset hg).mp hn
  obtain ⟨i', hi', rfl⟩ := (node_iff_offset hg).mp hn'
  obtain ⟨j, hj, rfl⟩ := (node_iff_offset hg).mp hm
  obtain ⟨j', hj', rfl⟩ := (node_iff_offset hg).mp hm'
  have hneg : a.getChild (t.base + i) < 0 := hx ▸ leafLink_neg x
  have hneg' : a.getChild (t.base + i') < 0 := hx' ▸ leafLink_neg x'
  have hcount := (hd.shape (hl.row hc)).leafOrder j j' (leavesBefore a t.base i) (leavesBefore a t.base i') (by omega)
    (by omega) (by omega) (hl.count ▸ leavesBefore_lt hi hneg) (hl.count ▸ leavesBefore_lt hi' hneg')
    (by rw [hmx, (hc.leaf i hi hneg).2, hx]) (by rw [hmx', (hc.leaf i' hi' hneg').2, hx'])
  by_contra hnot
  have := Nat.count_monotone (fun i => a.getChild (t.base + i) < 0) (show i' ≤ i by omega)
  unfold leavesBefore at hcount
  omega

/-- No two nodes of step 2 have the same child link. -/
theorem Rebuilding.child_inj {m m' : Nat} (hm : t.Node m) (hm' : t.Node m') (heq : d.getChild m = d.getChild m') :
    ¬m < m' := fun hlt => by
  rcases Rebuilding.node_kinds hl hc hd hm with ⟨x, hx, hcx⟩ | ⟨r, -, -, -, hcr, -⟩
  · obtain ⟨n, hn, hnx⟩ := hl.leaf x hx
    exact lt_irrefl n (Rebuilding.leaf_order hl hc hd hn hn hm hm' hnx hnx hcx (heq ▸ hcx) hlt)
  · have hg := hl.fits.grown
    obtain ⟨j, hj, rfl⟩ := (node_iff_offset hg).mp hm
    obtain ⟨j', hj', rfl⟩ := (node_iff_offset hg).mp hm'
    exact lt_irrefl r ((hd.shape (hl.row hc)).nodeOrder j j' r r (by omega) (by omega) (by omega) hcr (heq ▸ hcr))

/-- The rebuilt tree is linked. -/
theorem Rebuilding.rebuilt : Rebuilt t a (relink (2 * t.count - 1) t.base d) := by
  have hg := hl.fits.grown
  have hshape := hd.shape (hl.row hc)
  have hin {n : Nat} : t.Node n ↔ t.base ≤ n ∧ n < t.base + (2 * t.count - 1) := by
    unfold Span.Node
    omega
  have hfits : t.base + (2 * t.count - 1) ≤ 884 := by
    have := hl.fits.node_lt (n := t.base + (2 * t.count - 2)) ⟨by omega, by omega⟩
    omega
  have hkinds {n : Nat} (hn : t.Node n) := Rebuilding.node_kinds hl hc hd hn
  have hbounds (n : Nat) (hlo : t.base ≤ n) (hhi : n < t.base + (2 * t.count - 1)) :
      -442 ≤ d.getChild n ∧ d.getChild n < 884 := by
    rcases hkinds (hin.mpr ⟨hlo, hhi⟩) with ⟨x, hx, hcx⟩ | ⟨r, -, hr, -, hcr, -⟩
    · have := hl.fits.sym_lt hx
      rw [hcx]
      unfold leafLink
      omega
    · omega
  have hsNode {n x : Nat} (hn : t.Node n) (hx : d.getChild n = leafLink x) :
      (relink (2 * t.count - 1) t.base d).getSNode x = n :=
    (getSNode_relink hshape.wf hfits hbounds x).2 n (hin.mp hn).1 (hin.mp hn).2 hx fun m hlt hm hmx =>
      Rebuilding.child_inj hl hc hd hn (hin.mpr ⟨by have := hn.1; omega, hm⟩) (hx.trans hmx.symm) hlt
  have hparent {n m : Nat} (hn : t.Node n) (hm : Below (d.getChild n) m) :
      (relink (2 * t.count - 1) t.base d).getParent m = n :=
    (getParent_relink hshape.wf hfits hbounds m).2 n (hin.mp hn).1 (hin.mp hn).2 hm fun n' hlt hn' hm' => by
      have hnode' := hin.mpr ⟨(hin.mp hn).1.trans hlt.le, hn'⟩
      rcases hkinds hn with ⟨x, -, hcx⟩ | ⟨r, -, -, -, hcr, -⟩
      · exact not_below_leafLink x m (hcx ▸ hm)
      · rcases hkinds hnode' with ⟨x, -, hcx⟩ | ⟨r', -, -, -, hcr', -⟩
        · exact not_below_leafLink x m (hcx ▸ hm')
        · rw [hcr, below_natCast] at hm
          rw [hcr', below_natCast] at hm'
          obtain rfl : r = r' := by omega
          exact Rebuilding.child_inj hl hc hd hn hnode' (hcr.trans hcr'.symm) hlt
  have hleafAt {x : Nat} (hx : t.Sym x) : ∃ n, t.Node n ∧ d.getChild n = leafLink x := by
    obtain ⟨n, hn, hnx⟩ := hl.leaf x hx
    obtain ⟨m, hm, hmx, -⟩ := Rebuilding.leaf_placed hl hc hd hn hnx
    exact ⟨m, hm, hmx⟩
  have hwf : (relink (2 * t.count - 1) t.base d).wf = true := (rewrites_relink _ _ _).wf hshape.wf
  refine ⟨⟨hwf, hl.fits, ?_, fun n hn => ?_, fun x hx => ?_, fun n hlt hn => ?_⟩, fun n x hn hx => ?_,
    fun n n' x x' hn hn' hlt hx hx' => ?_, fun n l hn hnl => ?_, ?_, (hc.regs.trans hd.onlyRams).trans (relink_onlyRams _ _ _)⟩
  · obtain ⟨m, -, hm, hcm⟩ := hshape.nodeAt 1 one_pos (by omega)
    rw [getChild_relink]
    rcases Nat.eq_zero_or_pos m with rfl | hpos
    · exact hcm
    · rcases hkinds (n := t.base + m) ⟨by omega, by omega⟩ with ⟨x, -, hcx⟩ | ⟨r, -, -, hr, hcr, -⟩
      · exact absurd (hcx.symm.trans hcm) (leafLink_ne_natCast _ _)
      · omega
  · rw [getChild_relink]
    rcases hkinds hn with ⟨x, hx, hcx⟩ | ⟨r, hr, hr', hnr, hcr, -⟩
    · exact .inl ⟨x, hx, hcx, hsNode hn hcx⟩
    · exact .inr ⟨t.base + 2 * r, hcr, hnr, ⟨by omega, by omega⟩, hparent hn (hcr ▸ below_natCast.mpr (.inl rfl)),
        hparent hn (hcr ▸ below_natCast.mpr (.inr (by omega)))⟩
  · obtain ⟨n, hn, hnx⟩ := hleafAt hx
    rw [getChild_relink, hsNode hn hnx]
    exact ⟨hn, hnx⟩
  · obtain ⟨m, -, hm, hcm⟩ := hshape.nodeAt ((n - t.base + 1) / 2) (by omega) (by have := hn.2; omega)
    have hnode : t.Node (t.base + m) := ⟨by omega, by omega⟩
    have hbelow : Below (d.getChild (t.base + m)) n := hcm ▸ below_natCast.mpr (by omega)
    have hbefore : t.base + m < n := by
      rcases hkinds hnode with ⟨x, -, hcx⟩ | ⟨r, -, -, hr, hcr, -⟩
      · exact absurd (hcx.symm.trans hcm) (leafLink_ne_natCast _ _)
      · omega
    rw [hparent hnode hbelow, getChild_relink]
    exact ⟨hnode, hbefore, hbelow⟩
  · obtain ⟨m, hm, hmx, hfm⟩ := Rebuilding.leaf_placed hl hc hd hn hx
    rw [Arena.weight, getFreq_relink, hsNode hm hmx, hfm]
  · obtain ⟨m, hm, hmx, -⟩ := Rebuilding.leaf_placed hl hc hd hn hx
    obtain ⟨m', hm', hmx', -⟩ := Rebuilding.leaf_placed hl hc hd hn' hx'
    rw [hsNode hm hmx, hsNode hm' hmx']
    rcases Nat.lt_trichotomy m m' with h | rfl | h
    · exact h
    · have := hl.inj n n' x hn hn' hx (by rw [hx', ← hmx', hmx])
      omega
    · have := Rebuilding.leaf_order hl hc hd hn' hn hm' hm hx' hx hmx' hmx h
      omega
  · rw [getChild_relink] at hnl
    rw [getFreq_relink, getFreq_relink, getFreq_relink]
    rcases hkinds hn with ⟨x, -, hcx⟩ | ⟨r, -, -, -, hcr, hfr⟩
    · exact absurd (hcx.symm.trans hnl) (leafLink_ne_natCast _ _)
    · obtain rfl : l = t.base + 2 * r := by omega
      exact hfr
  · have hout : Outside t a d := Outside.trans (b := c) ⟨fun j hj => (hc.other j ?_).1, fun j hj => (hc.other j ?_).2,
      fun j _ => hc.links.1 j, fun x _ => hc.links.2 x⟩ hshape.outside
    · refine hout.trans ⟨fun j _ => getFreq_relink _ _ _ _, fun j _ => getChild_relink _ _ _ _, fun j hj => ?_,
        fun x hx => ?_⟩
      · refine (getParent_relink hshape.wf hfits hbounds j).1 fun n hlo hhi hbelow => hj ?_
        rcases hkinds (hin.mpr ⟨hlo, hhi⟩) with ⟨x, -, hcx⟩ | ⟨r, hr, hr', -, hcr, -⟩
        · exact absurd (hcx ▸ hbelow) (not_below_leafLink x j)
        · rw [hcr, below_natCast] at hbelow
          exact ⟨by omega, by omega, by omega⟩
      · refine (getSNode_relink hshape.wf hfits hbounds x).1 fun n hlo hhi hcx => hx ?_
        rcases hkinds (hin.mpr ⟨hlo, hhi⟩) with ⟨y, hy, hcy⟩ | ⟨r, -, -, -, hcr, -⟩
        · rwa [leafLink_inj.mp (hcx.symm.trans hcy)]
        · exact absurd (hcx.symm.trans hcr) (leafLink_ne_natCast _ _)
    all_goals
      rw [hin] at hj
      omega

end Rebuilt

end Sys2Proof.Proofs
end

section
/-! PROOFS. The weights of a rebuilt tree (R273, R285). -/

namespace Sys2Proof.Proofs

open Sys2Proof.Machine Sys2Proof.Laws

/-! ### The weights in step 2 -/

/-- The weights of the compacted leaves do not rise, none is 0, and together they fit a node. -/
structure RowWeights (t : Span) (c : Arena) : Prop where
  order : ∀ i i', i ≤ i' → i' < t.count → c.getFreq (t.base + i') ≤ c.getFreq (t.base + i)
  positive : ∀ i, i < t.count → 1 ≤ c.getFreq (t.base + i)
  small : ∑ i ∈ Finset.range t.count, c.getFreq (t.base + i) < 65536

/-- The weights in an arena of step 2: the placed nodes' do not rise; no placed node weighs more than a leaf that is still to
be placed, nor than the next pair where that is complete; an internal node weighs what its pair does; and the nodes
without a parent weigh what the leaves did. -/
structure Ordered (t : Span) (c : Arena) (k j : Nat) (d : Arena) : Prop where
  order : ∀ m, k + j ≤ m → m + 2 < 2 * t.count → d.getFreq (t.base + (m + 1)) ≤ d.getFreq (t.base + m)
  positive : ∀ m, k + j ≤ m → m + 1 < 2 * t.count → 1 ≤ d.getFreq (t.base + m)
  below : ∀ i m, i < j → k + j ≤ m → m + 1 < 2 * t.count → d.getFreq (t.base + m) ≤ c.getFreq (t.base + i)
  light : ∀ m, j < k → k + j ≤ m → m + 1 < 2 * t.count → d.getFreq (t.base + m) ≤ pairWeight t k d
  exact : ∀ m r : Nat, k + j ≤ m → m + 1 < 2 * t.count → d.getChild (t.base + m) = ((t.base + 2 * r : Nat) : Int) →
    d.getFreq (t.base + m) = pairWeight t r d
  total : ∑ i ∈ Finset.range j, c.getFreq (t.base + i) + ∑ m ∈ Finset.Ico (k + j) (2 * k + 1), d.getFreq (t.base + m) =
    ∑ i ∈ Finset.range t.count, c.getFreq (t.base + i)

section OrderedSteps

variable {t : Span} {c d : Arena} {k j : Nat} (hc : LeafRow t c) (hw : RowWeights t c)

omit hw in
include hc in
/-- A placed internal node stands before its pair. -/
theorem Shape.before_pair (h : Shape t c k j d) {m r : Nat} (hm : k + j ≤ m) (hm' : m + 1 < 2 * t.count)
    (hr : d.getChild (t.base + m) = ((t.base + 2 * r : Nat) : Int)) : m + 2 ≤ 2 * r := by
  rcases h.kind m hm hm' with ⟨i, -, hi, hci, -⟩ | ⟨r', -, -, hmr, hcr, -⟩
  · have := hc.leaf i hi
    omega
  · omega

include hc hw

omit hw in
theorem Ordered.start : Ordered t c (t.count - 1) t.count c := by
  have hgrown := hc.fits.grown
  refine ⟨fun m hm hm' => by omega, fun m hm hm' => by omega, fun i m _ hm hm' => by omega, fun m hlt => by omega,
    fun m r hm hm' => by omega, ?_⟩
  rw [Finset.Ico_eq_empty (by omega), Finset.sum_empty, Nat.add_zero]

theorem Ordered.leaf (hs : Shape t c k (j + 1) d) (h : Ordered t c k (j + 1) d)
    (hdue : k ≤ j + 1 ∨ ∃ i ≤ j, c.getFreq (t.base + i) ≤ pairWeight t k d) :
    Ordered t c k j (setNode d (t.base + (k + j)) (d.getFreq (t.base + j)) (d.getChild (t.base + j))) := by
  obtain ⟨horder, hpos, hbelow, hlight, hexact, htotal⟩ := h
  have hnodes := hs.nodesLeft
  have hleaves := hs.leavesLeft
  have hp : t.base + (k + j) < 884 := hc.fits.node_lt ⟨by omega, by omega⟩
  have hbounds := getChild_bounds d (t.base + j)
  obtain ⟨hfreq, hchild⟩ := hs.rest j (Nat.lt_succ_self j)
  have hFp := (getFreq_setNode (v := d.getFreq (t.base + j)) (c := d.getChild (t.base + j)) hs.wf hp
    (t.base + (k + j))).trans ((if_pos rfl).trans (Nat.mod_eq_of_lt (getFreq_lt _ _)))
  have hF (i : Nat) (hi : i ≠ t.base + (k + j)) :=
    (getFreq_setNode (v := d.getFreq (t.base + j)) (c := d.getChild (t.base + j)) hs.wf hp i).trans (if_neg hi)
  have hC (i : Nat) := getChild_setNode (v := d.getFreq (t.base + j)) hs.wf hp hbounds.1 hbounds.2 i
  generalize setNode d (t.base + (k + j)) (d.getFreq (t.base + j)) (d.getChild (t.base + j)) = d' at *
  rw [hfreq] at hFp
  refine ⟨fun m hm hm' => ?_, fun m hm hm' => ?_, fun i m hi hm hm' => ?_, fun m hlt hm hm' => ?_,
    fun m r hm hm' hr => ?_, ?_⟩
  · rw [hF (t.base + (m + 1)) (by omega)]
    rcases Nat.eq_or_lt_of_le hm with rfl | hlt
    · rw [hFp]
      exact hbelow j _ (Nat.lt_succ_self j) le_rfl hm'
    · rw [hF _ (by omega)]
      exact horder m hlt hm'
  · rcases Nat.eq_or_lt_of_le hm with rfl | hlt
    · rw [hFp]
      exact hw.positive j (by omega)
    · rw [hF _ (by omega)]
      exact hpos m hlt hm'
  · rcases Nat.eq_or_lt_of_le hm with rfl | hlt
    · rw [hFp]
      exact hw.order i j hi.le (by omega)
    · rw [hF _ (by omega)]
      exact hbelow i m (by omega) hlt hm'
  · have hnew : d'.getFreq (t.base + m) ≤ c.getFreq (t.base + j) := by
      rcases Nat.eq_or_lt_of_le hm with rfl | hlt
      · exact hFp.le
      · rw [hF _ (by omega)]
        exact hbelow j m (Nat.lt_succ_self j) hlt hm'
    by_cases hpair : k = j + 1
    · have hfirst : pairWeight t k d' = d'.getFreq (t.base + (k + j)) + d'.getFreq (t.base + 2 * k) := by
        rw [pairWeight, show t.base + 2 * k - 1 = t.base + (k + j) by omega]
      omega
    · obtain ⟨i, hi, hweight⟩ := hdue.resolve_left (by omega)
      rw [pairWeight_congr (p := k + j) (by omega) hF]
      exact hnew.trans ((hw.order i j hi (by omega)).trans hweight)
  · rcases Nat.eq_or_lt_of_le hm with rfl | hlt
    · have hneg := hc.leaf j (by omega)
      rw [hC, if_pos rfl, hchild] at hr
      omega
    · rw [hC, if_neg (by omega)] at hr
      have hbefore := hs.before_pair hc hlt hm' hr
      rw [hF _ (by omega), pairWeight_congr (p := k + j) (by omega) hF]
      exact hexact m r hlt hm' hr
  · rw [Finset.sum_range_succ] at htotal
    rw [Finset.sum_eq_sum_Ico_succ_bot (by omega), hFp, Finset.sum_congr rfl fun m hm =>
      hF (t.base + m) (by have := Finset.mem_Ico.mp hm; omega), ← Nat.add_assoc]
    exact htotal

theorem Ordered.node (hs : Shape t c (k + 1) j d) (h : Ordered t c (k + 1) j d) (hj : j ≤ k)
    (hheavy : ∀ i, i < j → pairWeight t (k + 1) d < c.getFreq (t.base + i)) :
    Ordered t c k j (setNode d (t.base + (k + j)) (pairWeight t (k + 1) d) ((t.base + 2 * (k + 1) : Nat) : Int)) := by
  obtain ⟨horder, hpos, hbelow, hlight, hexact, htotal⟩ := h
  have hnodes := hs.nodesLeft
  have hp : t.base + (k + j) < 884 := hc.fits.node_lt ⟨by omega, by omega⟩
  have hl : t.base + 2 * (k + 1) < 884 := hc.fits.node_lt ⟨by omega, by omega⟩
  rw [show 2 * (k + 1) + 1 = 2 * k + 1 + 1 + 1 by omega, Finset.sum_Ico_succ_top (by omega),
    Finset.sum_Ico_succ_top (by omega), Nat.add_assoc (∑ m ∈ _, _), show d.getFreq (t.base + (2 * k + 1)) +
      d.getFreq (t.base + (2 * k + 1 + 1)) = pairWeight t (k + 1) d from rfl] at htotal
  have hsmall := hw.small
  have hFp := (getFreq_setNode (v := pairWeight t (k + 1) d) (c := ((t.base + 2 * (k + 1) : Nat) : Int)) hs.wf hp
    (t.base + (k + j))).trans ((if_pos rfl).trans (Nat.mod_eq_of_lt (by omega)))
  have hF (i : Nat) (hi : i ≠ t.base + (k + j)) := (getFreq_setNode (v := pairWeight t (k + 1) d)
    (c := ((t.base + 2 * (k + 1) : Nat) : Int)) hs.wf hp i).trans (if_neg hi)
  have hC (i : Nat) := getChild_setNode (v := pairWeight t (k + 1) d) (c := ((t.base + 2 * (k + 1) : Nat) : Int)) hs.wf hp
    (by omega) (by omega) i
  generalize setNode d (t.base + (k + j)) (pairWeight t (k + 1) d) ((t.base + 2 * (k + 1) : Nat) : Int) = d' at *
  have hpair := pairWeight_congr (t := t) (p := k + j) (k := k + 1) (by omega) hF
  have horder' (m : Nat) (hm : k + j ≤ m) (hm' : m + 2 < 2 * t.count) :
      d'.getFreq (t.base + (m + 1)) ≤ d'.getFreq (t.base + m) := by
    rw [hF (t.base + (m + 1)) (by omega)]
    rcases Nat.eq_or_lt_of_le hm with rfl | hlt
    · rw [hFp]
      exact hlight _ (by omega) (by omega) hm'
    · rw [hF _ (by omega)]
      exact horder m (by omega) hm'
  have hle (m : Nat) (hm : k + j ≤ m) (hm' : m + 1 < 2 * t.count) : d'.getFreq (t.base + m) ≤ pairWeight t (k + 1) d := by
    rcases Nat.eq_or_lt_of_le hm with rfl | hlt
    · exact hFp.le
    · rw [hF _ (by omega)]
      exact hlight m (by omega) (by omega) hm'
  refine ⟨horder', fun m hm hm' => ?_, fun i m hi hm hm' => (hle m hm hm').trans (hheavy i hi).le, fun m hlt hm hm' => ?_,
    fun m r hm hm' hr => ?_, ?_⟩
  · rcases Nat.eq_or_lt_of_le hm with rfl | hlt
    · rw [hFp]
      exact (hpos (2 * (k + 1)) (by omega) (by omega)).trans (Nat.le_add_left _ _)
    · rw [hF _ (by omega)]
      exact hpos m (by omega) hm'
  · refine (hle m hm hm').trans ?_
    have h0 := horder' (2 * k - 1) (by omega) (by omega)
    have h1 := horder' (2 * k) (by omega) (by omega)
    have h2 := horder' (2 * k + 1) (by omega) (by omega)
    rw [← hpair, pairWeight, pairWeight, show t.base + 2 * (k + 1) - 1 = t.base + (2 * k + 1) by omega,
      show t.base + 2 * (k + 1) = t.base + (2 * k + 1 + 1) by omega,
      show t.base + 2 * k - 1 = t.base + (2 * k - 1) by omega]
    rw [show 2 * k - 1 + 1 = 2 * k by omega] at h0
    omega
  · rcases Nat.eq_or_lt_of_le hm with rfl | hlt
    · rw [hC, if_pos rfl] at hr
      obtain rfl : k + 1 = r := by omega
      rw [hFp, hpair]
    · rw [hC, if_neg (by omega)] at hr
      have hbefore := hs.before_pair hc (by omega) hm' hr
      rw [hF _ (by omega), pairWeight_congr (p := k + j) (by omega) hF]
      exact hexact m r (by omega) hm' hr
  · rw [Finset.sum_eq_sum_Ico_succ_bot (by omega), hFp, Finset.sum_congr rfl fun m hm =>
      hF (t.base + m) (by have := Finset.mem_Ico.mp hm; omega), Nat.add_comm (pairWeight _ _ _), ← Nat.add_assoc,
      Nat.add_right_comm k j 1]
    rw [← Nat.add_assoc] at htotal
    exact htotal

theorem Rebuilding.ordered (h : Rebuilding t c k j d) : Ordered t c k j d := by
  induction h with
  | start => exact Ordered.start hc
  | leaf h _ hdue ih => exact Ordered.leaf hc hw (h.shape hc) ih hdue
  | node h hj hheavy ih => exact Ordered.node hc hw (h.shape hc) ih hj hheavy

end OrderedSteps

/-! ### The leaves of a tree together weigh what its root's children do -/

section LeafSum

variable {t : Span} {a : Arena} (hl : Linked t a) (hv : Weighed t a t.base)

include hl

/-- The nodes below a node. -/
theorem Linked.nodes_below {y : Nat} (hy : t.Node (t.base + y)) :
    ∑ i ∈ Finset.Ico 1 (2 * t.count - 1) with a.getParent (t.base + i) - t.base = y, a.getFreq (t.base + i) =
      if a.getChild (t.base + y) < 0 then 0
      else a.getFreq ((a.getChild (t.base + y)).toNat - 1) + a.getFreq (a.getChild (t.base + y)).toNat := by
  have hparent {i : Nat} (hi : i ∈ Finset.Ico 1 (2 * t.count - 1)) : t.base + i = t.base + i ∧ t.Node (t.base + i) ∧
      t.Node (a.getParent (t.base + i)) ∧ Below (a.getChild (a.getParent (t.base + i))) (t.base + i) := by
    obtain ⟨hlo, hhi⟩ := Finset.mem_Ico.mp hi
    have hn : t.Node (t.base + i) := ⟨by omega, by omega⟩
    obtain ⟨hp, -, hb⟩ := hl.parent _ (by omega) hn
    exact ⟨rfl, hn, hp, hb⟩
  have hbelow {i : Nat} (hi : i ∈ Finset.Ico 1 (2 * t.count - 1)) :
      a.getParent (t.base + i) - t.base = y ↔ Below (a.getChild (t.base + y)) (t.base + i) := by
    obtain ⟨-, -, hp, hb⟩ := hparent hi
    refine ⟨fun h => ?_, fun h => ?_⟩
    · rwa [show t.base + y = a.getParent (t.base + i) by have := hp.1; omega]
    · rw [(hl.parent_of_below hy h).2.2]
      omega
  rcases hl.node _ hy with ⟨x, -, hx, -⟩ | ⟨c, hc, hlt, hcn, -⟩
  · rw [if_pos (hx ▸ leafLink_neg x), Finset.filter_eq_empty_iff.mpr fun i hi h =>
      not_below_leafLink x _ (hx ▸ (hbelow hi).mp h), Finset.sum_empty]
  · have hpair : (Finset.Ico 1 (2 * t.count - 1)).filter (fun i => a.getParent (t.base + i) - t.base = y) =
        {c - 1 - t.base, c - t.base} := by
      ext i
      have hcn := hcn.2
      rw [Finset.mem_filter, Finset.mem_insert, Finset.mem_singleton]
      refine ⟨fun ⟨hi, h⟩ => ?_, fun h => ?_⟩
      · have := below_natCast.mp (hc ▸ (hbelow hi).mp h)
        omega
      · have hi : i ∈ Finset.Ico 1 (2 * t.count - 1) := Finset.mem_Ico.mpr (by omega)
        exact ⟨hi, (hbelow hi).mpr (hc ▸ below_natCast.mpr (by omega))⟩
    rw [hpair, Finset.sum_pair (by omega), if_neg (by omega), hc, Int.toNat_natCast,
      show t.base + (c - 1 - t.base) = c - 1 by omega, show t.base + (c - t.base) = c by omega]

include hv

theorem Weighed.leaf_sum : (∑ i ∈ Finset.range (2 * t.count - 1),
    if a.getChild (t.base + i) < 0 then a.getFreq (t.base + i) else 0) =
      a.getFreq (t.base + 1) + a.getFreq (t.base + 2) := by
  have hg := hl.fits.grown
  have hroot : a.getChild (t.base + 0) = ((t.base + 2 : Nat) : Int) := hl.root
  have hnode {i : Nat} (hi : i < 2 * t.count - 1) : t.Node (t.base + i) := ⟨by omega, by omega⟩
  have hfibers := Finset.sum_fiberwise_of_maps_to (s := Finset.Ico 1 (2 * t.count - 1))
    (t := Finset.range (2 * t.count - 1)) (g := fun i => a.getParent (t.base + i) - t.base) (fun i hi => by
      obtain ⟨hlo, hhi⟩ := Finset.mem_Ico.mp hi
      have := (hl.parent _ (by omega) (hnode hhi)).1.2
      exact Finset.mem_range.mpr (by omega)) fun i => a.getFreq (t.base + i)
  rw [Finset.sum_congr rfl fun y hy => hl.nodes_below (hnode (Finset.mem_range.mp hy)), Finset.range_eq_Ico,
    Finset.sum_eq_sum_Ico_succ_bot (by omega), hroot, if_neg (by omega), Int.toNat_natCast] at hfibers
  have hinner : (∑ y ∈ Finset.Ico 1 (2 * t.count - 1), if a.getChild (t.base + y) < 0 then 0
      else a.getFreq ((a.getChild (t.base + y)).toNat - 1) + a.getFreq (a.getChild (t.base + y)).toNat) =
      ∑ y ∈ Finset.Ico 1 (2 * t.count - 1), if a.getChild (t.base + y) < 0 then 0 else a.getFreq (t.base + y) := by
    refine Finset.sum_congr rfl fun y hy => ?_
    obtain ⟨hlo, hhi⟩ := Finset.mem_Ico.mp hy
    split_ifs with hneg
    · rfl
    · have hsum := hv.sum (t.base + y) (a.getChild (t.base + y)).toNat (by omega) (hnode hhi) (by omega)
      rw [if_neg (by omega)] at hsum
      omega
  have hsplit : (∑ y ∈ Finset.Ico 1 (2 * t.count - 1), if a.getChild (t.base + y) < 0 then a.getFreq (t.base + y) else 0) +
      (∑ y ∈ Finset.Ico 1 (2 * t.count - 1), if a.getChild (t.base + y) < 0 then 0 else a.getFreq (t.base + y)) =
      ∑ y ∈ Finset.Ico 1 (2 * t.count - 1), a.getFreq (t.base + y) := by
    rw [← Finset.sum_add_distrib]
    refine Finset.sum_congr rfl fun y _ => ?_
    split_ifs <;> omega
  rw [Finset.range_eq_Ico, Finset.sum_eq_sum_Ico_succ_bot (by omega), hroot, if_neg (by omega)]
  simp only [Nat.zero_add] at hfibers ⊢
  rw [hinner, show t.base + 2 - 1 = t.base + 1 by omega] at hfibers
  omega

end LeafSum

/-! ### The rebuild of a tree that obeys the laws -/

/-- A rebuild of a tree whose root's children weigh no more than 0x8001 together keeps the tree's laws. -/
theorem Weighed.rebuild {t : Span} {a : Arena} (hl : Linked t a) (hv : Weighed t a t.base)
    (hbound : a.getFreq (t.base + 1) + a.getFreq (t.base + 2) ≤ 0x8001) :
    ∃ b, a.rebuild t.base (t.base + (2 * t.count - 1)) = some b ∧ Rebuilt t a b ∧ Weighed t b t.base ∧
      b.getFreq t.base = b.getFreq (t.base + 1) + b.getFreq (t.base + 2) ∧ b.getFreq t.base ≤ 0x8000 := by
  have hleafy := hl.leafy
  have hg := hl.fits.grown
  have hcount : t.count ≤ 442 := by
    have := hl.fits.place
    omega
  obtain ⟨c, d, hc, hd, hrun⟩ := hleafy.rebuild_steps
  have hfrom {q : Nat} (hq : q < t.count) := exists_leafNumber (hleafy.count.symm ▸ hq)
  have hnode {i : Nat} (hi : i < 2 * t.count - 1) : t.Node (t.base + i) := ⟨by omega, by omega⟩
  have hinner {i : Nat} (hneg : a.getChild (t.base + i) < 0) : 1 ≤ i := by
    rcases Nat.eq_zero_or_pos i with rfl | hpos
    · have : a.getChild (t.base + 0) = ((t.base + 2 : Nat) : Int) := hl.root
      omega
    · exact hpos
  have htotal : 2 * ∑ q ∈ Finset.range t.count, c.getFreq (t.base + q) ≤ 0x8001 + 2 * t.count := by
    have hsum := hc.sum
    rw [hleafy.count] at hsum
    rw [hsum, Finset.mul_sum]
    calc ∑ i ∈ Finset.range (2 * t.count - 1), 2 * (if a.getChild (t.base + i) < 0 then (a.getFreq (t.base + i) + 1) / 2 else 0)
        ≤ ∑ i ∈ Finset.range (2 * t.count - 1), ((if a.getChild (t.base + i) < 0 then a.getFreq (t.base + i) else 0) + 1) := by
          refine Finset.sum_le_sum fun i _ => ?_
          split_ifs <;> omega
      _ ≤ 0x8001 + 2 * t.count := by
          rw [Finset.sum_add_distrib, hv.leaf_sum hl, Finset.sum_const, Finset.card_range, smul_eq_mul]
          omega
  have hweights : RowWeights t c := by
    refine ⟨fun q q' hqq hq' => ?_, fun q hq => ?_, by omega⟩
    · obtain ⟨i, hi, hneg, rfl⟩ := hfrom (hqq.trans_lt hq')
      obtain ⟨i', hi', hneg', rfl⟩ := hfrom hq'
      have hii : i ≤ i' := by
        by_contra hlt
        have := leavesBefore_lt (a := a) (base := t.base) (m := i) (i := i') (by omega) hneg'
        omega
      have hpos := hinner hneg
      have := hv.le_of_lt (m := t.base + i) (n := t.base + i') (by omega) (by omega) (hnode hi')
      rw [(hc.leaf i hi hneg).1, (hc.leaf i' hi' hneg').1]
      omega
    · obtain ⟨i, hi, hneg, rfl⟩ := hfrom hq
      have hpos := hinner hneg
      have := hv.positive (t.base + i) (by omega) (hnode hi)
      rw [(hc.leaf i hi hneg).1]
      omega
  have hrebuilt := Rebuilding.rebuilt hleafy hc hd
  have hordered := hd.ordered (hleafy.row hc) hweights
  have hexact {n : Nat} (hn : t.Node n) {l : Nat} (hnl : d.getChild n = (l : Int)) :
      d.getFreq n = d.getFreq (l - 1) + d.getFreq l := by
    obtain ⟨i, hi, rfl⟩ := (node_iff_offset hg).mp hn
    rcases Rebuilding.node_kinds hleafy hc hd hn with ⟨x, -, hcx⟩ | ⟨r, -, -, -, hcr, -⟩
    · exact absurd (hcx.symm.trans hnl) (leafLink_ne_natCast _ _)
    · obtain rfl : l = t.base + 2 * r := by omega
      exact hordered.exact i r (Nat.zero_le _) (by omega) hcr
  have hroot : d.getFreq t.base = ∑ q ∈ Finset.range t.count, c.getFreq (t.base + q) := by
    have := hordered.total
    simpa using this
  refine ⟨_, hrun, hrebuilt, ⟨fun n l hlt hn hnl => ?_, fun n hlt hn => ?_, fun n hlt hn => ?_⟩, ?_, ?_⟩
  · rw [getChild_relink] at hnl
    simp only [getFreq_relink]
    rw [if_neg (by omega), Nat.add_zero, hexact hn hnl, Nat.add_comm]
  · obtain ⟨i, hi, rfl⟩ := (node_iff_offset hg).mp (show t.Node n from ⟨hlt.le, by have := hn.2; omega⟩)
    simp only [getFreq_relink]
    exact hordered.order i (Nat.zero_le _) (by have := hn.2; omega)
  · obtain ⟨i, hi, rfl⟩ := (node_iff_offset hg).mp hn
    simp only [getFreq_relink]
    exact hordered.positive i (Nat.zero_le _) (by omega)
  · simp only [getFreq_relink]
    have hchild := hrebuilt.linked.root
    rw [getChild_relink] at hchild
    exact hexact ⟨le_rfl, by omega⟩ hchild
  · rw [getFreq_relink, hroot]
    omega

end Sys2Proof.Proofs
end

section
/-! PROOFS. DYN_RECONST on trees that obey the laws (O46). -/

namespace Sys2Proof.Proofs

open Sys2Proof.Machine Sys2Proof.Laws

/-! ### The rebuild as the commands run it (R274) -/

theorem reconstC_of_rebuild {a b : Arena} (k : Nat)
    (h : a.rebuild (spanC a.nMax.toNat).base ((spanC a.nMax.toNat).base + (2 * (spanC a.nMax.toNat).count - 1)) = some b) :
    a.reconstC k = (b, k) := by
  change a.rebuild 0 (0 + (2 * a.nMax.toNat - 1)) = some b at h
  rw [Nat.zero_add] at h
  rw [Arena.reconstC, Arena.reconst, rootC, h]

theorem reconstP_of_rebuild {a b : Arena} (hm : MostP a) (k : Nat)
    (h : a.rebuild (treeP a).base ((treeP a).base + (2 * (treeP a).count - 1)) = some b) :
    a.reconstP k = (b.sealRootP, k) := by
  obtain ⟨hlo, -, heven⟩ := hm
  have hstop : 628 + (2 * (a.lastPosition + 1) - 1) = a.mostP.toNat + 1 := by
    rw [Arena.lastPosition, rootP]
    omega
  change a.rebuild 628 (628 + (2 * (a.lastPosition + 1) - 1)) = some b at h
  rw [hstop] at h
  rw [Arena.reconstP, if_neg (show ¬a.mostP.toNat = rootP by rw [rootP]; omega), Arena.reconst, rootP, h]

/-! ### The root's sentinel (R269, R274) -/

section Seal

variable {b : Arena}

theorem sealRootP_wf (hw : b.wf = true) : b.sealRootP.wf = true :=
  setFreq_wf (a := { b with totalP := BitVec.ofNat 16 (b.getFreq rootP) }) hw _ _

theorem getFreq_sealRootP (hw : b.wf = true) (j : Nat) :
    b.sealRootP.getFreq j = if j = 628 then 0xFFFF else b.getFreq j :=
  getFreq_setFreq (a := { b with totalP := BitVec.ofNat 16 (b.getFreq 628) }) hw (by decide) (by decide) j

theorem Outside.sealRootP {t : Span} {a : Arena} (h : Outside t a b) (hw : b.wf = true) (hroot : t.Node 628) :
    Outside t a b.sealRootP :=
  ⟨fun j hj => (getFreq_sealRootP hw j).trans ((if_neg fun heq : j = 628 => hj (heq ▸ hroot)).trans (h.freq j hj)), h.child, h.parent,
    h.sNode⟩

/-- The rebuilt position tree with its sentinel obeys the laws. -/
theorem weighedP_sealRootP {a : Arena} (hm : MostP a) (hb : Rebuilt (treeP a) a b) (hv : Weighed (treeP a) b 628)
    (hsum : b.getFreq 628 = b.getFreq 629 + b.getFreq 630) (hbound : b.getFreq 628 ≤ 0x8000) :
    WeighedP b.sealRootP ∧ b.sealRootP.mostP = a.mostP ∧
      b.sealRootP.totalP = BitVec.ofNat 16 (b.getFreq 629 + b.getFreq 630) := by
  have hmost : b.mostP = a.mostP := by rw [hb.regs]
  have hl := hb.linked
  have hspan : treeP b.sealRootP = treeP a := by
    change spanP (b.lastPosition + 1) = _
    rw [Arena.lastPosition, hmost]
    rfl
  have htotal : b.sealRootP.totalP = BitVec.ofNat 16 (b.getFreq 629 + b.getFreq 630) := by
    rw [← hsum]
    rfl
  have hfits : b.sealRootP.totalP.toNat = b.getFreq 628 := by
    rw [htotal, BitVec.toNat_ofNat]
    omega
  have hF := getFreq_sealRootP hl.wf
  have hroot : Weighed (treeP a) (b.setFreq 628 0xFFFF) 628 := hv.setRoot hl (by decide)
  refine ⟨⟨?_, ?_, ?_, ?_, ?_, ?_⟩, hmost, htotal⟩
  · have hmost' : b.sealRootP.mostP = a.mostP := hmost
    exact ⟨hmost' ▸ hm.low, hmost' ▸ hm.high, hmost' ▸ hm.even⟩
  · rw [hspan]
    exact ⟨sealRootP_wf hl.wf, hl.fits, hl.root, hl.node, hl.leaf, hl.parent⟩
  · rw [hspan]
    exact ⟨hroot.sum, hroot.order, hroot.positive⟩
  · rw [hF, if_pos rfl]
  · rw [hF, hF, if_neg (by decide), if_neg (by decide), hfits]
    omega
  · rw [hfits]
    exact hbound

end Seal

/-- The weights and the order of the leaves in a rebuild of a linked tree. -/
theorem Rebuilt.weight {t : Span} {a b : Arena} (h : Rebuilt t a b) (hl : Linked t a) {x : Nat} (hx : t.Sym x) :
    b.weight x = (a.weight x + 1) / 2 := by
  obtain ⟨hn, hc⟩ := hl.leaf x hx
  exact h.leaf _ x hn hc

theorem Rebuilt.sNode_lt {t : Span} {a b : Arena} (h : Rebuilt t a b) (hl : Linked t a) {x y : Nat} (hx : t.Sym x)
    (hy : t.Sym y) (hlt : a.getSNode x < a.getSNode y) : b.getSNode x < b.getSNode y := by
  obtain ⟨hn, hc⟩ := hl.leaf x hx
  obtain ⟨hn', hc'⟩ := hl.leaf y hy
  exact h.order _ _ x y hn hn' hlt hc hc'

/-- Settles O46: the rebuild places the leaves and the internal nodes each in their order (`Rebuilding.shape`), a leaf
before an internal node where it weighs no more (`Rebuilding.ordered`); the weights are halved and fit (`Weighed.leaf_sum`). -/
theorem dynReconstKeepsTreeLaws : Obligations.DynReconstKeepsTreeLaws := by
  unfold Obligations.DynReconstKeepsTreeLaws
  refine ⟨fun s he hv htree => ?_, fun s he hv htree => ?_⟩
  · obtain ⟨hl, hw, hsum, hbound⟩ := weighedC_of_cTree htree
    have hchildren : s.arena.getFreq (0 + 1) + s.arena.getFreq (0 + 2) ≤ 0x8001 := by
      rw [Nat.zero_add, Nat.zero_add]
      omega
    obtain ⟨b, hrun, hb, hwb, hsumb, hboundb⟩ := Weighed.rebuild hl hw hchildren
    have hmax : b.nMax = s.arena.nMax := by rw [hb.regs]
    have hkept : WeighedC b := ⟨hmax ▸ hb.linked, hmax ▸ hwb, hsumb.trans (Nat.add_comm _ _), hboundb⟩
    refine ⟨b, ?_, hkept.cTree, hb.outside.sameP htree.size.2 hb.regs, hmax, ?_, ?_, fun y hy => ?_,
      fun x y hx hy => hb.sNode_lt hl (sym_spanC.mpr hx) (sym_spanC.mpr hy)⟩
    · rw [exec_dynReconst_C he hv, reconstC_of_rebuild _ hrun, withArena_draws]
    · rw [hb.regs]
    · rw [hb.regs]
      exact hv
    · exact hb.weight hl (sym_spanC.mpr hy)
  · obtain ⟨hm, hl, hw, hroot, htotal, hbound⟩ := weighedP_of_pTree htree
    obtain ⟨b, hrun, hb, hwb, hsumb, hboundb⟩ := Weighed.rebuild hl hw
      (show s.arena.getFreq 629 + s.arena.getFreq 630 ≤ 0x8001 by omega)
    obtain ⟨hkept, hmost, htot⟩ := weighedP_sealRootP hm hb hwb hsumb hboundb
    have hrootNode : (treeP s.arena).Node 628 := (node_treeP hm).mpr ⟨le_rfl, by have := hm.low; omega⟩
    have hout := hb.outside.sealRootP hb.linked.wf hrootNode
    have hF := getFreq_sealRootP hb.linked.wf
    have hregs := hb.regs
    have hne : s.arena.mostP.toNat ≠ 628 := by
      have := hm.low
      omega
    have hsym {y : Nat} (hy : y ≤ s.arena.lastPosition) := sym_treeP.mpr ⟨y, rfl, hy⟩
    refine ⟨b.sealRootP, ?_, hkept.pTree, hout.sameC ?_ ?_ ?_, hmost, ?_, ?_, ?_, ?_, fun y hy => ?_,
      fun x y hx hy => hb.sNode_lt hl (hsym hx) (hsym hy)⟩
    · rw [exec_dynReconst_P he hv hne, reconstP_of_rebuild hm _ hrun, withArena_draws]
    · change b.nMax = _
      rw [hregs]
    · change b.n1 = _
      rw [hregs]
    · change b.validC = _
      rw [hregs]
    · rw [htot, hF, hF, if_neg (by decide), if_neg (by decide)]
    · change b.nn = _
      rw [hregs]
    · change b.nextCount = _
      rw [hregs]
    · change b.validP = _
      rw [hregs]
      exact hv
    · have hleaf : b.sealRootP.weight (314 + y) = b.weight (314 + y) :=
        (hF _).trans (if_neg (hb.linked.sNode_ne_base (hsym hy)).ne')
      rw [hleaf, hb.weight hl (hsym hy)]

end Sys2Proof.Proofs
end

section
/-! PROOFS. What the rebuild makes of a fresh literal/length tree, and of a position tree of two leaves (R273). -/

namespace Sys2Proof.Proofs

open Sys2Proof.Machine Sys2Proof.Laws

/-! ### Leaves of one weight -/

/-- Over leaves of weight 1, step 2 places first every leaf and then every internal node. -/
theorem Rebuilding.level {t : Span} {c d : Arena} {k j : Nat} (hc : LeafRow t c)
    (hone : ∀ q, q < t.count → c.getFreq (t.base + q) = 1) (h : Rebuilding t c k j d) :
    (k + 1 < t.count → j = 0) ∧ ∀ m, k + j ≤ m → m + 1 < 2 * t.count →
      (m + 1 < t.count → d.getChild (t.base + m) = ((t.base + 2 * (m + 1) : Nat) : Int)) ∧
      (t.count ≤ m + 1 → d.getChild (t.base + m) = c.getChild (t.base + (m + 1 - t.count)) ∧
        d.getFreq (t.base + m) = 1) := by
  induction h with
  | start => exact ⟨fun h => by omega, fun m hm hm' => by omega⟩
  | @leaf k j d h hk hdue ih =>
    obtain ⟨hfirst, hplaced⟩ := ih
    have hs := h.shape hc
    have hnodes := hs.nodesLeft
    have hleaves := hs.leavesLeft
    have hp : t.base + (k + j) < 884 := hc.fits.node_lt ⟨by omega, by omega⟩
    have hbounds := getChild_bounds d (t.base + j)
    obtain ⟨hfreq, hchild⟩ := hs.rest j (Nat.lt_succ_self j)
    refine ⟨fun hlt => by have := hfirst hlt; omega, fun m hm hm' => ?_⟩
    rw [getFreq_setNode hs.wf hp, getChild_setNode hs.wf hp hbounds.1 hbounds.2]
    rcases Nat.eq_or_lt_of_le hm with rfl | hlt
    · rw [if_pos rfl, if_pos rfl, hchild, hfreq, hone j (by omega), show k + j + 1 - t.count = j by omega]
      exact ⟨fun hlt => by omega, fun _ => ⟨rfl, rfl⟩⟩
    · rw [if_neg (by omega), if_neg (by omega)]
      exact hplaced m hlt hm'
  | @node k j d h hj hheavy ih =>
    obtain ⟨hfirst, hplaced⟩ := ih
    have hs := h.shape hc
    have hnodes := hs.nodesLeft
    have hp : t.base + (k + j) < 884 := hc.fits.node_lt ⟨by omega, by omega⟩
    have hl : t.base + 2 * (k + 1) < 884 := hc.fits.node_lt ⟨by omega, by omega⟩
    have hj0 : j = 0 := by
      by_contra hpos
      have hcount : k + 2 = t.count := by
        by_contra hne
        exact hpos (hfirst (by omega))
      have h1 := ((hplaced (2 * k + 1) (by omega) (by omega)).2 (by omega)).2
      have h2 := ((hplaced (2 * (k + 1)) (by omega) (by omega)).2 (by omega)).2
      have hlight := hheavy 0 (Nat.pos_of_ne_zero hpos)
      rw [hone 0 (by omega), pairWeight, h2] at hlight
      omega
    refine ⟨fun _ => hj0, fun m hm hm' => ?_⟩
    rw [getFreq_setNode hs.wf hp, getChild_setNode hs.wf hp (by omega) (by omega)]
    rcases Nat.eq_or_lt_of_le hm with rfl | hlt
    · rw [if_pos rfl, if_pos rfl, hj0]
      exact ⟨fun _ => rfl, fun hge => by omega⟩
    · rw [if_neg (by omega), if_neg (by omega)]
      exact hplaced m (by omega) hm'

/-! ### The fresh literal/length tree -/

section Fresh

variable {n : Nat} {a₀ a : Arena} (h : FreshC n a₀ a) (hlo : 2 ≤ n) (hhi : n ≤ 314)

include h

/-- The leaves stand behind the internal nodes. -/
theorem FreshC.child_kind {i : Nat} (hi : i + 2 ≤ 2 * n) :
    (i + 1 < n ∧ a.getChild i = ((2 * i + 2 : Nat) : Int)) ∨ (n ≤ i + 1 ∧ a.getChild i = leafLink (2 * n - 2 - i)) := by
  rcases Nat.lt_or_ge (i + 1) n with hlt | hge
  · exact .inl ⟨hlt, (h.node i hlt).1⟩
  · have hleaf := (h.leaf (2 * n - 2 - i) (by omega)).2.2
    rw [show 2 * n - 2 - (2 * n - 2 - i) = i by omega] at hleaf
    exact .inr ⟨hge, hleaf⟩

include hlo hhi

theorem FreshC.leafy : Leafy (spanC n) a := by
  have hkind {i : Nat} (hi : (spanC n).Node i) := h.child_kind (node_spanC.mp hi)
  refine ⟨h.wf, ⟨hlo, .inl ⟨rfl, rfl, hhi⟩⟩, fun i hi hneg => ?_, fun x hx => ?_, fun i i' x hi hi' hx hx' => ?_⟩
  · rcases hkind hi with ⟨-, hc⟩ | ⟨hge, hc⟩
    · omega
    · exact ⟨_, sym_spanC.mpr (by omega), hc⟩
  · rw [sym_spanC] at hx
    exact ⟨2 * n - 2 - x, node_spanC.mpr (by omega), (h.leaf x hx).2.2⟩
  · rcases hkind hi with ⟨-, hc⟩ | ⟨-, hc⟩
    · exact absurd (hx.symm.trans hc) (leafLink_ne_natCast _ _)
    · rcases hkind hi' with ⟨-, hc'⟩ | ⟨-, hc'⟩
      · exact absurd (hx'.symm.trans hc') (leafLink_ne_natCast _ _)
      · have hx := leafLink_inj.mp (hx.symm.trans hc)
        have hx' := leafLink_inj.mp (hx'.symm.trans hc')
        rw [node_spanC] at hi hi'
        omega

/-- The number of a leaf of the fresh tree. -/
theorem FreshC.leavesBefore_eq {q : Nat} (hq : q < n) : leavesBefore a 0 (n - 1 + q) = q := by
  have hnone : Nat.count (fun i => a.getChild (0 + i) < 0) (n - 1) = 0 := Nat.count_of_forall_not fun i hi hneg => by
    rcases h.child_kind (i := i) (by omega) with ⟨-, hc⟩ | ⟨hge, -⟩
    · rw [Nat.zero_add, hc] at hneg
      omega
    · omega
  have hall : Nat.count (fun i => a.getChild (0 + (n - 1 + i)) < 0) q = q := Nat.count_of_forall fun i hi => by
    rcases h.child_kind (i := n - 1 + i) (by omega) with ⟨hlt, -⟩ | ⟨-, hc⟩
    · omega
    · rw [Nat.zero_add, hc]
      exact leafLink_neg _
  rw [leavesBefore, Nat.count_add, hnone, hall, Nat.zero_add]

/-- The rebuild has the fresh tree's child links. -/
theorem FreshC.rebuild_child {c d : Arena} (hc : Compacted a 0 (2 * n - 1) c) (hd : Rebuilding (spanC n) c 0 0 d) :
    (∀ i, i + 2 ≤ 2 * n → d.getChild i = a.getChild i) ∧ ∀ i, n ≤ i + 1 → i + 2 ≤ 2 * n → d.getFreq i = 1 := by
  have hcompacted {q : Nat} (hq : q < n) : c.getFreq (0 + q) = 1 ∧ c.getChild (0 + q) = leafLink (n - 1 - q) := by
    have hleaf := h.leaf (n - 1 - q) (by omega)
    rw [show 2 * n - 2 - (n - 1 - q) = 0 + (n - 1 + q) by omega] at hleaf
    have hread := hc.leaf (n - 1 + q) (by omega) (hleaf.2.2 ▸ leafLink_neg _)
    rw [h.leavesBefore_eq hlo hhi hq, hleaf.2.1, hleaf.2.2] at hread
    exact hread
  have hlevel {i : Nat} (hi : i + 2 ≤ 2 * n) := (Rebuilding.level ((h.leafy hlo hhi).row hc)
    (fun q hq => (hcompacted hq).1) hd).2 i (Nat.zero_le _) (by change i + 1 < 2 * n; omega)
  simp only [spanC, Nat.zero_add] at hlevel hcompacted
  refine ⟨fun i hi => ?_, fun i hge hi => ((hlevel hi).2 hge).2⟩
  rcases h.child_kind hi with ⟨hlt, hchild⟩ | ⟨hge, hchild⟩
  · rw [(hlevel hi).1 hlt, hchild]
    rfl
  · rw [((hlevel hi).2 hge).1, (hcompacted (by omega)).2, hchild, show n - 1 - (i + 1 - n) = 2 * n - 2 - i by omega]

/-- The rebuild of a fresh tree is the tree. -/
theorem FreshC.rebuild : a.rebuild 0 (0 + (2 * n - 1)) = some a := by
  have hl := h.leafy hlo hhi
  obtain ⟨c, d, hc, hd, hrun⟩ := hl.rebuild_steps
  have hb := Rebuilding.rebuilt hl hc hd
  obtain ⟨hchild, hleafFreq⟩ := h.rebuild_child hlo hhi hc hd
  refine hrun.trans (congrArg some ?_)
  have hreadF (i : Nat) : d.getFreq i = (relink (2 * (spanC n).count - 1) (spanC n).base d).getFreq i :=
    (getFreq_relink _ _ _ i).symm
  have hreadC (i : Nat) : d.getChild i = (relink (2 * (spanC n).count - 1) (spanC n).base d).getChild i :=
    (getChild_relink _ _ _ i).symm
  simp only [hreadF] at hleafFreq
  simp only [hreadC] at hchild
  generalize relink (2 * (spanC n).count - 1) (spanC n).base d = b at *
  have hfreq : ∀ left i, 2 * n - 2 - i = left → i + 2 ≤ 2 * n → b.getFreq i = a.getFreq i := fun left => by
    induction left using Nat.strong_induction_on with
    | _ left ih =>
      intro i hleft hi
      rcases Nat.lt_or_ge (i + 1) n with hlt | hge
      · obtain ⟨hci, -, -, hsum⟩ := h.node i hlt
        have hfits := getFreq_lt a i
        rw [hb.sum i (2 * i + 2) (node_spanC.mpr hi) ((hchild i hi).trans hci), show 2 * i + 2 - 1 = 2 * i + 1 by omega,
          ih _ (by omega) (2 * i + 2) rfl (by omega), ih _ (by omega) (2 * i + 1) rfl (by omega)]
        omega
      · have hleaf := (h.leaf (2 * n - 2 - i) (by omega)).2.1
        rw [show 2 * n - 2 - (2 * n - 2 - i) = i by omega] at hleaf
        rw [hleafFreq i hge hi, hleaf]
  refine arena_ext h.wf hb.linked.wf hb.regs (fun i => ?_) (fun i => ?_) (fun i => ?_) fun x => ?_
  · by_cases hi : (spanC n).Node i
    · exact hfreq _ i rfl (node_spanC.mp hi)
    · exact hb.outside.freq i hi
  · by_cases hi : (spanC n).Node i
    · exact hchild i (node_spanC.mp hi)
    · exact hb.outside.child i hi
  · by_cases hi : 0 < i ∧ (spanC n).Node i
    · obtain ⟨hpos, hi⟩ := hi
      rw [node_spanC] at hi
      obtain ⟨hc, hp, hp', -⟩ := h.node ((i - 1) / 2) (by omega)
      have hbelow : Below (b.getChild ((i - 1) / 2)) i := by
        rw [hchild _ (by omega), hc, below_natCast]
        omega
      rw [(hb.linked.parent_of_below (node_spanC.mpr (by omega)) hbelow).2.2]
      rcases Nat.even_or_odd' i with ⟨r, hr | hr⟩
      · rw [show 2 * ((i - 1) / 2) + 2 = i by omega] at hp
        exact hp.symm
      · rw [show 2 * ((i - 1) / 2) + 1 = i by omega] at hp'
        exact hp'.symm
    · exact hb.outside.parent i hi
  · by_cases hx : (spanC n).Sym x
    · obtain ⟨hs, -, hc⟩ := h.leaf x (sym_spanC.mp hx)
      rw [hs]
      rw [sym_spanC] at hx
      exact (hb.linked.sNode_of_leaf (node_spanC.mpr (by omega)) ((hchild _ (by omega)).trans hc)).2
    · exact hb.outside.sNode x hx

end Fresh

/-! ### A position tree of two leaves -/

section TwoLeaves

variable {a : Arena} {x y : Nat} (hw : a.wf = true) (hroot : a.getChild 628 = 630) (hx : a.getChild 629 = leafLink x)
  (hy : a.getChild 630 = leafLink y) (hxy : x = 314 ∧ y = 315 ∨ x = 315 ∧ y = 314)

theorem node_two {i : Nat} : (spanP 2).Node i ↔ i = 628 ∨ i = 629 ∨ i = 630 := by
  simp only [Span.Node, spanP]
  omega

include hw hroot hx hy hxy in
theorem leafy_two : Leafy (spanP 2) a := by
  refine ⟨hw, ⟨le_rfl, .inr ⟨rfl, rfl, by decide⟩⟩, fun i hi hneg => ?_, fun z hz => ?_, fun i i' z hi hi' hz hz' => ?_⟩
  · rcases node_two.mp hi with rfl | rfl | rfl
    · omega
    · exact ⟨x, by simp only [Span.Sym, spanP]; omega, hx⟩
    · exact ⟨y, by simp only [Span.Sym, spanP]; omega, hy⟩
  · simp only [Span.Sym, spanP] at hz
    by_cases hzx : z = x
    · exact ⟨629, node_two.mpr (by omega), hzx ▸ hx⟩
    · exact ⟨630, node_two.mpr (by omega), by rw [hy, leafLink_inj]; omega⟩
  · have hleaf {i : Nat} (hi : (spanP 2).Node i) (hz : a.getChild i = leafLink z) : i = 629 ∧ z = x ∨ i = 630 ∧ z = y := by
      rcases node_two.mp hi with rfl | rfl | rfl
      · have := leafLink_neg z
        omega
      · exact .inl ⟨rfl, leafLink_inj.mp (hz.symm.trans hx)⟩
      · exact .inr ⟨rfl, leafLink_inj.mp (hz.symm.trans hy)⟩
    have := hleaf hi hz
    have := hleaf hi' hz'
    omega

/-- The rebuild of two leaves: the same tree, with half the weights, rounded up. -/
structure TwoRebuilt (a b : Arena) (x y : Nat) : Prop where
  wf : b.wf = true
  child : b.getChild 628 = 630 ∧ b.getChild 629 = leafLink x ∧ b.getChild 630 = leafLink y
  freq : b.getFreq 629 = (a.getFreq 629 + 1) / 2 ∧ b.getFreq 630 = (a.getFreq 630 + 1) / 2
  total : b.totalP = BitVec.ofNat 16 (b.getFreq 629 + b.getFreq 630)
  root : b.getFreq 628 = 0xFFFF
  parent : b.getParent 629 = 628 ∧ b.getParent 630 = 628
  sNode : b.getSNode x = 629 ∧ b.getSNode y = 630
  outside : Outside (spanP 2) a b
  regs : Rewrites a b

include hw hroot hx hy hxy in
theorem reconstP_two (hmost : a.mostP = 630#10) (k : Nat) : ∃ b, a.reconstP k = (b, k) ∧ TwoRebuilt a b x y := by
  have hm : MostP a := by
    constructor <;> rw [hmost] <;> decide
  have hspan : treeP a = spanP 2 := by
    rw [treeP, Arena.lastPosition, hmost]
    rfl
  have hl := leafy_two hw hroot hx hy hxy
  obtain ⟨c, d, hc, hd, hrun⟩ := hl.rebuild_steps
  have hb := Rebuilding.rebuilt hl hc hd
  generalize relink (2 * (spanP 2).count - 1) (spanP 2).base d = b at *
  have hrunP := reconstP_of_rebuild hm k (by rw [hspan]; exact hrun)
  have hn : ∀ i, i = 628 ∨ i = 629 ∨ i = 630 → (spanP 2).Node i := fun i hi => node_two.mpr hi
  have hsx : (spanP 2).Sym x := by simp only [Span.Sym, spanP]; omega
  have hsy : (spanP 2).Sym y := by simp only [Span.Sym, spanP]; omega
  have hlt := hb.order 629 630 x y (hn _ (by omega)) (hn _ (by omega)) (by decide) hx hy
  have hnx := node_two.mp (hb.linked.leaf x hsx).1
  have hny := node_two.mp (hb.linked.leaf y hsy).1
  have hpos : 628 < b.getSNode x := hb.linked.sNode_ne_base hsx
  have hsNodex : b.getSNode x = 629 := by omega
  have hsNodey : b.getSNode y = 630 := by omega
  have hcx := (hb.linked.leaf x hsx).2
  have hcy := (hb.linked.leaf y hsy).2
  have hfx := hb.leaf 629 x (hn _ (by omega)) hx
  have hfy := hb.leaf 630 y (hn _ (by omega)) hy
  rw [Arena.weight, hsNodex] at hfx
  rw [Arena.weight, hsNodey] at hfy
  rw [hsNodex] at hcx
  rw [hsNodey] at hcy
  have hcroot : b.getChild 628 = 630 := hb.linked.root
  obtain ⟨-, -, -, hp, hp'⟩ := hb.linked.children (hn 628 (by omega)) (c := 630) hcroot
  have hF := getFreq_sealRootP hb.linked.wf
  have hsum := hb.sum 628 630 (hn _ (by omega)) hcroot
  refine ⟨_, hrunP, sealRootP_wf hb.linked.wf, ⟨hcroot, hcx, hcy⟩, ⟨(hF _).trans hfx, (hF _).trans hfy⟩, ?_, hF _,
    ⟨hp', hp⟩, ⟨hsNodex, hsNodey⟩, hb.outside.sealRootP hb.linked.wf (hn _ (by omega)), ?_⟩
  · rw [hF, hF, if_neg (by decide), if_neg (by decide)]
    change BitVec.ofNat 16 (b.getFreq 628) = _
    rw [hsum]
    exact BitVec.eq_of_toNat_eq (by simp)
  · have := rewrites_reconstP a k
    rwa [hrunP] at this

end TwoLeaves

end Sys2Proof.Proofs
end

section
/-! PROOFS. The rebuild that an update needs, and the rebuild of particular trees (O45). -/

namespace Sys2Proof.Proofs

open Sys2Proof.Machine Sys2Proof.Laws

/-! ### A saturated tree (R268, R269) -/

theorem updateC_saturated {a : Arena} {k : Nat} (x : Nat) (h : a.getFreq 0 = 0x8000)
    (h' : (a.reconstC k).1.getFreq 0 ≠ 0x8000) :
    Arena.updateC x a k = Arena.updateC x (a.reconstC k).1 (a.reconstC k).2 := by
  rw [updateC_unsaturated h']
  exact congrArg (fun y : Arena × Nat => Arena.climb 0 arenaBound ((y.1.setFreq 0 (y.1.getFreq 0 + 1)).inc
    (y.1.getSNode x)).1 ((y.1.setFreq 0 (y.1.getFreq 0 + 1)).inc (y.1.getSNode x)).2 y.2) (if_pos h)

theorem countLeafP_saturated {a : Arena} {k : Nat} (x : Nat) (h : a.totalP = 0x8000#16)
    (h' : (a.reconstP k).1.totalP ≠ 0x8000#16) :
    Arena.countLeafP x a k = Arena.countLeafP x (a.reconstP k).1 (a.reconstP k).2 := by
  rw [countLeafP_unsaturated h', Arena.countLeafP, if_pos h]
  rfl

section Completed

variable {s u : State}

theorem completes_dynReconst_C (h : s.completes (.dynReconst 0#5) u) :
    s.estate ≠ .failed ∧ s.arena.validC = true ∧ u = (withArena s (s.arena.reconstC s.draws)).ended [] := by
  have hbody : (do
      requireDynC
      updateArena Arena.reconstC : Eng Unit) (issued s) =
      if s.arena.validC then .ok () (withArena (issued s) (s.arena.reconstC s.draws))
      else .error (.raise .badState) (issued s) := by
    rw [eng_bind, requireDynC, eng_require, show (issued s).arena.validC = s.arena.validC from rfl]
    split_ifs <;> rfl
  obtain ⟨-, he, t, ht, rfl⟩ := completed_command (legal := operandsLegal (.dynReconst 0#5)) (body := do
      requireDynC
      updateArena Arena.reconstC) h.1 h.2.2 fun t => by
    rw [hbody]
    split_ifs <;> nofun
  rw [hbody] at ht
  split_ifs at ht with hv
  cases ht
  exact ⟨he, hv, rfl⟩

theorem completes_dynReconst_P (h : s.completes (.dynReconst 1#5) u) :
    s.estate ≠ .failed ∧ s.arena.validP = true ∧ u = (withArena s (s.arena.reconstP s.draws)).ended [] := by
  obtain ⟨-, he, hv, -, t, ht, rfl⟩ := completed_checked (legal := operandsLegal (.dynReconst 1#5))
    (p := fun s => s.arena.validP) (c := .badState) (bad := fun s => decide (s.arena.mostP.toNat = rootP))
    (m := fun _ => updateArena Arena.reconstP) h.1 h.2.2 fun t => nofun
  cases ht
  exact ⟨he, hv, rfl⟩

end Completed

/-- Settles O45: a saturated tree's update begins with the rebuild; over leaves of one weight the rebuild places all leaves
first (`Rebuilding.level`); and of two leaves it keeps the order (`reconstP_two`). -/
theorem dynReconstRebuilds : Obligations.DynReconstRebuilds := by
  unfold Obligations.DynReconstRebuilds
  refine ⟨fun s u x hfull hx hlegal hu hroom => ?_, fun s u x hfull _ hx hu hroom => ?_, fun s a he hw hstart => ?_,
    fun s he hv hw hmost hroot hleaves => ?_⟩
  · obtain ⟨he, hv, rfl⟩ := completes_dynReconst_C hu
    have hregs := (rewrites_reconstC s.arena s.draws).regs
    rw [exec_dynUpdateC he hv hx hlegal, updateC_saturated _ hfull hroom]
    generalize s.arena.reconstC s.draws = y at *
    refine (exec_dynUpdateC (s := { (withArena s y).ended [] with cmd := s.cmd }) he ?_ ?_ hlegal).symm
    · change y.1.validC = true
      rw [hregs]
      exact hv
    · change x.toNat < y.1.nMax.toNat
      rw [hregs]
      exact hx
  · obtain ⟨he, hv, rfl⟩ := completes_dynReconst_P hu
    have hregs := (rewrites_reconstP s.arena s.draws).regs
    rw [exec_dynUpdateP he hv hx, Arena.updateP, countLeafP_saturated _ hfull hroom]
    generalize s.arena.reconstP s.draws = y at *
    refine (exec_dynUpdateP (s := { (withArena s y).ended [] with cmd := s.cmd }) he ?_ ?_).symm
    · change y.1.validP = true
      rw [hregs]
      exact hv
    · change x.toNat ≤ y.1.lastPosition
      rw [hregs]
      exact hx
  · obtain ⟨n, a₀, hlo, hhi, hfresh⟩ : ∃ n a₀, 2 ≤ n ∧ n ≤ 314 ∧ FreshC n a₀ s.arena := by
      rcases hstart with h | h
      · exact ⟨314, a, by decide, le_rfl, h ▸ startC_fresh (by decide) le_rfl hw⟩
      · exact ⟨286, a, by decide, by decide, h ▸ startC_fresh (by decide) (by decide) hw⟩
    have hrun := hfresh.rebuild hlo hhi
    rw [exec_dynReconst_C he hfresh.valid, reconstC_of_rebuild _ (by rw [hfresh.nMax]; exact hrun), withArena_draws]
  · obtain ⟨x, y, hx, hy, hxy⟩ : ∃ x y, s.arena.getChild 629 = leafLink x ∧ s.arena.getChild 630 = leafLink y ∧
        (x = 314 ∧ y = 315 ∨ x = 315 ∧ y = 314) := by
      rcases hleaves with ⟨h, h'⟩ | ⟨h, h'⟩
      · exact ⟨314, 315, h, h', .inl ⟨rfl, rfl⟩⟩
      · exact ⟨315, 314, h, h', .inr ⟨rfl, rfl⟩⟩
    obtain ⟨b, hrun, hb⟩ := reconstP_two hw hroot hx hy hxy hmost s.draws
    have hregs := hb.regs.regs
    obtain ⟨hc, hc629, hc630⟩ := hb.child
    obtain ⟨hlow, hsNode, -⟩ := hb.outside.sameC (by rw [hregs]) (by rw [hregs]) (by rw [hregs])
    refine ⟨b, ?_, by rw [hregs]; exact hmost, hc, hc629.trans hx.symm, hc630.trans hy.symm, hb.freq.1, hb.freq.2, hb.total,
      hb.root, hb.parent.1, hb.parent.2, by rw [hx, leafSymbol_leafLink]; exact hb.sNode.1,
      by rw [hy, leafSymbol_leafLink]; exact hb.sNode.2, hlow, hsNode⟩
    rw [exec_dynReconst_P he hv (by rw [hmost]; decide), hrun, withArena_draws]

end Sys2Proof.Proofs
end

section
/-! PROOFS. The position tree of one leaf (O44). -/

namespace Sys2Proof.Proofs

open Sys2Proof.Machine Sys2Proof.Laws

/-! ### Writes of what an element holds -/

section Same

variable {a : Arena} {i v : Nat} {c : Int} (hw : a.wf = true)

include hw

theorem setFreq_same (hv : a.getFreq i = v) : a.setFreq i v = a := by
  have hcell : BitVec.ofNat 16 v = cellGet 0#16 a.freq i := by
    rw [← hv, Arena.getFreq, BitVec.ofNat_toNat, BitVec.setWidth_eq]
  rw [Arena.setFreq, hcell, cellWrite_self ((arena_wf_iff a).mp hw).1]

theorem setChild_same (hc : a.getChild i = c) : a.setChild i c = a := by
  have hcell : BitVec.ofInt 16 c = cellGet 0#16 a.child i := by rw [← hc, Arena.getChild, BitVec.ofInt_toInt]
  rw [Arena.setChild, hcell, cellWrite_self ((arena_wf_iff a).mp hw).2.1]

theorem setSNode_same (hv : a.getSNode i = v) : a.setSNode i v = a := by
  have hcell : BitVec.ofNat 10 v = cellGet 0#10 a.sNode i := by
    rw [← hv, Arena.getSNode, BitVec.ofNat_toNat, BitVec.setWidth_eq]
  rw [Arena.setSNode, hcell, cellWrite_self ((arena_wf_iff a).mp hw).2.2.2]

end Same

/-! ### One leaf -/

/-- The position tree of one leaf, as O44 has it (R263, R285). -/
structure OneLeaf (a : Arena) : Prop where
  wf : a.wf = true
  most : a.mostP = 628#10
  child : a.getChild 628 = leafLink 314
  sNode : a.getSNode 314 = 628
  full : a.totalP = 0x8000#16 → a.getFreq 628 = 1

/-- TOTAL_P after one position is counted, the rebuild at 0x8000 included (log 26). -/
def countedTotal (total : BitVec 16) : BitVec 16 := if total = 0x8000#16 then 2#16 else total + 1

section OneLeaf

variable {a : Arena} (h : OneLeaf a)

include h

/-- The rebuild of one leaf of weight 1 changes TOTAL_P alone. -/
theorem OneLeaf.rebuildLeafP (hone : a.getFreq 628 = 1) : a.rebuildLeafP = { a with totalP := 1#16 } := by
  have hcompact : (compactLeaves 1 628 628 a).1 = a := by
    rw [compactLeaves, if_pos (h.child ▸ leafLink_neg 314), hone, setFreq_same h.wf hone, setChild_same h.wf rfl]
    rfl
  have hlink : a.linkBelow (a.getChild 628) 628 = a := by
    rw [Arena.linkBelow, h.child, if_neg (leafLink_neg 314).not_ge, leafSymbol_leafLink, setSNode_same h.wf h.sNode]
  rw [Arena.rebuildLeafP, rootP, hcompact, relink, hlink, relink, hone]

/-- R271: counting position 0 changes TOTAL_P alone. -/
theorem OneLeaf.updateP (k : Nat) : Arena.updateP 0 a k = ({ a with totalP := countedTotal a.totalP }, k) := by
  have hcount {t : BitVec 16} (ht : t ≠ 0x8000#16) :
      Arena.countLeafP 314 { a with totalP := t } k = ({ a with totalP := t + 1 }, k) := by
    have hleaf : ({ a with totalP := t } : Arena).getSNode 314 = 628 := h.sNode
    rw [countLeafP_unsaturated ht, hleaf, arenaBound, climb_root]
  rw [countedTotal, Arena.updateP]
  split_ifs with hfull
  · have hrun : a.reconstP k = ({ a with totalP := 1#16 }, k) := by
      rw [Arena.reconstP, if_pos (by rw [h.most]; rfl), h.rebuildLeafP (h.full hfull)]
    have hsaturated := countLeafP_saturated (k := k) 314 hfull (by
      rw [hrun]
      exact (by decide : (1#16 : BitVec 16) ≠ 0x8000#16))
    rw [hrun] at hsaturated
    exact hsaturated.trans (hcount (by decide))
  · exact hcount hfull

end OneLeaf

/-! ### The root split in two -/

/-- The root of `a` split into the leaves of positions 0 and 1, the second of which is still to be counted (R275). -/
structure SplitRoot (a g : Arena) : Prop where
  wf : g.wf = true
  child : g.getChild 628 = 630 ∧ g.getChild 629 = leafLink 314 ∧ g.getChild 630 = leafLink 315
  root : g.getFreq 628 = 0xFFFF
  freq : g.getFreq 629 = a.getFreq 628 ∧ g.getFreq 630 = 0
  parent : g.getParent 629 = 628 ∧ g.getParent 630 = 628
  sNode : g.getSNode 314 = 629 ∧ g.getSNode 315 = 630
  outside : Outside (spanP 2) a g

section Split

variable {a g : Arena}

theorem OneLeaf.splitRoot (h : OneLeaf a) : SplitRoot a (grown 1 a) := by
  have hm : a.mostP.toNat = 628 := by
    rw [h.most]
    rfl
  have hroom : a.mostP.toNat + 2 < 884 := by omega
  have hchild : a.getChild a.mostP.toNat = leafLink 314 := hm.symm ▸ h.child
  have hF (j : Nat) : (grown 1 a).getFreq j = _ := planted_getFreq (p := 1) h.wf hroom j
  have hC (j : Nat) : (grown 1 a).getChild j = _ := planted_getChild (p := 1) h.wf hroom (by decide) j
  have hP (j : Nat) : (grown 1 a).getParent j = _ := planted_getParent (p := 1) h.wf hroom j
  have hS (x : Nat) : (grown 1 a).getSNode x = _ := planted_getSNode (p := 1) h.wf hroom hchild (by decide) (by decide) x
  simp only [hm] at hF hC hP hS
  refine ⟨planted_wf h.wf, ⟨hC 628, (hC 629).trans h.child, hC 630⟩, hF 628, ⟨hF 629, hF 630⟩, ⟨hP 629, hP 630⟩, ⟨hS 314, hS 315⟩,
    ⟨fun j hj => ?_, fun j hj => ?_, fun j hj => ?_, fun x hx => ?_⟩⟩
  · rw [node_two] at hj
    rw [hF, if_neg (by omega), if_neg (by omega), if_neg (by omega)]
  · rw [node_two] at hj
    rw [hC, if_neg (by omega), if_neg (by omega), if_neg (by omega)]
  · rw [node_two] at hj
    change ¬(628 < j ∧ _) at hj
    rw [hP, if_neg (by omega)]
  · simp only [Span.Sym, spanP] at hx
    rw [hS, if_neg (by omega), if_neg (by omega)]

/-- The split root with its second leaf counted once, and TOTAL_P. -/
def secondCounted (g : Arena) (total : BitVec 16) : Arena := { g.setFreq 630 1 with totalP := total }

/-- The first count of the second position. -/
theorem SplitRoot.updateP (hs : SplitRoot a g) (hpos : 1 ≤ a.getFreq 628) (hroom : g.totalP ≠ 0x8000#16) (k : Nat) :
    Arena.updateP 1 g k = (secondCounted g (g.totalP + 1), k) := by
  obtain ⟨hfirst, hsecond⟩ := hs.freq
  have hfits : (spanP 2).Fits := ⟨le_rfl, .inr ⟨rfl, rfl, by decide⟩⟩
  have hlead : g.leader 630 = 630 := by
    obtain ⟨hge, hle, heq, -⟩ := leader_spec hs.wf hfits (node_two.mpr (.inr (.inr rfl)))
    change 628 ≤ g.leader 630 at hge
    rw [hsecond] at heq
    rcases (show g.leader 630 = 628 ∨ g.leader 630 = 629 ∨ g.leader 630 = 630 by omega) with hl | hl | hl
    · rw [hl, hs.root] at heq
      cases heq
    · rw [hl, hfirst] at heq
      omega
    · exact hl
  have hinc : g.inc 630 = (g.setFreq 630 1, 628) := by
    rw [Arena.inc, hlead, if_neg (not_not.mpr rfl), hsecond, getParent_setFreq, hs.parent.2]
  have hclimb : Arena.climb 628 arenaBound g (g.getSNode (314 + 1)) k = (g.setFreq 630 1, k) := by
    obtain ⟨turns, hturns⟩ : ∃ turns, arenaBound = turns + 1 + 1 := ⟨2046, rfl⟩
    rw [hs.sNode.2, hturns, climb_step (by decide), hinc, climb_root]
  have hcount := countLeafP_unsaturated hroom (314 + 1) k
  rw [hclimb] at hcount
  exact hcount

/-- DYN_NEW_NODE's split of the root, its count included: a saturated tree is rebuilt in between, with the same two leaves. -/
theorem OneLeaf.makeNewNode (h : OneLeaf a) (hpos : 1 ≤ a.getFreq 628) (k : Nat) : ∃ g, SplitRoot a g ∧
    Arena.makeNewNode 1 a k = (secondCounted g (countedTotal a.totalP), k) := by
  have hgrown := h.splitRoot
  have htotal : (grown 1 a).totalP = a.totalP := by
    rw [grown, planted_onlyRams (p := 1) (a := a)]
  rw [makeNewNode_eq, ← grown, countedTotal]
  split_ifs with hfull
  · have hm : (grown 1 a).mostP = 630#10 := by
      rw [grown, h.most]
      rfl
    obtain ⟨hcroot, hc629, hc630⟩ := hgrown.child
    obtain ⟨b, hrun, hb⟩ := reconstP_two hgrown.wf hcroot hc629 hc630 (.inl ⟨rfl, rfl⟩) hm k
    obtain ⟨hf629, hf630⟩ := hb.freq
    rw [hgrown.freq.1, h.full hfull] at hf629
    rw [hgrown.freq.2] at hf630
    have hone : b.totalP = 1#16 := by rw [hb.total, hf629, hf630]
    have hsplit : SplitRoot a b := ⟨hb.wf, hb.child, hb.root, ⟨hf629.trans (h.full hfull).symm, hf630⟩, hb.parent, hb.sNode,
      hgrown.outside.trans hb.outside⟩
    have hcount := hsplit.updateP hpos (by rw [hone]; decide) k
    have hsaturated := countLeafP_saturated (k := k) (314 + 1) (htotal.trans hfull) (by rw [hrun, hone]; decide)
    rw [hrun] at hsaturated
    rw [hone] at hcount
    exact ⟨b, hsplit, hsaturated.trans hcount⟩
  · have hcount := hgrown.updateP hpos (htotal ▸ hfull) k
    rw [htotal] at hcount
    exact ⟨_, hgrown, hcount⟩

end Split

/-- Settles O44: the climb from the root is over at once (`OneLeaf.updateP`), and of the split root's leaves only the second is
counted (`SplitRoot.updateP`). -/
theorem singlePositionTree : Obligations.SinglePositionTree := by
  unfold Obligations.SinglePositionTree
  intro s total he hv hw hmost hchild hsNode hfull htotal
  have h : OneLeaf s.arena := ⟨hw, hmost, hchild, hsNode, hfull⟩
  have hlast : s.arena.lastPosition = 0 := by
    rw [Arena.lastPosition, hmost]
    rfl
  have hupdate : Arena.updateP 0 s.arena s.draws = ({ s.arena with totalP := total }, s.draws) := by
    rw [h.updateP, htotal]
    rfl
  refine ⟨?_, fun hr hd hdue => ?_, fun hpos => ?_⟩
  · rw [exec_dynUpdateP he hv (Nat.zero_le _)]
    exact congrArg (fun x => Host.Outcome.next ((withArena s x).ended [])) hupdate
  · have hzero : s.reader.advance 0 = s.reader := congrArg State.reader (skipped_zero s)
    rw [exec_dynDecodeP (x := 0) (bits := []) he hr hd hv hdue (by decide) (by decide) s.reader.pos.isLt.le
      (fun j hj => absurd hj (Nat.not_lt_zero j)) hchild, hupdate, List.length_nil, hzero, Nat.zero_mul, Nat.zero_add,
      Nat.zero_add]
    rfl
  · obtain ⟨g, hg, hrun⟩ := h.makeNewNode hpos s.draws
    have hregs := (rewrites_makeNewNode 1 s.arena s.draws).regs
    rw [hrun] at hregs
    generalize hb : secondCounted g (countedTotal s.arena.totalP) = b at hrun hregs
    dsimp only at hregs
    have hF (j : Nat) : b.getFreq j = if j = 630 then 1 else g.getFreq j :=
      hb ▸ getFreq_setFreq (i := 630) (v := 1) hg.wf (by decide) (by decide) j
    have htotalB : b.totalP = countedTotal s.arena.totalP := hb ▸ rfl
    have hC (j : Nat) : b.getChild j = g.getChild j := hb ▸ rfl
    have hP (j : Nat) : b.getParent j = g.getParent j := hb ▸ rfl
    have hS (x : Nat) : b.getSNode x = g.getSNode x := hb ▸ rfl
    have hout : Outside (spanP 2) s.arena b := by
      refine ⟨fun j hj => ?_, fun j hj => (hC j).trans (hg.outside.child j hj),
        fun j hj => (hP j).trans (hg.outside.parent j hj), fun x hx => (hS x).trans (hg.outside.sNode x hx)⟩
      rw [hF, if_neg fun heq : j = 630 => hj (node_two.mpr (.inr (.inr heq)))]
      exact hg.outside.freq j hj
    obtain ⟨hlow, hsym, -⟩ := hout.sameC (by rw [hregs]) (by rw [hregs]) (by rw [hregs])
    obtain ⟨hc, hc629, hc630⟩ := hg.child
    obtain ⟨hp629, hp630⟩ := hg.parent
    obtain ⟨hs314, hs315⟩ := hg.sNode
    refine ⟨b, ?_, ?_, (hC 628).trans hc, (hC 629).trans hc629, (hC 630).trans hc630, (hF 628).trans hg.root,
      (hF 629).trans hg.freq.1, hF 630, (hP 629).trans hp629, (hP 630).trans hp630, (hS 314).trans hs314,
      (hS 315).trans hs315, htotalB.trans htotal.symm, ?_, ?_, ?_, ?_, ?_, ?_, hlow, hsym⟩
    · rw [exec_dynNewNode he hv (by rw [hlast]; rfl) (by rw [hmost]; decide)]
      exact congrArg (fun x => Host.Outcome.next ((withArena s x).ended [])) hrun
    · rw [hregs, hmost]
      rfl
    all_goals rw [hregs]
    exact hv

end Sys2Proof.Proofs
end
